-- ==== Sys2Proof/Word.lean ====
section
/-!
DEFINITION. The machine's words and their plainest arithmetic.
-/

namespace Sys2Proof

/-- The 64-bit word of the integer registers. -/
abbrev Word := BitVec 64

/-- A byte. -/
abbrev Byte := BitVec 8

end Sys2Proof
end

