-- ==== Sys2Proof/Config.lean ====
section
/-!
DEFINITION. What the module's manufacture fixes and the spec leaves open: constants without a body, of which nothing can be proved.
Each is named in the assumption log.
-/

namespace Sys2Proof.Config

/-- A value the spec does not state, fresh for each number (log 9). -/
opaque freeWord : Nat → BitVec 64

/-- The sign of the exact zeros of cos(πx) (`true`) and sin(πx) at a non-zero x, by the sign of x and 2|x| (R143; log 20). -/
opaque trigZeroNeg : Bool → Bool → Nat → Bool

/-- The signature that the device identity key gives at an index over a message (R391; log 40). -/
opaque signature : Nat → List (BitVec 8) → List (BitVec 8)

/-- Whether a firmware image's signature verifies against the fused public-key hash (R391; log 40). -/
opaque verifies : List (BitVec 8) → Bool

/-- The version a firmware image carries (R391; log 40). -/
opaque imageVersion : List (BitVec 8) → Nat

/-- The measurement of a firmware image (R391; log 40). -/
opaque measurement : List (BitVec 8) → BitVec 256

end Sys2Proof.Config
end

