-- ==== Sys2Proof/Syntax.lean ====
section
/-!
DEFINITION. The abstract syntax: register operands, the coded fields of the instructions, and the one inductive `Instr` with a
constructor for every row of the opcode table (185 instructions and 108 happenings).
-/

namespace Sys2Proof

/-- R53: a register named by a 6-bit field: `x n` is private to the slot, `y n` is shared by the core (`y 28` to `y 31` are the
queue ports). -/
inductive Reg where
  | x (n : BitVec 5)
  | y (n : BitVec 5)
deriving DecidableEq, Repr

/-- R22: the access sizes of loads, stores and extensions. -/
inductive Size where
  | b  -- 1 byte
  | h  -- 2 bytes
  | w  -- 4 bytes
  | d  -- 8 bytes
deriving DecidableEq, Repr

/-- R241: the access sizes of acquire loads, release stores and atomics. -/
inductive Size2 where
  | w  -- 4 bytes
  | d  -- 8 bytes
deriving DecidableEq, Repr

/-- R158: the LLC hints. -/
inductive Hint where
  | none  -- normal
  | ef  -- evict-first
  | keep  -- keep
  | na  -- no-allocate
deriving DecidableEq, Repr

/-- R54: the lane widths. -/
inductive Width where
  | w32  -- 32-bit lanes
  | w16  -- 16-bit lanes
  | w8  -- 8-bit lanes
  | w64  -- 64-bit lanes
deriving DecidableEq, Repr

/-- R228: the order kinds of an atomic. -/
inductive AKind where
  | rlx  -- relaxed
  | acq  -- acquire
  | rel  -- release
  | ar  -- acquire and release
deriving DecidableEq, Repr

/-- R137: the conditions of VCMP. -/
inductive CmpCond where
  | eq  -- a = b
  | lt  -- a < b
  | le  -- a ≤ b
  | ne  -- a ≠ b
deriving DecidableEq, Repr

/-- R137: how VCMP compares. -/
inductive CmpKind where
  | s  -- signed integers
  | n  -- unsigned integers
  | fl  -- BF16 at 16 bits, FP32 at 32
  | f16  -- FP16
deriving DecidableEq, Repr

/-- R71: the branch conditions. -/
inductive Cond where
  | eq  -- a = b
  | ne  -- a ≠ b
  | lt  -- a < b, signed
  | ge  -- a ≥ b, signed
  | gt  -- a > b, signed
  | le  -- a ≤ b, signed
  | ltn  -- a < b, unsigned
  | gen  -- a ≥ b, unsigned
  | gtn  -- a > b, unsigned
  | len  -- a ≤ b, unsigned
deriving DecidableEq, Repr

/-- R102: the operations of MLOG. -/
inductive LogOp where
  | and  -- a AND b
  | or  -- a OR b
  | xor  -- a XOR b
  | andn  -- a AND NOT b
  | not  -- NOT a
deriving DecidableEq, Repr

/-- R134: the lane types. -/
inductive VType where
  | int  -- integers that wrap
  | is  -- signed integers that saturate
  | ns  -- unsigned integers that saturate
  | bf16  -- BF16
  | f16  -- FP16
  | f32  -- FP32
deriving DecidableEq, Repr

/-- R140: the operations of VRED. -/
inductive RedOp where
  | add  -- sum
  | min  -- minimum
  | max  -- maximum
  | and  -- AND
  | or  -- OR
  | xor  -- XOR
deriving DecidableEq, Repr

/-- R142: the special functions. -/
inductive SfnOp where
  | exp2  -- 2^a
  | log2  -- base-2 logarithm
  | rcp  -- 1 / a
  | rsqrt  -- 1 / √a
  | sqrt  -- √a
  | sinpi  -- sin(πa)
  | cospi  -- cos(πa)
  | tanh  -- tanh a
  | sigm  -- logistic
  | exp  -- e^a
  | log  -- ln a
deriving DecidableEq, Repr

/-- R241: the order kinds of FENCE. -/
inductive FKind where
  | acq  -- acquire
  | rel  -- release
  | ar  -- acquire and release
deriving DecidableEq, Repr

/-- R227: the scopes. -/
inductive Scope where
  | c  -- one core
  | o  -- one octet
  | d  -- one stack
  | v  -- the module
  | s  -- the module, the host and its requesters
deriving DecidableEq, Repr

/-- R294: what RUDROP drops. -/
inductive DropMode where
  | key  -- one key
  | all  -- every entry of the tenant
  | dem  -- the demoted set
deriving DecidableEq, Repr

/-- R219: what TLBINV drops. -/
inductive InvScope where
  | va  -- one address
  | range  -- a range
  | part  -- the partition
deriving DecidableEq, Repr

/-- A host access that reaches the module (R239, R240, R386, R387): over BAR2 or CXL.mem to device memory, to the host's own memory,
or to a queue's window. -/
inductive HostAcc where
  | load (addr n : Nat) (cxl : Bool)                                  -- device memory; CXL.mem or BAR2
  | store (addr : Nat) (bytes : List (BitVec 8)) (cxl : Bool)         -- device memory
  | cas (addr n : Nat) (cmp new : Nat)                                -- AtomicOp CAS of 4, 8 or 16 bytes on BAR2
  | own (addr : Nat) (bytes : List (BitVec 8))                        -- the host writes its own memory
  | barLoad (off : Nat)                                               -- 8 bytes of BAR0
  | barStore (off : Nat) (v : BitVec 64)                              -- 8 bytes of BAR0
deriving DecidableEq, Repr

/-- R344: what reaches a Frerrayx port: a flit, or the peer's request for a replay from a SEQ. -/
inductive LinkIn where
  | flit (b : BitVec 1024)
  | replay (seq : BitVec 16)
deriving DecidableEq, Repr

/-- R389: what PART_CREATE carries. -/
structure PartSpec where
  num : Nat
  octets : List Nat
  ptbase : BitVec 64
  quota : Nat                     -- Q, in 2 MiB granules
  store : Nat                     -- Newt store base and size, bytes
  storeSize : Nat
  pool : Nat                      -- rollback pool, bytes
  cap : Nat
  save : Nat
  period : Option Nat             -- the GVT round period; none: the default (R332)
  ring : BitVec 64                -- the device queue's RING, RSZ and TICKETS
  rsz : Nat
  tickets : Nat
  sigBase : Nat                   -- the signal ring (R398), host memory addresses
  sigK : Nat
  sigPidx : Nat
  sigCidx : Nat
  vectors : List Nat              -- signal vector i raises MSI-X vector `vectors[i]`
deriving DecidableEq, Repr

/-- R248: what QUEUE_CONFIG carries. -/
structure QueueSpec where
  part : Nat
  tenant : BitVec 16
  tickets : Nat
  en : Bool
  sv : Bool
  df : Bool
  tw : Bool
  ring : BitVec 64
  rsz : Nat
  heada : BitVec 64
  taila : BitVec 64
deriving DecidableEq, Repr

/-- R334: what RING_CONFIG carries. -/
structure RingSpec where
  en : Bool
  home : Nat
  base : BitVec 64
  rsz : Nat
  pidxa : BitVec 64
  cidxa : BitVec 64
  statwa : BitVec 64
deriving DecidableEq, Repr

/-- One instruction of the opcode table, or one happening of the module that the table lists beside them (a table row without
an encoding). The operands of an instruction are the decoded fields; the operands of a happening name the unit it concerns. -/
inductive Instr where
  | nop  -- R72: no operation
  | b (off : BitVec 11) (hd : BitVec 5)  -- R73: branch
  | bl (d : Reg) (off : BitVec 11) (hd : BitVec 5)  -- R73: branch and link
  | bc (a : Reg) (b : Reg) (off : BitVec 11) (hd : BitVec 5) (c : Cond)  -- R73: branch when a condition on two registers holds
  | bcz (a : Reg) (off : BitVec 11) (hd : BitVec 5) (c : Cond)  -- R73: branch when a condition against zero holds
  | jx (a : Reg)  -- R74: jump to a register PC
  | jlx (d : Reg) (a : Reg)  -- R74: jump to a register PC and link
  | loop (a : Reg) (off : BitVec 11) (hd : BitVec 5)  -- R75: decrement and branch
  | halt  -- R76: end the task
  | trap (imm : BitVec 10)  -- R76: raise TRAP_INSN
  | eret  -- R76: return from a trap handler
  | park  -- R77: park or consume WP
  | wake (d : Reg) (a : Reg)  -- R77: set WP of a slot of the core
  | issueset (d : Reg) (a : Reg) (w : BitVec 2)  -- R78: write a word of the pending issue table
  | issueget (d : Reg) (pend : Bool) (w : BitVec 2)  -- R78: read a word of the issue table
  | add (d : Reg) (a : Reg) (b : Reg)  -- R93: a + b
  | sub (d : Reg) (a : Reg) (b : Reg)  -- R93: a - b
  | mul (d : Reg) (a : Reg) (b : Reg)  -- R93: low product
  | mulh (d : Reg) (a : Reg) (b : Reg)  -- R93: high signed product
  | mulhn (d : Reg) (a : Reg) (b : Reg)  -- R93: high unsigned product
  | div (d : Reg) (a : Reg) (b : Reg)  -- R94: signed quotient
  | divn (d : Reg) (a : Reg) (b : Reg)  -- R94: unsigned quotient
  | rem (d : Reg) (a : Reg) (b : Reg)  -- R94: signed remainder
  | remn (d : Reg) (a : Reg) (b : Reg)  -- R94: unsigned remainder
  | and (d : Reg) (a : Reg) (b : Reg)  -- R93: a AND b
  | or (d : Reg) (a : Reg) (b : Reg)  -- R93: a OR b
  | xor (d : Reg) (a : Reg) (b : Reg)  -- R93: a XOR b
  | andn (d : Reg) (a : Reg) (b : Reg)  -- R93: a AND NOT b
  | shl (d : Reg) (a : Reg) (b : Reg)  -- R93: shift left
  | shra (d : Reg) (a : Reg) (b : Reg)  -- R93: arithmetic shift right
  | shrl (d : Reg) (a : Reg) (b : Reg)  -- R93: logical shift right
  | rotl (d : Reg) (a : Reg) (b : Reg)  -- R93: rotate left
  | min (d : Reg) (a : Reg) (b : Reg)  -- R93: signed minimum
  | max (d : Reg) (a : Reg) (b : Reg)  -- R93: signed maximum
  | minn (d : Reg) (a : Reg) (b : Reg)  -- R93: unsigned minimum
  | maxn (d : Reg) (a : Reg) (b : Reg)  -- R93: unsigned maximum
  | slt (d : Reg) (a : Reg) (b : Reg)  -- R93: signed less
  | sltn (d : Reg) (a : Reg) (b : Reg)  -- R93: unsigned less
  | seq (d : Reg) (a : Reg) (b : Reg)  -- R93: equal
  | addi (d : Reg) (a : Reg) (imm : BitVec 10)  -- R95: immediate operation
  | andi (d : Reg) (a : Reg) (imm : BitVec 10)  -- R95: immediate operation
  | ori (d : Reg) (a : Reg) (imm : BitVec 10)  -- R95: immediate operation
  | xori (d : Reg) (a : Reg) (imm : BitVec 10)  -- R95: immediate operation
  | shli (d : Reg) (a : Reg) (sh : BitVec 6)  -- R95: immediate shift
  | shrai (d : Reg) (a : Reg) (sh : BitVec 6)  -- R95: immediate shift
  | shrli (d : Reg) (a : Reg) (sh : BitVec 6)  -- R95: immediate shift
  | slti (d : Reg) (a : Reg) (imm : BitVec 10)  -- R95: signed less than immediate
  | li (d : Reg) (imm : BitVec 26)  -- R96: load a signed 26-bit constant
  | lih (d : Reg) (a : Reg) (imm : BitVec 26)  -- R96: shift in 26 bits
  | addpc (d : Reg) (off : BitVec 11) (hd : BitVec 5)  -- R97: PC of a target
  | clz (d : Reg) (a : Reg)  -- R98: bit count
  | ctz (d : Reg) (a : Reg)  -- R98: bit count
  | popc (d : Reg) (a : Reg)  -- R98: bit count
  | sel (d : Reg) (a : Reg) (b : Reg) (c : Reg)  -- R99: select by a third register
  | bfx (d : Reg) (a : Reg) (wm1 : BitVec 6) (lo : BitVec 6) (sx : Bool)  -- R100: extract a bit field
  | bfi (d : Reg) (a : Reg) (b : Reg) (wm1 : BitVec 6) (lo : BitVec 6)  -- R100: insert a bit field
  | exts (d : Reg) (a : Reg) (sz : Size)  -- R98: sign-extend
  | extz (d : Reg) (a : Reg) (sz : Size)  -- R98: zero-extend
  | getc (d : Reg) (n : BitVec 10)  -- R101: read a control register
  | setc (d : Reg) (a : Reg) (n : BitVec 10)  -- R101: write a control register
  | mlog (md : BitVec 3) (ma : BitVec 3) (mb : BitVec 3) (op : LogOp)  -- R102: mask logic
  | mget (md : BitVec 3) (a : Reg)  -- R102: mask to register
  | mset (md : BitVec 3) (a : Reg)  -- R102: register to mask
  | fcvt (d : Reg) (a : Reg) (b : Reg)  -- R121: convert a scalar element
  | fcvti (d : Reg) (a : Reg) (b : Reg) (n : Bool)  -- R121: element to integer
  | icvtf (d : Reg) (a : Reg) (b : Reg) (n : Bool)  -- R121: integer to element
  | fclass (d : Reg) (a : Reg) (b : Reg)  -- R122: class mask
  | dtload (d : Reg) (a : Reg) (t : BitVec 1)  -- R123: load a decode table
  | dtread (d : Reg) (a : Reg) (t : BitVec 1)  -- R123: read a decode table entry
  | vadd (w : Width) (vd : BitVec 4) (va : BitVec 4) (vb : BitVec 4) (mk : Option (BitVec 3)) (t : VType)  -- R135: lanewise arithmetic
  | vsub (w : Width) (vd : BitVec 4) (va : BitVec 4) (vb : BitVec 4) (mk : Option (BitVec 3)) (t : VType)  -- R135: lanewise arithmetic
  | vmul (w : Width) (vd : BitVec 4) (va : BitVec 4) (vb : BitVec 4) (mk : Option (BitVec 3)) (t : VType)  -- R135: lanewise arithmetic
  | vfma (w : Width) (vd : BitVec 4) (va : BitVec 4) (vb : BitVec 4) (vc : BitVec 4) (mk : Option (BitVec 3)) (t : VType)  -- R135: lanewise multiply-add
  | vmin (w : Width) (vd : BitVec 4) (va : BitVec 4) (vb : BitVec 4) (mk : Option (BitVec 3)) (t : VType)  -- R135: lanewise minimum or maximum
  | vmax (w : Width) (vd : BitVec 4) (va : BitVec 4) (vb : BitVec 4) (mk : Option (BitVec 3)) (t : VType)  -- R135: lanewise minimum or maximum
  | vabs (w : Width) (vd : BitVec 4) (va : BitVec 4) (mk : Option (BitVec 3)) (t : VType)  -- R135: lanewise magnitude
  | vcmp (w : Width) (vd : BitVec 4) (va : BitVec 4) (vb : BitVec 4) (mk : Option (BitVec 3)) (c : CmpCond) (k : CmpKind)  -- R137: lanewise compare
  | vsel (w : Width) (vd : BitVec 4) (va : BitVec 4) (vb : BitVec 4) (mk : Option (BitVec 3))  -- R137: lanewise bit operation
  | vand (w : Width) (vd : BitVec 4) (va : BitVec 4) (vb : BitVec 4) (mk : Option (BitVec 3))  -- R136: lanewise bit operation
  | vor (w : Width) (vd : BitVec 4) (va : BitVec 4) (vb : BitVec 4) (mk : Option (BitVec 3))  -- R136: lanewise bit operation
  | vxor (w : Width) (vd : BitVec 4) (va : BitVec 4) (vb : BitVec 4) (mk : Option (BitVec 3))  -- R136: lanewise bit operation
  | vshl (w : Width) (vd : BitVec 4) (va : BitVec 4) (vb : BitVec 4) (mk : Option (BitVec 3))  -- R136: lanewise bit operation
  | vshr (w : Width) (vd : BitVec 4) (va : BitVec 4) (vb : BitVec 4) (mk : Option (BitVec 3)) (ar : Bool)  -- R136: lanewise right shift
  | vbcast (w : Width) (vd : BitVec 4) (xa : BitVec 4) (mk : Option (BitVec 3))  -- R138: broadcast a register
  | vins (w : Width) (vd : BitVec 4) (xa : BitVec 4) (nl : BitVec 4) (mk : Option (BitVec 3)) (nh : BitVec 1)  -- R138: insert a lane
  | vmovx (d : Reg) (va : BitVec 4) (nl : BitVec 4) (nh : BitVec 1) (sx : Bool) (szx : BitVec 2)  -- R138: lane to register
  | vidx (w : Width) (vd : BitVec 4) (mk : Option (BitVec 3))  -- R138: lane indices
  | vperm (w : Width) (vd : BitVec 4) (va : BitVec 4) (vb : BitVec 4) (mk : Option (BitVec 3))  -- R139: permute lanes
  | vred (w : Width) (vd : BitVec 4) (va : BitVec 4) (op : RedOp) (mk : Option (BitVec 3)) (t : VType)  -- R140: reduce lanes
  | vdec (vd : BitVec 4) (va : BitVec 4) (xb : BitVec 4)  -- R141: convert packed elements
  | venc (vd : BitVec 4) (va : BitVec 4) (xb : BitVec 4)  -- R141: convert packed elements
  | vcvt (vd : BitVec 4) (va : BitVec 4) (xb : BitVec 4)  -- R141: convert packed elements
  | sfn (w : Width) (vd : BitVec 4) (va : BitVec 4) (fn : SfnOp) (mk : Option (BitVec 3)) (t : VType)  -- R142: special function
  | vmode (d : Reg) (m : Bool)  -- R144: enter or leave long mode
  | vfence  -- R145: wait for long-mode commands
  | vstat (d : Reg)  -- R146: long-mode status
  | ld (d : Reg) (a : Reg) (imm : BitVec 16) (sz : Size) (h : Hint)  -- R161: zero-extending load
  | lds (d : Reg) (a : Reg) (imm : BitVec 16) (sz : Size) (h : Hint)  -- R161: sign-extending load
  | st (a : Reg) (b : Reg) (imm : BitVec 16) (sz : Size) (h : Hint)  -- R161: store
  | stn (a : Reg) (b : Reg) (imm : BitVec 16) (hi : Bool) (h : Hint)  -- R162: store a nibble
  | ldx (d : Reg) (a : Reg) (b : Reg) (imm : BitVec 16) (sz : Size) (h : Hint)  -- R161: indexed load
  | stx (a : Reg) (b : Reg) (c : Reg) (imm : BitVec 16) (sz : Size) (h : Hint)  -- R161: indexed store
  | ldf (d : Reg) (a : Reg) (imm : BitVec 16)  -- R164: load when full
  | ldfe (d : Reg) (a : Reg) (imm : BitVec 16)  -- R164: load when full
  | stf (a : Reg) (b : Reg) (imm : BitVec 16)  -- R164: store when empty
  | feset (a : Reg) (imm : BitVec 16) (full : Bool)  -- R164: set the full/empty bit
  | feget (d : Reg) (a : Reg) (imm : BitVec 16)  -- R164: read the full/empty bit
  | vld (vd : BitVec 4) (a : Reg) (imm : BitVec 16) (h : Hint)  -- R163: vector load
  | vst (vd : BitVec 4) (a : Reg) (imm : BitVec 16) (h : Hint)  -- R163: vector store
  | vldx (w : Width) (vd : BitVec 4) (a : Reg) (b : Reg) (imm : BitVec 16) (h : Hint)  -- R163: strided vector load
  | vstx (a : Reg) (b : Reg) (w : Width) (vc : BitVec 4) (imm : BitVec 16) (h : Hint)  -- R163: strided vector store
  | bankrole (d : Reg) (a : Reg) (b : Reg)  -- R165: change bank roles
  | stashmap (d : Reg) (a : Reg) (bank : BitVec 5) (h : Hint)  -- R165: map a stash bank
  | stashwb (a : Reg)  -- R165: write back stash lines
  | wait (l : BitVec 4) (s : BitVec 4) (c : BitVec 4) (t : BitVec 4)  -- R166: wait for counters
  | cntget (d : Reg)  -- R166: read the counters
  | tmma (a : Reg) (c : Reg) (row0 : BitVec 7) (m1 : BitVec 7) (z : Bool) (l : BitVec 1)  -- R176: multiply-accumulate a tile
  | tzero (a : Reg)  -- R177: zero accumulator rows
  | tbld (a : Reg) (b : Reg) (h : Hint) (l : BitVec 1)  -- R178: load a B latch
  | tbpass (drop : Bool) (l : BitVec 1)  -- R179: pass or drop a B tile
  | tdrain (a : Reg) (b : Reg) (c : Reg) (imm : BitVec 16) (z : Bool) (wk : Bool) (fl : Bool)  -- R180: drain accumulator rows
  | tfence  -- R182: wait for matrix operations
  | tstat (d : Reg) (clr : Bool) (w : BitVec 2)  -- R183: matrix state
  | twgt (d : Reg) (a : Reg) (b : Reg)  -- R184: set a core weight
  | cpy (q : BitVec 3)  -- R200: push a copy request
  | cpyt (d : Reg) (q : BitVec 3)  -- R200: try to push a copy request
  | mbxpop (p : BitVec 4)  -- R202: pop a message
  | wfm  -- R201: wait for a message
  | uien (d : Reg) (a : Reg) (b : Reg)  -- R203: user-interrupt enable
  | uiret  -- R203: return from a user interrupt
  | tokacc (a : Reg) (b : Reg) (imm : BitVec 16)  -- R205: speculative acceptance
  | pft (a : Reg) (imm : BitVec 16) (h : Hint)  -- R221: prefetch a tensor
  | pinw (d : Reg) (a : Reg)  -- R220: set a pin window
  | pinq (d : Reg) (a : Reg)  -- R220: query pin windows
  | cwb (d : Reg) (a : Reg) (b : Reg) (all : Bool)  -- R222: write back core lines
  | cinv (d : Reg) (a : Reg) (b : Reg) (llc : Bool) (all : Bool)  -- R222: invalidate core lines
  | tlbinv (a : Reg) (b : Reg) (sc : InvScope)  -- R223: drop translations
  | fence (sc : Scope) (k : FKind)  -- R242: order accesses
  | ldacq (d : Reg) (a : Reg) (imm : BitVec 16) (sz : Size2) (sc : Scope)  -- R243: acquire load
  | strel (a : Reg) (b : Reg) (imm : BitVec 16) (sz : Size2) (sc : Scope)  -- R243: release store
  | aadd (d : Reg) (a : Reg) (b : Reg) (sz : Size2) (sc : Scope) (k : AKind) (h : Hint)  -- R244: atomic operation
  | aand (d : Reg) (a : Reg) (b : Reg) (sz : Size2) (sc : Scope) (k : AKind) (h : Hint)  -- R244: atomic operation
  | aor (d : Reg) (a : Reg) (b : Reg) (sz : Size2) (sc : Scope) (k : AKind) (h : Hint)  -- R244: atomic operation
  | axor (d : Reg) (a : Reg) (b : Reg) (sz : Size2) (sc : Scope) (k : AKind) (h : Hint)  -- R244: atomic operation
  | amin (d : Reg) (a : Reg) (b : Reg) (sz : Size2) (sc : Scope) (k : AKind) (h : Hint)  -- R244: atomic operation
  | amax (d : Reg) (a : Reg) (b : Reg) (sz : Size2) (sc : Scope) (k : AKind) (h : Hint)  -- R244: atomic operation
  | aminn (d : Reg) (a : Reg) (b : Reg) (sz : Size2) (sc : Scope) (k : AKind) (h : Hint)  -- R244: atomic operation
  | amaxn (d : Reg) (a : Reg) (b : Reg) (sz : Size2) (sc : Scope) (k : AKind) (h : Hint)  -- R244: atomic operation
  | aswp (d : Reg) (a : Reg) (b : Reg) (sz : Size2) (sc : Scope) (k : AKind) (h : Hint)  -- R244: atomic operation
  | acas (d : Reg) (a : Reg) (b : Reg) (c : Reg) (imm : BitVec 16) (sz : Size2) (sc : Scope) (k : AKind) (h : Hint)  -- R245: compare and swap
  | acas2 (d : Reg) (a : Reg) (b : Reg) (c : Reg) (imm : BitVec 16) (sc : Scope) (k : AKind) (h : Hint)  -- R245: compare and swap of 16 bytes
  | enq (d : Reg) (a : Reg) (b : Reg)  -- R261: append a packet to a queue
  | qfence  -- R263: wait for arrivals
  | launch (d : Reg) (a : Reg)  -- R261: append a packet to the device queue
  | bar (d : Reg) (g : BitVec 2)  -- R258: group barrier
  | qstat (d : Reg) (a : Reg)  -- R264: queue state
  | glaunch (d : Reg) (a : Reg)  -- R274: launch a graph
  | gtok (d : Reg) (a : Reg) (b : Reg)  -- R280: deliver a token
  | gexp (d : Reg) (a : Reg) (b : Reg)  -- R280: raise a node's expected count
  | gstat (d : Reg) (a : Reg) (b : Reg) (n : Bool)  -- R281: graph or node state
  | gcancel (d : Reg) (a : Reg) (b : Reg)  -- R280: cancel a node's cone
  | gretry (d : Reg) (a : Reg) (b : Reg)  -- R280: re-arm a node's cone
  | rulook (d : Reg) (a : Reg)  -- R295: reuse lookup
  | ruput (d : Reg) (a : Reg)  -- R295: reuse insert
  | rudrop (d : Reg) (a : Reg) (m : DropMode)  -- R296: drop reuse entries
  | rustat (d : Reg) (a : Reg)  -- R297: reuse counts
  | agnew (d : Reg) (a : Reg)  -- R317: create an agent
  | agstat (d : Reg) (a : Reg) (b : Reg)  -- R318: read an agent word
  | evsend (d : Reg) (a : Reg)  -- R319: send an event
  | evdone  -- R320: end the open event
  | ctxapp (d : Reg) (a : Reg) (b : Reg)  -- R321: append context positions
  | ctxcut (d : Reg) (a : Reg) (b : Reg) (cm : Bool)  -- R321: cut or commit context
  | irrev (d : Reg) (a : Reg) (b : Reg)  -- R322: queue an irrevocable record
  | vtwin (d : Reg) (a : Reg)  -- R323: set the optimism window
  | gvtreq  -- R340: request a GVT round
  | streamset (d : Reg) (a : Reg) (p : BitVec 2)  -- R354: install or free a stream
  | mark (d : Reg) (p : BitVec 2)  -- R355: place a marker
  | coll (d : Reg) (a : Reg)  -- R363: post a collective
  | nstat (d : Reg) (a : Reg)  -- R364: network state
  | gangsw (d : Reg) (a : Reg) (b : Reg)  -- R381: arm or disarm the gang switch
  | dlchk  -- R382: deadlock check
  | rplog (d : Reg) (a : Reg)  -- R383: receive log and replay
  | faultget (d : Reg) (a : Reg)  -- R384: read the trap record
  | biasf (d : Reg) (a : Reg) (host : Bool)  -- R397: flip a page's bias
  | hostsig (d : Reg) (a : Reg) (b : Reg)  -- R398: signal the host
  | lineFill (k : Nat) (sl : Nat)  -- R49: the missed line of slot `sl` of core `k` arrives
  | portPop (k : Nat) (sl : Nat) (p : BitVec 2) (d : Reg)  -- R85: slot `sl` of core `k` pops port `p` into register `d`
  | portPush (k : Nat) (sl : Nat) (p : BitVec 2) (v : BitVec 64)  -- R85: slot `sl` of core `k` pushes `v` to port `p`
  | eventPortPop (k : Nat) (sl : Nat) (d : Reg)  -- R308: slot `sl` of core `k` pops y31 into register `d`
  | dutyWrite (k : Nat) (sl : Nat) (v : BitVec 64)  -- R65: slot `sl` of core `k` writes DUTY
  | cpcWrite (k : Nat) (sl : Nat) (v : BitVec 64)  -- R352: slot `sl` of core `k` writes CPC
  | registerWrite (k : Nat) (sl : Nat) (n : BitVec 10) (v : BitVec 64)  -- R90: slot `sl` of core `k` writes control register `n`
  | loadPerformed (k : Nat) (sl : Nat) (id : Nat)  -- R161: outstanding load `id` of the slot is performed
  | storePerformed (k : Nat) (sl : Nat) (id : Nat)  -- R160: outstanding store `id` of the slot is performed
  | tlbWalkComplete (k : Nat) (sl : Nat)  -- R217: the page walk the slot waits for ends
  | stashFill (k : Nat) (sl : Nat)  -- R153: the stash line the slot waits for arrives
  | ownershipGrant (k : Nat) (sl : Nat)  -- R152: the directory grants the slot the ownership it waits for
  | granuleCopyDone (k : Nat) (sl : Nat)  -- R154: the granule copy the slot waits for completes
  | feRemoteArrival (k : Nat) (sl : Nat) (id : Nat)  -- R156: full/empty access `id` of the slot reaches another core's word
  | feTimeout (k : Nat) (sl : Nat)  -- R156: the slot's full/empty wait passes its limit
  | latePoison (k : Nat) (sl : Nat)  -- R157: the slot takes a raised late POISON
  | coproc (k : Nat) (sl : Nat)  -- R371: the slot takes a raised COPROC
  | uiEntry (k : Nat) (sl : Nat)  -- R204: the slot takes its user-level interrupt
  | taskRetire (k : Nat) (sl : Nat)  -- R63: the draining task of the slot retires
  | wakeupMessage (i : Nat)  -- R181: wake-up message `i` in flight arrives at its core
  | issueTableActivate (k : Nat)  -- R69: the pending image and AH of core `k` take effect
  | vectorGrant (k : Nat) (sl : Nat)  -- R67: an issue-table entry gives the slot's latched instruction its pipe
  | vectorResult (k : Nat) (sl : Nat)  -- R127: the slot's short-mode vector result is written
  | lvCommandEnqueue (k : Nat) (sl : Nat)  -- R129: the slot's long-mode command leaves its latch
  | lvCommandStart (o : Nat)  -- R130: the long-vector unit of octet `o` starts a command
  | lvCommandComplete (o : Nat)  -- R130: the long-vector unit of octet `o` completes its command
  | matrixOpStart (k : Nat)  -- R168: the head of core `k`'s matrix queue starts
  | tmmaComplete (k : Nat)  -- R176: core `k`'s running TMMA writes its rows
  | tzeroComplete (k : Nat)  -- R177: core `k`'s running TZERO ends
  | tbldComplete (o : Nat) (l : BitVec 1)  -- R178: the load of latch `l` of octet `o` ends
  | tbpassMoveEnd (o : Nat) (l : BitVec 1)  -- R170: the tile move out of latch `l` of octet `o` ends
  | tdrainComplete (k : Nat)  -- R180: core `k`'s running TDRAIN writes its rows
  | copyKindCopy (k : Nat)  -- R189: the engine starts the COPY request at the head of core `k`'s FIFO
  | copyKindGather (k : Nat)  -- R189: the engine starts the GATHER request at the head of core `k`'s FIFO
  | copyKindScatter (k : Nat)  -- R189: the engine starts the SCATTER request at the head of core `k`'s FIFO
  | copyKindFill (k : Nat)  -- R189: the engine starts the FILL request at the head of core `k`'s FIFO
  | copyKindConvert (k : Nat)  -- R194: the engine starts the CONVERT request at the head of core `k`'s FIFO
  | copyKindHash (k : Nat)  -- R189: the engine starts the HASH request at the head of core `k`'s FIFO
  | copyKindSelacc (k : Nat)  -- R195: the engine starts the SELACC request at the head of core `k`'s FIFO
  | copyKindSelmem (k : Nat)  -- R196: the engine starts the SELMEM request at the head of core `k`'s FIFO
  | copyKindTokacc (k : Nat)  -- R205: the engine starts the TOKACC request at the head of core `k`'s FIFO
  | prefetchRequest (k : Nat)  -- R221: the engine starts the prefetch request at the head of core `k`'s FIFO
  | copyRequestFault (o : Nat) (i : Nat)  -- R193: request `i` in flight in octet `o`'s engine meets its fault
  | copyRequestComplete (o : Nat) (i : Nat)  -- R192: request `i` in flight in octet `o`'s engine completes
  | biasFlipDrainComplete (pg : Nat)  -- R239: the bias flip of 64 KiB page `pg` ends its drain
  | hostAccess (acc : HostAcc)  -- R239: a host access reaches device memory
  | queueTailWrite (q : Nat) (t : BitVec 32)  -- R249: the host writes tail `t` to queue `q`'s window
  | tailWordSeen (q : Nat)  -- R249: a change of queue `q`'s watched tail word is seen
  | packetRefill (q : Nat)  -- R250: queue `q`'s oldest ring packet enters its head buffer
  | freeSlotReport (st : Nat)  -- R32: stack `st` reports its free task slots
  | dispatch  -- R252: the master distributor selects a queue and dispatches
  | tokenDelivery (i : Nat)  -- R271: token `i` in flight takes its step
  | nodeCompletion (i : Nat)  -- R269: completion `i` waiting for Skink is applied or held
  | waveLevel (g : Nat)  -- R275: the cancel wave of live graph `g` processes its next level
  | rearm (g : Nat)  -- R276: the cone of live graph `g` is re-armed
  | pewterLookupDone (g : Nat) (n : Nat)  -- R290: the lookup of node `n` of live graph `g` ends
  | pewterInsert (i : Nat)  -- R292: pending insert `i` is hashed and placed
  | eventArrival (i : Nat)  -- R312: positive event message `i` in flight arrives
  | antiMessageArrival (i : Nat)  -- R313: anti-message `i` in flight arrives
  | rollbackContinue (p : Nat) (ag : Nat)  -- R312: agent `ag`'s rollback goes on once its handler slot is idle
  | heldMessageRelease (i : Nat)  -- R325: held message `i` is delivered
  | eventPlace (p : Nat) (ag : Nat)  -- R307: Newt places agent `ag`'s earliest event in an intake
  | eventOpen (k : Nat) (sl : Nat)  -- R307: the oldest intake event opens on the idle handler slot
  | gvtTimer (p : Nat)  -- R332: partition `p`'s round period expires
  | gvtCut (p : Nat) (st : Nat)  -- R327: START reaches stack `st`
  | gvtReport (p : Nat) (st : Nat)  -- R327: stack `st` reports for the running round
  | gvtPass (p : Nat)  -- R327: the combiner sums a pass
  | commit (p : Nat) (st : Nat)  -- R333: stack `st` commits below the round's minimum
  | ringDelivery (p : Nat) (r : Nat)  -- R335: the next committed record of ring `r` is written
  | ringCidxPoll (p : Nat) (r : Nat)  -- R336: stalled ring `r` rereads its consumer index
  | streamFlitSend (k : Nat) (p : BitVec 2)  -- R348: a flit leaves the outlet of port `p` of core `k`
  | streamFlitArrival (i : Nat)  -- R348: flit `i` in flight arrives
  | linkFlitReceive (port : Nat) (x : LinkIn)  -- R344: Frerrayx port `port` receives a flit, or a request for a replay
  | collStart (i : Nat)  -- R357: the sequencer starts collective `i`
  | collChunkArrival (i : Nat)  -- R360: chunk `i` in flight arrives
  | collComplete (i : Nat) (m : Nat)  -- R361: member `m` of running collective `i` completes
  | gangStop (p : Nat)  -- R374: partition `p` stops and is saved
  | gangResume (p : Nat)  -- R375: partition `p` resumes
  | dlchkScan (p : Nat)  -- R379: the second deadlock scan of partition `p`
  | replayReceive (k : Nat)  -- R378: replaying core `k` applies its next recorded receive
  | mgmtTrapResume (k : Nat) (sl : Nat) (pc : Option (BitVec 64))  -- R416: the controller resumes a slot trapped at M, at `pc` where it writes one
  | mgmtTrapEnd (k : Nat) (sl : Nat)  -- R416: the controller ends a task trapped at M
  | partCreate (a : PartSpec)  -- R389: Cybel creates a partition
  | partDestroy (p : Nat)  -- R389: Cybel destroys partition `p`
  | queueConfig (q : Nat) (a : Option QueueSpec)  -- R248: Cybel configures queue `q`, or removes it
  | ringConfig (p : Nat) (r : Nat) (a : RingSpec)  -- R334: Cybel configures a delivery ring
  | quota (t : BitVec 16) (q : Nat) (keep : Nat)  -- R289: Cybel sets a tenant's Pewter quota and keep limit
  | gang (p : Nat) (t : BitVec 64) (r : BitVec 64) (back : List Nat)  -- R381: Cybel arms a gang switch
  | bias (base : Nat) (cnt : Nat) (host : Bool) (lock : Bool)  -- R390: Cybel flips pages and locks their bias
  | powerOperatingPoint (op : BitVec 3)  -- R393: POWER changes the operating point
  | clockRestart  -- R393: stopped clocks restart
  | powerStackOff (st : Nat)  -- R393: POWER removes power from a compute die
  | powerStackOn (st : Nat)  -- R393: POWER restores a compute die
  | powerStandby  -- R393: POWER enters standby
  | powerStandbyExit  -- R393: POWER leaves standby
  | attest (nonce : BitVec 256)  -- R391: Cybel asks for an attestation
  | fwStage (addr : Nat) (len : Nat)  -- R391: Cybel stages a firmware image in host memory
  | resetModule  -- R395: Cybel resets the module
  | resetCold  -- R395: Cybel resets the module cold
  | window (rs : List (Nat × Nat)) (lock : Bool)  -- R391: Cybel sets the firmware windows
  | moduleConfig (num : Nat) (routes : List (Nat × List Nat))  -- R345: Cybel sets module number and routes
  | gvtDomain (p : Nat) (ms : List (Nat × Nat)) (root : Nat)  -- R329: Cybel joins partitions into a domain
  | thermalTrip (die : Nat)  -- R394: a die reaches its trip point
  | flr  -- R395: a function-level reset
  | barrierCompletionArrival (k : Nat) (sl : Nat)  -- R258: a completed barrier's release reaches the parked member
  | spillWritePerformed (q : Nat)  -- R251: the ring write of queue `q`'s oldest spilled packet is performed
  | uncorrectableError (a : Nat)  -- R157: the word at memory address `a` suffers an uncorrectable error
  | powerLoss  -- R391: supply power is lost and returns
deriving DecidableEq, Repr

end Sys2Proof
end

