-- ==== Sys2Proof/WellFormed.lean ====
section
/-!
DEFINITION. Which instructions are well formed: the reserved values (R56) that the field types of `Instr` do not rule out. The
decoder refuses an instruction that is not well formed with ILLEGAL_OP.
-/

namespace Sys2Proof

/-- R83: whether the register is one of the queue ports y28 to y31. -/
def Reg.isPort : Reg → Bool
  | .x _ => false
  | .y n => 28 ≤ n.toNat

/-- R75: whether LOOP may count in the register: x1 to x31 and y0 to y27. -/
def Reg.isCount : Reg → Bool
  | .x n => n != 0
  | .y n => n.toNat < 28

/-- R241: an even register of the x bank. -/
def Reg.isEven : Reg → Bool
  | .x n => n.toNat % 2 == 0
  | .y _ => false

/-- R241: an even destination: of either bank, but no port. -/
def Reg.isEvenDest : Reg → Bool
  | .x n => n.toNat % 2 == 0
  | .y n => n.toNat % 2 == 0 && n.toNat < 28

/-- R241: an even register x2 to x30. -/
def Reg.isEvenPair : Reg → Bool
  | .x n => n.toNat % 2 == 0 && n != 0
  | .y _ => false

/-- R54: the number of bits of a lane. -/
def Width.bits : Width → Nat
  | .w32 => 32
  | .w16 => 16
  | .w8 => 8
  | .w64 => 64

/-- R134: whether the lane type is a floating one. -/
def VType.isFloat : VType → Bool
  | .int | .is | .ns => false
  | .bf16 | .f16 | .f32 => true

/-- R134: the widths a lane type accepts. -/
def VType.fits : VType → Width → Bool
  | .int, _ | .is, _ | .ns, _ => true
  | .bf16, w | .f16, w => w == .w16
  | .f32, w => w == .w32

/-- R137: the widths a comparison accepts. -/
def CmpKind.fits : CmpKind → Width → Bool
  | .s, _ | .n, _ => true
  | .fl, w => w == .w16 || w == .w32
  | .f16, w => w == .w16

/-- R140: whether the reduction is a bitwise one. -/
def RedOp.isLogic : RedOp → Bool
  | .add | .min | .max => false
  | .and | .or | .xor => true

/-- R133: the lane width VMOVX's size code names: the code of D XOR 0b01. -/
def vmovxWidth (z : BitVec 2) : Width :=
  match z.toNat with
  | 0 => .w16
  | 1 => .w32
  | 2 => .w64
  | _ => .w8

/-- R133: the lane index of VINS and VMOVX must be below 256 / w. -/
def laneOk (w : Width) (nh : BitVec 1) (nl : BitVec 4) : Bool :=
  (nh.toNat * 16 + nl.toNat) * w.bits < 256

/-- R87, R119, R132, R152, R203, R202, R216, R300, R330, R352, R372: the assigned control register numbers. -/
def crAssigned (n : BitVec 10) : Bool :=
  let k := n.toNat
  k ≤ 0x00D || (0x010 ≤ k && k ≤ 0x014) || (0x018 ≤ k && k ≤ 0x01B) || (0x020 ≤ k && k ≤ 0x023) || (0x040 ≤ k && k ≤ 0x04E)


/-- Whether an instruction is well formed: its operands keep the reserved-value rules (R56) that the field types alone do not
express. A happening has no encoding, so nothing is reserved in it. -/
def wellFormed : Instr → Bool
  | .nop => true
  | .b _ _ => true
  | .bl _ _ _ => true
  | .bc _ _ _ _ _ => true
  | .bcz _ _ _ _ => true
  | .jx _ => true
  | .jlx _ _ => true
  | .loop a _ _ => a.isCount
  | .halt => true
  | .trap _ => true
  | .eret => true
  | .park => true
  | .wake _ _ => true
  | .issueset _ _ _ => true
  | .issueget _ _ _ => true
  | .add _ _ _ => true
  | .sub _ _ _ => true
  | .mul _ _ _ => true
  | .mulh _ _ _ => true
  | .mulhn _ _ _ => true
  | .div _ _ _ => true
  | .divn _ _ _ => true
  | .rem _ _ _ => true
  | .remn _ _ _ => true
  | .and _ _ _ => true
  | .or _ _ _ => true
  | .xor _ _ _ => true
  | .andn _ _ _ => true
  | .shl _ _ _ => true
  | .shra _ _ _ => true
  | .shrl _ _ _ => true
  | .rotl _ _ _ => true
  | .min _ _ _ => true
  | .max _ _ _ => true
  | .minn _ _ _ => true
  | .maxn _ _ _ => true
  | .slt _ _ _ => true
  | .sltn _ _ _ => true
  | .seq _ _ _ => true
  | .addi _ _ _ => true
  | .andi _ _ _ => true
  | .ori _ _ _ => true
  | .xori _ _ _ => true
  | .shli _ _ _ => true
  | .shrai _ _ _ => true
  | .shrli _ _ _ => true
  | .slti _ _ _ => true
  | .li _ _ => true
  | .lih _ _ _ => true
  | .addpc _ _ _ => true
  | .clz _ _ => true
  | .ctz _ _ => true
  | .popc _ _ => true
  | .sel _ _ _ _ => true
  | .bfx _ _ wm1 lo _ => lo.toNat + wm1.toNat + 1 ≤ 64
  | .bfi _ _ _ wm1 lo => lo.toNat + wm1.toNat + 1 ≤ 64
  | .exts _ _ _ => true
  | .extz _ _ _ => true
  | .getc _ n => crAssigned n
  | .setc _ _ n => crAssigned n
  | .mlog _ _ mb op => op != .not || mb == 0
  | .mget _ _ => true
  | .mset _ _ => true
  | .fcvt _ _ _ => true
  | .fcvti _ _ _ _ => true
  | .icvtf _ _ _ _ => true
  | .fclass _ _ _ => true
  | .dtload _ _ _ => true
  | .dtread _ _ _ => true
  | .vadd w _ _ _ _ t => t.fits w
  | .vsub w _ _ _ _ t => t.fits w
  | .vmul w _ _ _ _ t => t.fits w
  | .vfma w _ _ _ _ _ t => t.fits w
  | .vmin w _ _ _ _ t => t.fits w
  | .vmax w _ _ _ _ t => t.fits w
  | .vabs w _ _ _ t => t.fits w && t != .ns
  | .vcmp w _ _ _ _ _ k => k.fits w
  | .vsel _ _ _ _ _ => true
  | .vand _ _ _ _ _ => true
  | .vor _ _ _ _ _ => true
  | .vxor _ _ _ _ _ => true
  | .vshl _ _ _ _ _ => true
  | .vshr _ _ _ _ _ _ => true
  | .vbcast _ _ _ _ => true
  | .vins w _ _ nl _ nh => laneOk w nh nl
  | .vmovx _ _ nl nh _ szx => laneOk (vmovxWidth szx) nh nl
  | .vidx _ _ _ => true
  | .vperm _ _ _ _ _ => true
  | .vred w _ _ op _ t => t.fits w && (op.isLogic.not || t == .int)
  | .vdec _ _ _ => true
  | .venc _ _ _ => true
  | .vcvt _ _ _ => true
  | .sfn w _ _ _ _ t => t.fits w && t.isFloat
  | .vmode _ _ => true
  | .vfence => true
  | .vstat _ => true
  | .ld d _ _ _ _ => !d.isPort
  | .lds d _ _ sz _ => !d.isPort && sz != .d
  | .st _ _ _ _ _ => true
  | .stn _ _ _ _ _ => true
  | .ldx d _ _ _ _ _ => !d.isPort
  | .stx _ _ _ _ _ _ => true
  | .ldf d _ _ => !d.isPort
  | .ldfe d _ _ => !d.isPort
  | .stf _ _ _ => true
  | .feset _ _ _ => true
  | .feget d _ _ => !d.isPort
  | .vld _ _ _ _ => true
  | .vst _ _ _ _ => true
  | .vldx _ _ _ _ _ _ => true
  | .vstx _ _ _ _ _ _ => true
  | .bankrole _ _ _ => true
  | .stashmap _ _ _ _ => true
  | .stashwb _ => true
  | .wait _ _ _ _ => true
  | .cntget _ => true
  | .tmma _ _ row0 m1 _ _ => row0.toNat + m1.toNat + 1 ≤ 128
  | .tzero _ => true
  | .tbld _ _ _ _ => true
  | .tbpass _ _ => true
  | .tdrain _ _ c _ _ wk _ => c == .x 0 || wk
  | .tfence => true
  | .tstat _ clr w => w != 3 && !(clr && w == 0)
  | .twgt _ _ _ => true
  | .cpy _ => true
  | .cpyt _ _ => true
  | .mbxpop p => p != 15
  | .wfm => true
  | .uien _ _ _ => true
  | .uiret => true
  | .tokacc _ _ _ => true
  | .pft _ _ h => h != .na
  | .pinw _ _ => true
  | .pinq _ _ => true
  | .cwb _ _ _ _ => true
  | .cinv _ _ _ _ _ => true
  | .tlbinv _ _ _ => true
  | .fence _ _ => true
  | .ldacq d _ _ _ _ => !d.isPort
  | .strel _ _ _ _ _ => true
  | .aadd d _ _ _ _ _ _ => !d.isPort
  | .aand d _ _ _ _ _ _ => !d.isPort
  | .aor d _ _ _ _ _ _ => !d.isPort
  | .axor d _ _ _ _ _ _ => !d.isPort
  | .amin d _ _ _ _ _ _ => !d.isPort
  | .amax d _ _ _ _ _ _ => !d.isPort
  | .aminn d _ _ _ _ _ _ => !d.isPort
  | .amaxn d _ _ _ _ _ _ => !d.isPort
  | .aswp d _ _ _ _ _ _ => !d.isPort
  | .acas d _ b _ _ _ _ _ _ => !d.isPort && !b.isPort && d != b
  | .acas2 d _ b c _ _ _ _ => d.isEvenDest && b.isEvenPair && c.isEven
  | .enq d _ _ => !d.isPort
  | .qfence => true
  | .launch d _ => !d.isPort
  | .bar d _ => !d.isPort
  | .qstat d _ => !d.isPort
  | .glaunch d _ => !d.isPort
  | .gtok d _ _ => !d.isPort
  | .gexp d _ _ => !d.isPort
  | .gstat d _ b n => !d.isPort && (n || b == .x 0)
  | .gcancel d _ _ => !d.isPort
  | .gretry d _ _ => !d.isPort
  | .rulook d _ => !d.isPort
  | .ruput d _ => !d.isPort
  | .rudrop d a m => !d.isPort && (m == .key || a == .x 0)
  | .rustat d _ => !d.isPort
  | .agnew d _ => !d.isPort
  | .agstat d _ _ => !d.isPort
  | .evsend d _ => !d.isPort
  | .evdone => true
  | .ctxapp d _ _ => !d.isPort
  | .ctxcut d _ _ _ => !d.isPort
  | .irrev d _ _ => !d.isPort
  | .vtwin d _ => !d.isPort
  | .gvtreq => true
  | .streamset d a p => !d.isPort && !(a == .x 0 && p == 3)
  | .mark d p => !d.isPort && p != 3
  | .coll d _ => !d.isPort
  | .nstat d _ => !d.isPort
  | .gangsw d _ _ => !d.isPort
  | .dlchk => true
  | .rplog d _ => !d.isPort
  | .faultget d _ => !d.isPort
  | .biasf d _ _ => !d.isPort
  | .hostsig d _ _ => !d.isPort
  | .lineFill _ _ => true
  | .portPop _ _ _ _ => true
  | .portPush _ _ _ _ => true
  | .eventPortPop _ _ _ => true
  | .dutyWrite _ _ _ => true
  | .cpcWrite _ _ _ => true
  | .registerWrite _ _ _ _ => true
  | .loadPerformed _ _ _ => true
  | .storePerformed _ _ _ => true
  | .tlbWalkComplete _ _ => true
  | .stashFill _ _ => true
  | .ownershipGrant _ _ => true
  | .granuleCopyDone _ _ => true
  | .feRemoteArrival _ _ _ => true
  | .feTimeout _ _ => true
  | .latePoison _ _ => true
  | .coproc _ _ => true
  | .uiEntry _ _ => true
  | .taskRetire _ _ => true
  | .wakeupMessage _ => true
  | .issueTableActivate _ => true
  | .vectorGrant _ _ => true
  | .vectorResult _ _ => true
  | .lvCommandEnqueue _ _ => true
  | .lvCommandStart _ => true
  | .lvCommandComplete _ => true
  | .matrixOpStart _ => true
  | .tmmaComplete _ => true
  | .tzeroComplete _ => true
  | .tbldComplete _ _ => true
  | .tbpassMoveEnd _ _ => true
  | .tdrainComplete _ => true
  | .copyKindCopy _ => true
  | .copyKindGather _ => true
  | .copyKindScatter _ => true
  | .copyKindFill _ => true
  | .copyKindConvert _ => true
  | .copyKindHash _ => true
  | .copyKindSelacc _ => true
  | .copyKindSelmem _ => true
  | .copyKindTokacc _ => true
  | .prefetchRequest _ => true
  | .copyRequestFault _ _ => true
  | .copyRequestComplete _ _ => true
  | .biasFlipDrainComplete _ => true
  | .hostAccess _ => true
  | .queueTailWrite _ _ => true
  | .tailWordSeen _ => true
  | .packetRefill _ => true
  | .freeSlotReport _ => true
  | .dispatch => true
  | .tokenDelivery _ => true
  | .nodeCompletion _ => true
  | .waveLevel _ => true
  | .rearm _ => true
  | .pewterLookupDone _ _ => true
  | .pewterInsert _ => true
  | .eventArrival _ => true
  | .antiMessageArrival _ => true
  | .rollbackContinue _ _ => true
  | .heldMessageRelease _ => true
  | .eventPlace _ _ => true
  | .eventOpen _ _ => true
  | .gvtTimer _ => true
  | .gvtCut _ _ => true
  | .gvtReport _ _ => true
  | .gvtPass _ => true
  | .commit _ _ => true
  | .ringDelivery _ _ => true
  | .ringCidxPoll _ _ => true
  | .streamFlitSend _ _ => true
  | .streamFlitArrival _ => true
  | .linkFlitReceive _ _ => true
  | .collStart _ => true
  | .collChunkArrival _ => true
  | .collComplete _ _ => true
  | .gangStop _ => true
  | .gangResume _ => true
  | .dlchkScan _ => true
  | .replayReceive _ => true
  | .mgmtTrapResume _ _ _ => true
  | .mgmtTrapEnd _ _ => true
  | .partCreate _ => true
  | .partDestroy _ => true
  | .queueConfig _ _ => true
  | .ringConfig _ _ _ => true
  | .quota _ _ _ => true
  | .gang _ _ _ _ => true
  | .bias _ _ _ _ => true
  | .powerOperatingPoint _ => true
  | .clockRestart => true
  | .powerStackOff _ => true
  | .powerStackOn _ => true
  | .powerStandby => true
  | .powerStandbyExit => true
  | .attest _ => true
  | .fwStage _ _ => true
  | .resetModule => true
  | .resetCold => true
  | .window _ _ => true
  | .moduleConfig _ _ => true
  | .gvtDomain _ _ _ => true
  | .thermalTrip _ => true
  | .flr => true
  | .barrierCompletionArrival _ _ => true
  | .spillWritePerformed _ => true
  | .uncorrectableError _ => true
  | .powerLoss => true

/-- Whether the table row has an encoding: every instruction does, no happening does. -/
def hasEncoding : Instr → Bool
  | .nop => true
  | .b _ _ => true
  | .bl _ _ _ => true
  | .bc _ _ _ _ _ => true
  | .bcz _ _ _ _ => true
  | .jx _ => true
  | .jlx _ _ => true
  | .loop _ _ _ => true
  | .halt => true
  | .trap _ => true
  | .eret => true
  | .park => true
  | .wake _ _ => true
  | .issueset _ _ _ => true
  | .issueget _ _ _ => true
  | .add _ _ _ => true
  | .sub _ _ _ => true
  | .mul _ _ _ => true
  | .mulh _ _ _ => true
  | .mulhn _ _ _ => true
  | .div _ _ _ => true
  | .divn _ _ _ => true
  | .rem _ _ _ => true
  | .remn _ _ _ => true
  | .and _ _ _ => true
  | .or _ _ _ => true
  | .xor _ _ _ => true
  | .andn _ _ _ => true
  | .shl _ _ _ => true
  | .shra _ _ _ => true
  | .shrl _ _ _ => true
  | .rotl _ _ _ => true
  | .min _ _ _ => true
  | .max _ _ _ => true
  | .minn _ _ _ => true
  | .maxn _ _ _ => true
  | .slt _ _ _ => true
  | .sltn _ _ _ => true
  | .seq _ _ _ => true
  | .addi _ _ _ => true
  | .andi _ _ _ => true
  | .ori _ _ _ => true
  | .xori _ _ _ => true
  | .shli _ _ _ => true
  | .shrai _ _ _ => true
  | .shrli _ _ _ => true
  | .slti _ _ _ => true
  | .li _ _ => true
  | .lih _ _ _ => true
  | .addpc _ _ _ => true
  | .clz _ _ => true
  | .ctz _ _ => true
  | .popc _ _ => true
  | .sel _ _ _ _ => true
  | .bfx _ _ _ _ _ => true
  | .bfi _ _ _ _ _ => true
  | .exts _ _ _ => true
  | .extz _ _ _ => true
  | .getc _ _ => true
  | .setc _ _ _ => true
  | .mlog _ _ _ _ => true
  | .mget _ _ => true
  | .mset _ _ => true
  | .fcvt _ _ _ => true
  | .fcvti _ _ _ _ => true
  | .icvtf _ _ _ _ => true
  | .fclass _ _ _ => true
  | .dtload _ _ _ => true
  | .dtread _ _ _ => true
  | .vadd _ _ _ _ _ _ => true
  | .vsub _ _ _ _ _ _ => true
  | .vmul _ _ _ _ _ _ => true
  | .vfma _ _ _ _ _ _ _ => true
  | .vmin _ _ _ _ _ _ => true
  | .vmax _ _ _ _ _ _ => true
  | .vabs _ _ _ _ _ => true
  | .vcmp _ _ _ _ _ _ _ => true
  | .vsel _ _ _ _ _ => true
  | .vand _ _ _ _ _ => true
  | .vor _ _ _ _ _ => true
  | .vxor _ _ _ _ _ => true
  | .vshl _ _ _ _ _ => true
  | .vshr _ _ _ _ _ _ => true
  | .vbcast _ _ _ _ => true
  | .vins _ _ _ _ _ _ => true
  | .vmovx _ _ _ _ _ _ => true
  | .vidx _ _ _ => true
  | .vperm _ _ _ _ _ => true
  | .vred _ _ _ _ _ _ => true
  | .vdec _ _ _ => true
  | .venc _ _ _ => true
  | .vcvt _ _ _ => true
  | .sfn _ _ _ _ _ _ => true
  | .vmode _ _ => true
  | .vfence => true
  | .vstat _ => true
  | .ld _ _ _ _ _ => true
  | .lds _ _ _ _ _ => true
  | .st _ _ _ _ _ => true
  | .stn _ _ _ _ _ => true
  | .ldx _ _ _ _ _ _ => true
  | .stx _ _ _ _ _ _ => true
  | .ldf _ _ _ => true
  | .ldfe _ _ _ => true
  | .stf _ _ _ => true
  | .feset _ _ _ => true
  | .feget _ _ _ => true
  | .vld _ _ _ _ => true
  | .vst _ _ _ _ => true
  | .vldx _ _ _ _ _ _ => true
  | .vstx _ _ _ _ _ _ => true
  | .bankrole _ _ _ => true
  | .stashmap _ _ _ _ => true
  | .stashwb _ => true
  | .wait _ _ _ _ => true
  | .cntget _ => true
  | .tmma _ _ _ _ _ _ => true
  | .tzero _ => true
  | .tbld _ _ _ _ => true
  | .tbpass _ _ => true
  | .tdrain _ _ _ _ _ _ _ => true
  | .tfence => true
  | .tstat _ _ _ => true
  | .twgt _ _ _ => true
  | .cpy _ => true
  | .cpyt _ _ => true
  | .mbxpop _ => true
  | .wfm => true
  | .uien _ _ _ => true
  | .uiret => true
  | .tokacc _ _ _ => true
  | .pft _ _ _ => true
  | .pinw _ _ => true
  | .pinq _ _ => true
  | .cwb _ _ _ _ => true
  | .cinv _ _ _ _ _ => true
  | .tlbinv _ _ _ => true
  | .fence _ _ => true
  | .ldacq _ _ _ _ _ => true
  | .strel _ _ _ _ _ => true
  | .aadd _ _ _ _ _ _ _ => true
  | .aand _ _ _ _ _ _ _ => true
  | .aor _ _ _ _ _ _ _ => true
  | .axor _ _ _ _ _ _ _ => true
  | .amin _ _ _ _ _ _ _ => true
  | .amax _ _ _ _ _ _ _ => true
  | .aminn _ _ _ _ _ _ _ => true
  | .amaxn _ _ _ _ _ _ _ => true
  | .aswp _ _ _ _ _ _ _ => true
  | .acas _ _ _ _ _ _ _ _ _ => true
  | .acas2 _ _ _ _ _ _ _ _ => true
  | .enq _ _ _ => true
  | .qfence => true
  | .launch _ _ => true
  | .bar _ _ => true
  | .qstat _ _ => true
  | .glaunch _ _ => true
  | .gtok _ _ _ => true
  | .gexp _ _ _ => true
  | .gstat _ _ _ _ => true
  | .gcancel _ _ _ => true
  | .gretry _ _ _ => true
  | .rulook _ _ => true
  | .ruput _ _ => true
  | .rudrop _ _ _ => true
  | .rustat _ _ => true
  | .agnew _ _ => true
  | .agstat _ _ _ => true
  | .evsend _ _ => true
  | .evdone => true
  | .ctxapp _ _ _ => true
  | .ctxcut _ _ _ _ => true
  | .irrev _ _ _ => true
  | .vtwin _ _ => true
  | .gvtreq => true
  | .streamset _ _ _ => true
  | .mark _ _ => true
  | .coll _ _ => true
  | .nstat _ _ => true
  | .gangsw _ _ _ => true
  | .dlchk => true
  | .rplog _ _ => true
  | .faultget _ _ => true
  | .biasf _ _ _ => true
  | .hostsig _ _ _ => true
  | .lineFill _ _ => false
  | .portPop _ _ _ _ => false
  | .portPush _ _ _ _ => false
  | .eventPortPop _ _ _ => false
  | .dutyWrite _ _ _ => false
  | .cpcWrite _ _ _ => false
  | .registerWrite _ _ _ _ => false
  | .loadPerformed _ _ _ => false
  | .storePerformed _ _ _ => false
  | .tlbWalkComplete _ _ => false
  | .stashFill _ _ => false
  | .ownershipGrant _ _ => false
  | .granuleCopyDone _ _ => false
  | .feRemoteArrival _ _ _ => false
  | .feTimeout _ _ => false
  | .latePoison _ _ => false
  | .coproc _ _ => false
  | .uiEntry _ _ => false
  | .taskRetire _ _ => false
  | .wakeupMessage _ => false
  | .issueTableActivate _ => false
  | .vectorGrant _ _ => false
  | .vectorResult _ _ => false
  | .lvCommandEnqueue _ _ => false
  | .lvCommandStart _ => false
  | .lvCommandComplete _ => false
  | .matrixOpStart _ => false
  | .tmmaComplete _ => false
  | .tzeroComplete _ => false
  | .tbldComplete _ _ => false
  | .tbpassMoveEnd _ _ => false
  | .tdrainComplete _ => false
  | .copyKindCopy _ => false
  | .copyKindGather _ => false
  | .copyKindScatter _ => false
  | .copyKindFill _ => false
  | .copyKindConvert _ => false
  | .copyKindHash _ => false
  | .copyKindSelacc _ => false
  | .copyKindSelmem _ => false
  | .copyKindTokacc _ => false
  | .prefetchRequest _ => false
  | .copyRequestFault _ _ => false
  | .copyRequestComplete _ _ => false
  | .biasFlipDrainComplete _ => false
  | .hostAccess _ => false
  | .queueTailWrite _ _ => false
  | .tailWordSeen _ => false
  | .packetRefill _ => false
  | .freeSlotReport _ => false
  | .dispatch => false
  | .tokenDelivery _ => false
  | .nodeCompletion _ => false
  | .waveLevel _ => false
  | .rearm _ => false
  | .pewterLookupDone _ _ => false
  | .pewterInsert _ => false
  | .eventArrival _ => false
  | .antiMessageArrival _ => false
  | .rollbackContinue _ _ => false
  | .heldMessageRelease _ => false
  | .eventPlace _ _ => false
  | .eventOpen _ _ => false
  | .gvtTimer _ => false
  | .gvtCut _ _ => false
  | .gvtReport _ _ => false
  | .gvtPass _ => false
  | .commit _ _ => false
  | .ringDelivery _ _ => false
  | .ringCidxPoll _ _ => false
  | .streamFlitSend _ _ => false
  | .streamFlitArrival _ => false
  | .linkFlitReceive _ _ => false
  | .collStart _ => false
  | .collChunkArrival _ => false
  | .collComplete _ _ => false
  | .gangStop _ => false
  | .gangResume _ => false
  | .dlchkScan _ => false
  | .replayReceive _ => false
  | .mgmtTrapResume _ _ _ => false
  | .mgmtTrapEnd _ _ => false
  | .partCreate _ => false
  | .partDestroy _ => false
  | .queueConfig _ _ => false
  | .ringConfig _ _ _ => false
  | .quota _ _ _ => false
  | .gang _ _ _ _ => false
  | .bias _ _ _ _ => false
  | .powerOperatingPoint _ => false
  | .clockRestart => false
  | .powerStackOff _ => false
  | .powerStackOn _ => false
  | .powerStandby => false
  | .powerStandbyExit => false
  | .attest _ => false
  | .fwStage _ _ => false
  | .resetModule => false
  | .resetCold => false
  | .window _ _ => false
  | .moduleConfig _ _ => false
  | .gvtDomain _ _ _ => false
  | .thermalTrip _ => false
  | .flr => false
  | .barrierCompletionArrival _ _ => false
  | .spillWritePerformed _ => false
  | .uncorrectableError _ => false
  | .powerLoss => false

end Sys2Proof
end

