-- ==== Sys2Proof/Decode.lean ====
section
/-!
DEFINITION. The decoder and the encoder: heads and tails (R50 to R53), the encoding tables of the chapters, the instruction line
(R38 to R41), and the table words of `spec/opcode_table.json`.
-/

namespace Sys2Proof

/-- The low `n` bits. -/
def low (n : Nat) {k : Nat} (z : BitVec k) : BitVec n := z.extractLsb' 0 n

/-- The `m` bits above the low `n` bits. -/
def top (m n : Nat) {k : Nat} (z : BitVec k) : BitVec m := z.extractLsb' n m

/-- Two fields side by side, `x` above `y`. -/
def glue (k : Nat) {m n : Nat} (x : BitVec m) (y : BitVec n) : BitVec k := (x ++ y).setWidth k

@[simp] theorem low_glue {k m n : Nat} (x : BitVec m) (y : BitVec n) (h : m + n = k) : low n (glue k x y) = y := by
  subst h
  apply BitVec.eq_of_getLsbD_eq
  intro i hi
  simp [low, glue, BitVec.getLsbD_append, hi]

@[simp] theorem top_glue {k m n : Nat} (x : BitVec m) (y : BitVec n) (h : m + n = k) : top m n (glue k x y) = x := by
  subst h
  apply BitVec.eq_of_getLsbD_eq
  intro i hi
  simp [top, glue, BitVec.getLsbD_append, hi]

@[simp] theorem glue_top_low {k m n : Nat} (z : BitVec k) (h : m + n = k) : glue k (top m n z) (low n z) = z := by
  subst h
  apply BitVec.eq_of_getLsbD_eq
  intro i hi
  simp only [glue, top, low, BitVec.getLsbD_setWidth, BitVec.getLsbD_append, BitVec.getLsbD_extractLsb']
  by_cases h : i < n
  · simp [hi, h]
  · have h2 : i - n < m := by omega
    have h3 : n + (i - n) = i := by omega
    simp [hi, h, h2, h3]

/-- A field that must be zero (R56). -/
def zero {n : Nat} (z : BitVec n) : Option Unit := if z = 0 then some () else none

@[simp] theorem zero_zero {n : Nat} : zero (0#n) = some () := if_pos rfl

/-- A one-bit flag. -/
def ofBit (z : BitVec 1) : Bool := z == 1

/-- The bit of a flag. -/
def toBit : Bool → BitVec 1
  | true => 1
  | false => 0

@[simp] theorem ofBit_toBit (v : Bool) : ofBit (toBit v) = v := by cases v <;> rfl

/-- R53: the register a 6-bit field names. -/
def Reg.ofBits (z : BitVec 6) : Reg := if top 1 5 z = 0 then .x (low 5 z) else .y (low 5 z)

/-- R53: the field of a register. -/
def Reg.toBits : Reg → BitVec 6
  | .x n => glue 6 (0#1) n
  | .y n => glue 6 (1#1) n

@[simp] theorem Reg.ofBits_toBits (r : Reg) : Reg.ofBits r.toBits = r := by
  cases r <;> simp [Reg.ofBits, Reg.toBits]

/-- R55: the mask an FV tail selects; none where the reserved bits are set. -/
def maskOfBits (z : BitVec 4) : Option (Option (BitVec 3)) :=
  if top 1 3 z = 1 then some (some (low 3 z)) else if low 3 z = 0 then some none else none

/-- R55: bits 7 to 4 of an FV tail. -/
def maskToBits : Option (BitVec 3) → BitVec 4
  | none => 0
  | some m => glue 4 (1#1) m

@[simp] theorem maskOfBits_toBits (v : Option (BitVec 3)) : maskOfBits (maskToBits v) = some v := by
  cases v with
  | none => rfl
  | some m => simp [maskOfBits, maskToBits]

/-- The code of a value (R22). -/
def Size.toBits : Size → BitVec 2
  | .b => 0
  | .h => 1
  | .w => 2
  | .d => 3

/-- The value of a code (R22). -/
def Size.ofBits (z : BitVec 2) : Size :=
  match z.toNat with
  | 0 => .b
  | 1 => .h
  | 2 => .w
  | _ => .d

@[simp] theorem Size.ofBits_toBits (v : Size) : Size.ofBits v.toBits = v := by cases v <;> rfl

/-- The code of a value (R241). -/
def Size2.toBits : Size2 → BitVec 1
  | .w => 0
  | .d => 1

/-- The value of a code (R241). -/
def Size2.ofBits (z : BitVec 1) : Size2 :=
  match z.toNat with
  | 0 => .w
  | _ => .d

@[simp] theorem Size2.ofBits_toBits (v : Size2) : Size2.ofBits v.toBits = v := by cases v <;> rfl

/-- The code of a value (R158). -/
def Hint.toBits : Hint → BitVec 2
  | .none => 0
  | .ef => 1
  | .keep => 2
  | .na => 3

/-- The value of a code (R158). -/
def Hint.ofBits (z : BitVec 2) : Hint :=
  match z.toNat with
  | 0 => .none
  | 1 => .ef
  | 2 => .keep
  | _ => .na

@[simp] theorem Hint.ofBits_toBits (v : Hint) : Hint.ofBits v.toBits = v := by cases v <;> rfl

/-- The code of a value (R54). -/
def Width.toBits : Width → BitVec 2
  | .w32 => 0
  | .w16 => 1
  | .w8 => 2
  | .w64 => 3

/-- The value of a code (R54). -/
def Width.ofBits (z : BitVec 2) : Width :=
  match z.toNat with
  | 0 => .w32
  | 1 => .w16
  | 2 => .w8
  | _ => .w64

@[simp] theorem Width.ofBits_toBits (v : Width) : Width.ofBits v.toBits = v := by cases v <;> rfl

/-- The code of a value (R228). -/
def AKind.toBits : AKind → BitVec 2
  | .rlx => 0
  | .acq => 1
  | .rel => 2
  | .ar => 3

/-- The value of a code (R228). -/
def AKind.ofBits (z : BitVec 2) : AKind :=
  match z.toNat with
  | 0 => .rlx
  | 1 => .acq
  | 2 => .rel
  | _ => .ar

@[simp] theorem AKind.ofBits_toBits (v : AKind) : AKind.ofBits v.toBits = v := by cases v <;> rfl

/-- The code of a value (R137). -/
def CmpCond.toBits : CmpCond → BitVec 2
  | .eq => 0
  | .lt => 1
  | .le => 2
  | .ne => 3

/-- The value of a code (R137). -/
def CmpCond.ofBits (z : BitVec 2) : CmpCond :=
  match z.toNat with
  | 0 => .eq
  | 1 => .lt
  | 2 => .le
  | _ => .ne

@[simp] theorem CmpCond.ofBits_toBits (v : CmpCond) : CmpCond.ofBits v.toBits = v := by cases v <;> rfl

/-- The code of a value (R137). -/
def CmpKind.toBits : CmpKind → BitVec 2
  | .s => 0
  | .n => 1
  | .fl => 2
  | .f16 => 3

/-- The value of a code (R137). -/
def CmpKind.ofBits (z : BitVec 2) : CmpKind :=
  match z.toNat with
  | 0 => .s
  | 1 => .n
  | 2 => .fl
  | _ => .f16

@[simp] theorem CmpKind.ofBits_toBits (v : CmpKind) : CmpKind.ofBits v.toBits = v := by cases v <;> rfl

/-- The code of a value (R71). -/
def Cond.toBits : Cond → BitVec 4
  | .eq => 0
  | .ne => 1
  | .lt => 2
  | .ge => 3
  | .gt => 4
  | .le => 5
  | .ltn => 6
  | .gen => 7
  | .gtn => 8
  | .len => 9

/-- The value of a code; none for a reserved code (R71). -/
def Cond.ofBits? (z : BitVec 4) : Option Cond :=
  match z.toNat with
  | 0 => some .eq
  | 1 => some .ne
  | 2 => some .lt
  | 3 => some .ge
  | 4 => some .gt
  | 5 => some .le
  | 6 => some .ltn
  | 7 => some .gen
  | 8 => some .gtn
  | 9 => some .len
  | _ => none

@[simp] theorem Cond.ofBits?_toBits (v : Cond) : Cond.ofBits? v.toBits = some v := by cases v <;> rfl

/-- The code of a value (R102). -/
def LogOp.toBits : LogOp → BitVec 4
  | .and => 0
  | .or => 1
  | .xor => 2
  | .andn => 3
  | .not => 4

/-- The value of a code; none for a reserved code (R102). -/
def LogOp.ofBits? (z : BitVec 4) : Option LogOp :=
  match z.toNat with
  | 0 => some .and
  | 1 => some .or
  | 2 => some .xor
  | 3 => some .andn
  | 4 => some .not
  | _ => none

@[simp] theorem LogOp.ofBits?_toBits (v : LogOp) : LogOp.ofBits? v.toBits = some v := by cases v <;> rfl

/-- The code of a value (R134). -/
def VType.toBits : VType → BitVec 4
  | .int => 0
  | .is => 1
  | .ns => 2
  | .bf16 => 3
  | .f16 => 4
  | .f32 => 5

/-- The value of a code; none for a reserved code (R134). -/
def VType.ofBits? (z : BitVec 4) : Option VType :=
  match z.toNat with
  | 0 => some .int
  | 1 => some .is
  | 2 => some .ns
  | 3 => some .bf16
  | 4 => some .f16
  | 5 => some .f32
  | _ => none

@[simp] theorem VType.ofBits?_toBits (v : VType) : VType.ofBits? v.toBits = some v := by cases v <;> rfl

/-- The code of a value (R140). -/
def RedOp.toBits : RedOp → BitVec 4
  | .add => 0
  | .min => 1
  | .max => 2
  | .and => 3
  | .or => 4
  | .xor => 5

/-- The value of a code; none for a reserved code (R140). -/
def RedOp.ofBits? (z : BitVec 4) : Option RedOp :=
  match z.toNat with
  | 0 => some .add
  | 1 => some .min
  | 2 => some .max
  | 3 => some .and
  | 4 => some .or
  | 5 => some .xor
  | _ => none

@[simp] theorem RedOp.ofBits?_toBits (v : RedOp) : RedOp.ofBits? v.toBits = some v := by cases v <;> rfl

/-- The code of a value (R142). -/
def SfnOp.toBits : SfnOp → BitVec 4
  | .exp2 => 0
  | .log2 => 1
  | .rcp => 2
  | .rsqrt => 3
  | .sqrt => 4
  | .sinpi => 5
  | .cospi => 6
  | .tanh => 7
  | .sigm => 8
  | .exp => 9
  | .log => 10

/-- The value of a code; none for a reserved code (R142). -/
def SfnOp.ofBits? (z : BitVec 4) : Option SfnOp :=
  match z.toNat with
  | 0 => some .exp2
  | 1 => some .log2
  | 2 => some .rcp
  | 3 => some .rsqrt
  | 4 => some .sqrt
  | 5 => some .sinpi
  | 6 => some .cospi
  | 7 => some .tanh
  | 8 => some .sigm
  | 9 => some .exp
  | 10 => some .log
  | _ => none

@[simp] theorem SfnOp.ofBits?_toBits (v : SfnOp) : SfnOp.ofBits? v.toBits = some v := by cases v <;> rfl

/-- The code of a value (R241). -/
def FKind.toBits : FKind → BitVec 2
  | .acq => 1
  | .rel => 2
  | .ar => 3

/-- The value of a code; none for a reserved code (R241). -/
def FKind.ofBits? (z : BitVec 2) : Option FKind :=
  match z.toNat with
  | 1 => some .acq
  | 2 => some .rel
  | 3 => some .ar
  | _ => none

@[simp] theorem FKind.ofBits?_toBits (v : FKind) : FKind.ofBits? v.toBits = some v := by cases v <;> rfl

/-- The code of a value (R227). -/
def Scope.toBits : Scope → BitVec 3
  | .c => 0
  | .o => 1
  | .d => 2
  | .v => 3
  | .s => 4

/-- The value of a code; none for a reserved code (R227). -/
def Scope.ofBits? (z : BitVec 3) : Option Scope :=
  match z.toNat with
  | 0 => some .c
  | 1 => some .o
  | 2 => some .d
  | 3 => some .v
  | 4 => some .s
  | _ => none

@[simp] theorem Scope.ofBits?_toBits (v : Scope) : Scope.ofBits? v.toBits = some v := by cases v <;> rfl

/-- The code of a value (R294). -/
def DropMode.toBits : DropMode → BitVec 2
  | .key => 0
  | .all => 1
  | .dem => 2

/-- The value of a code; none for a reserved code (R294). -/
def DropMode.ofBits? (z : BitVec 2) : Option DropMode :=
  match z.toNat with
  | 0 => some .key
  | 1 => some .all
  | 2 => some .dem
  | _ => none

@[simp] theorem DropMode.ofBits?_toBits (v : DropMode) : DropMode.ofBits? v.toBits = some v := by cases v <;> rfl

/-- The code of a value (R219). -/
def InvScope.toBits : InvScope → BitVec 2
  | .va => 0
  | .range => 1
  | .part => 2

/-- The value of a code; none for a reserved code (R219). -/
def InvScope.ofBits? (z : BitVec 2) : Option InvScope :=
  match z.toNat with
  | 0 => some .va
  | 1 => some .range
  | 2 => some .part
  | _ => none

@[simp] theorem InvScope.ofBits?_toBits (v : InvScope) : InvScope.ofBits? v.toBits = some v := by cases v <;> rfl

/-- A head and its tails; a tail that does not exist is zero (R60). -/
structure Enc where
  head : BitVec 16
  t1 : BitVec 16
  t2 : BitVec 16
  t3 : BitVec 16
deriving DecidableEq, Repr

/-- R58: why a head is no instruction. -/
inductive Reject where
  | illegalOp   -- opcode 0x00 or unassigned, a reserved bit, a reserved value
  | illegalLen  -- TL not the tail length of the opcode's family
deriving DecidableEq, Repr

-- R50: the fields of a head.
def Enc.fTl (e : Enc) : BitVec 2 := top 2 14 e.head
def Enc.fOp (e : Enc) : BitVec 8 := top 8 6 (low 14 e.head)
def Enc.fD (e : Enc) : BitVec 6 := low 6 (low 14 e.head)

-- R52: the fields of the tails.
def Enc.fA (e : Enc) : BitVec 6 := top 6 10 e.t1
def Enc.fB (e : Enc) : BitVec 6 := top 6 4 (low 10 e.t1)
def Enc.fF (e : Enc) : BitVec 4 := low 4 (low 10 e.t1)
def Enc.fImm10 (e : Enc) : BitVec 10 := low 10 e.t1
def Enc.fOff1 (e : Enc) : BitVec 11 := top 11 5 e.t1
def Enc.fHd1 (e : Enc) : BitVec 5 := low 5 e.t1
def Enc.fOff2 (e : Enc) : BitVec 11 := top 11 5 e.t2
def Enc.fHd2 (e : Enc) : BitVec 5 := low 5 e.t2
def Enc.fImm26 (e : Enc) : BitVec 26 := glue 26 (low 10 e.t1) e.t2
def Enc.fC (e : Enc) : BitVec 6 := top 6 10 e.t2
def Enc.fX (e : Enc) : BitVec 10 := low 10 e.t2
def Enc.fVA (e : Enc) : BitVec 4 := top 4 12 e.t1
def Enc.fVB (e : Enc) : BitVec 4 := top 4 8 (low 12 e.t1)
def Enc.fM (e : Enc) : BitVec 4 := top 4 4 (low 8 (low 12 e.t1))
def Enc.fVF (e : Enc) : BitVec 4 := low 4 (low 8 (low 12 e.t1))
def Enc.fVC (e : Enc) : BitVec 4 := top 4 12 e.t2
def Enc.fX12 (e : Enc) : BitVec 12 := low 12 e.t2

-- The tails' layouts, for the encoder.
def tR (a b : BitVec 6) (f : BitVec 4) : BitVec 16 := glue 16 a (glue 10 b f)
def tI (a : BitVec 6) (i : BitVec 10) : BitVec 16 := glue 16 a i
def tJ (o : BitVec 11) (h : BitVec 5) : BitVec 16 := glue 16 o h
def tV (va vb m f : BitVec 4) : BitVec 16 := glue 16 va (glue 12 vb (glue 8 m f))
def enc0 (tl : BitVec 2) (op : BitVec 8) (d : BitVec 6) : Enc := ⟨glue 16 tl (glue 14 op d), 0, 0, 0⟩
def enc1 (tl : BitVec 2) (op : BitVec 8) (d : BitVec 6) (t1 : BitVec 16) : Enc := ⟨glue 16 tl (glue 14 op d), t1, 0, 0⟩
def enc2 (tl : BitVec 2) (op : BitVec 8) (d : BitVec 6) (t1 t2 : BitVec 16) : Enc := ⟨glue 16 tl (glue 14 op d), t1, t2, 0⟩
def enc3 (tl : BitVec 2) (op : BitVec 8) (d : BitVec 6) (t1 t2 t3 : BitVec 16) : Enc := ⟨glue 16 tl (glue 14 op d), t1, t2, t3⟩

/-- R52, R57: the tail length of an opcode's family; none for an unassigned opcode (and for 0x00). -/
def tailLength (op : BitVec 8) : Option (BitVec 2) :=
  match op.toNat with
  | 0x01 | 0x09 | 0x0b | 0x0c | 0x69 | 0x8d | 0x92 | 0x93 | 0x95 | 0xb1 | 0xcb | 0xd0 => some 0
  | 0xe1 => some 0
  | 0x02 | 0x03 | 0x06 | 0x07 | 0x0a | 0x0d | 0x0e | 0x0f | 0x10 | 0x11 | 0x12 | 0x13 => some 1
  | 0x14 | 0x15 | 0x16 | 0x17 | 0x18 | 0x19 | 0x1a | 0x1b | 0x1c | 0x1d | 0x1e | 0x1f => some 1
  | 0x20 | 0x21 | 0x22 | 0x23 | 0x24 | 0x25 | 0x26 | 0x27 | 0x28 | 0x29 | 0x2a | 0x2b => some 1
  | 0x2c | 0x2d | 0x2e | 0x2f | 0x32 | 0x33 | 0x34 | 0x35 | 0x39 | 0x3a | 0x3b | 0x3c => some 1
  | 0x3d | 0x3e | 0x3f | 0x40 | 0x41 | 0x42 | 0x43 | 0x44 | 0x45 | 0x50 | 0x51 | 0x52 => some 1
  | 0x54 | 0x55 | 0x56 | 0x57 | 0x58 | 0x59 | 0x5a | 0x5b | 0x5c | 0x5d | 0x5e | 0x5f => some 1
  | 0x60 | 0x61 | 0x62 | 0x63 | 0x64 | 0x65 | 0x66 | 0x67 | 0x68 | 0x6a | 0x7f | 0x81 => some 1
  | 0x83 | 0x89 | 0x8a | 0x8b | 0x8e | 0x8f | 0x90 | 0x91 | 0x94 | 0x99 | 0x9a | 0x9b => some 1
  | 0x9c | 0x9d | 0xa0 | 0xb0 | 0xb2 | 0xb3 | 0xb4 | 0xb8 | 0xb9 | 0xba | 0xbb | 0xbc => some 1
  | 0xbd | 0xc0 | 0xc1 | 0xc2 | 0xc3 | 0xc8 | 0xc9 | 0xca | 0xcc | 0xcd | 0xce | 0xcf => some 1
  | 0xd8 | 0xd9 | 0xda | 0xdb | 0xe0 | 0xe2 | 0xe3 | 0xe8 | 0xe9 => some 1
  | 0x04 | 0x05 | 0x08 | 0x30 | 0x31 | 0x36 | 0x37 | 0x38 | 0x53 | 0x70 | 0x71 | 0x72 => some 2
  | 0x73 | 0x74 | 0x76 | 0x77 | 0x78 | 0x79 | 0x7a | 0x7b | 0x7c | 0x7d | 0x80 | 0x82 => some 2
  | 0x96 | 0x98 | 0xa1 | 0xa2 | 0xa3 | 0xa4 | 0xa5 | 0xa6 | 0xa7 | 0xa8 | 0xa9 | 0xaa => some 2
  | 0xab => some 2
  | 0x75 | 0x7e | 0x88 | 0x8c | 0xac | 0xad => some 3
  | _ => none

/-- The encodings of opcodes 0x00 to 0x0F; none where a reserved bit is set or a reserved value is used (R56). -/
def parse0 (lo : BitVec 4) (e : Enc) : Option Instr :=
  match lo.toNat with
  | 0x1 => (do zero e.fD; some (.nop))
  | 0x2 => (do zero e.fD; some (.b e.fOff1 e.fHd1))
  | 0x3 => some (.bl (Reg.ofBits e.fD) e.fOff1 e.fHd1)
  | 0x4 => (do zero e.fD; let c ← Cond.ofBits? e.fF; some (.bc (Reg.ofBits e.fA) (Reg.ofBits e.fB) e.fOff2 e.fHd2 c))
  | 0x5 => (do zero e.fD; zero e.fB; let c ← Cond.ofBits? e.fF; some (.bcz (Reg.ofBits e.fA) e.fOff2 e.fHd2 c))
  | 0x6 => (do zero e.fD; zero e.fB; zero e.fF; some (.jx (Reg.ofBits e.fA)))
  | 0x7 => (do zero e.fB; zero e.fF; some (.jlx (Reg.ofBits e.fD) (Reg.ofBits e.fA)))
  | 0x8 => (do zero e.fD; zero e.fB; zero e.fF; some (.loop (Reg.ofBits e.fA) e.fOff2 e.fHd2))
  | 0x9 => (do zero e.fD; some (.halt))
  | 0xa => (do zero e.fD; zero e.fA; some (.trap e.fImm10))
  | 0xb => (do zero e.fD; some (.eret))
  | 0xc => (do zero e.fD; some (.park))
  | 0xd => (do zero e.fB; zero e.fF; some (.wake (Reg.ofBits e.fD) (Reg.ofBits e.fA)))
  | 0xe => (do zero e.fB; zero (top 2 2 e.fF); some (.issueset (Reg.ofBits e.fD) (Reg.ofBits e.fA) (low 2 e.fF)))
  | 0xf => (do zero e.fA; zero e.fB; zero (top 1 3 e.fF); some (.issueget (Reg.ofBits e.fD) (ofBit (top 1 2 (low 3 e.fF))) (low 2 (low 3 e.fF))))
  | _ => none

/-- The encodings of opcodes 0x10 to 0x1F; none where a reserved bit is set or a reserved value is used (R56). -/
def parse1 (lo : BitVec 4) (e : Enc) : Option Instr :=
  match lo.toNat with
  | 0x0 => (do zero e.fF; some (.add (Reg.ofBits e.fD) (Reg.ofBits e.fA) (Reg.ofBits e.fB)))
  | 0x1 => (do zero e.fF; some (.sub (Reg.ofBits e.fD) (Reg.ofBits e.fA) (Reg.ofBits e.fB)))
  | 0x2 => (do zero e.fF; some (.mul (Reg.ofBits e.fD) (Reg.ofBits e.fA) (Reg.ofBits e.fB)))
  | 0x3 => (do zero e.fF; some (.mulh (Reg.ofBits e.fD) (Reg.ofBits e.fA) (Reg.ofBits e.fB)))
  | 0x4 => (do zero e.fF; some (.mulhn (Reg.ofBits e.fD) (Reg.ofBits e.fA) (Reg.ofBits e.fB)))
  | 0x5 => (do zero e.fF; some (.div (Reg.ofBits e.fD) (Reg.ofBits e.fA) (Reg.ofBits e.fB)))
  | 0x6 => (do zero e.fF; some (.divn (Reg.ofBits e.fD) (Reg.ofBits e.fA) (Reg.ofBits e.fB)))
  | 0x7 => (do zero e.fF; some (.rem (Reg.ofBits e.fD) (Reg.ofBits e.fA) (Reg.ofBits e.fB)))
  | 0x8 => (do zero e.fF; some (.remn (Reg.ofBits e.fD) (Reg.ofBits e.fA) (Reg.ofBits e.fB)))
  | 0x9 => (do zero e.fF; some (.and (Reg.ofBits e.fD) (Reg.ofBits e.fA) (Reg.ofBits e.fB)))
  | 0xa => (do zero e.fF; some (.or (Reg.ofBits e.fD) (Reg.ofBits e.fA) (Reg.ofBits e.fB)))
  | 0xb => (do zero e.fF; some (.xor (Reg.ofBits e.fD) (Reg.ofBits e.fA) (Reg.ofBits e.fB)))
  | 0xc => (do zero e.fF; some (.andn (Reg.ofBits e.fD) (Reg.ofBits e.fA) (Reg.ofBits e.fB)))
  | 0xd => (do zero e.fF; some (.shl (Reg.ofBits e.fD) (Reg.ofBits e.fA) (Reg.ofBits e.fB)))
  | 0xe => (do zero e.fF; some (.shra (Reg.ofBits e.fD) (Reg.ofBits e.fA) (Reg.ofBits e.fB)))
  | 0xf => (do zero e.fF; some (.shrl (Reg.ofBits e.fD) (Reg.ofBits e.fA) (Reg.ofBits e.fB)))
  | _ => none

/-- The encodings of opcodes 0x20 to 0x2F; none where a reserved bit is set or a reserved value is used (R56). -/
def parse2 (lo : BitVec 4) (e : Enc) : Option Instr :=
  match lo.toNat with
  | 0x0 => (do zero e.fF; some (.rotl (Reg.ofBits e.fD) (Reg.ofBits e.fA) (Reg.ofBits e.fB)))
  | 0x1 => (do zero e.fF; some (.min (Reg.ofBits e.fD) (Reg.ofBits e.fA) (Reg.ofBits e.fB)))
  | 0x2 => (do zero e.fF; some (.max (Reg.ofBits e.fD) (Reg.ofBits e.fA) (Reg.ofBits e.fB)))
  | 0x3 => (do zero e.fF; some (.minn (Reg.ofBits e.fD) (Reg.ofBits e.fA) (Reg.ofBits e.fB)))
  | 0x4 => (do zero e.fF; some (.maxn (Reg.ofBits e.fD) (Reg.ofBits e.fA) (Reg.ofBits e.fB)))
  | 0x5 => (do zero e.fF; some (.slt (Reg.ofBits e.fD) (Reg.ofBits e.fA) (Reg.ofBits e.fB)))
  | 0x6 => (do zero e.fF; some (.sltn (Reg.ofBits e.fD) (Reg.ofBits e.fA) (Reg.ofBits e.fB)))
  | 0x7 => (do zero e.fF; some (.seq (Reg.ofBits e.fD) (Reg.ofBits e.fA) (Reg.ofBits e.fB)))
  | 0x8 => some (.addi (Reg.ofBits e.fD) (Reg.ofBits e.fA) e.fImm10)
  | 0x9 => some (.andi (Reg.ofBits e.fD) (Reg.ofBits e.fA) e.fImm10)
  | 0xa => some (.ori (Reg.ofBits e.fD) (Reg.ofBits e.fA) e.fImm10)
  | 0xb => some (.xori (Reg.ofBits e.fD) (Reg.ofBits e.fA) e.fImm10)
  | 0xc => (do zero (top 4 6 e.fImm10); some (.shli (Reg.ofBits e.fD) (Reg.ofBits e.fA) (low 6 e.fImm10)))
  | 0xd => (do zero (top 4 6 e.fImm10); some (.shrai (Reg.ofBits e.fD) (Reg.ofBits e.fA) (low 6 e.fImm10)))
  | 0xe => (do zero (top 4 6 e.fImm10); some (.shrli (Reg.ofBits e.fD) (Reg.ofBits e.fA) (low 6 e.fImm10)))
  | 0xf => some (.slti (Reg.ofBits e.fD) (Reg.ofBits e.fA) e.fImm10)
  | _ => none

/-- The encodings of opcodes 0x30 to 0x3F; none where a reserved bit is set or a reserved value is used (R56). -/
def parse3 (lo : BitVec 4) (e : Enc) : Option Instr :=
  match lo.toNat with
  | 0x0 => (do zero e.fA; some (.li (Reg.ofBits e.fD) e.fImm26))
  | 0x1 => some (.lih (Reg.ofBits e.fD) (Reg.ofBits e.fA) e.fImm26)
  | 0x2 => some (.addpc (Reg.ofBits e.fD) e.fOff1 e.fHd1)
  | 0x3 => (do zero e.fB; zero e.fF; some (.clz (Reg.ofBits e.fD) (Reg.ofBits e.fA)))
  | 0x4 => (do zero e.fB; zero e.fF; some (.ctz (Reg.ofBits e.fD) (Reg.ofBits e.fA)))
  | 0x5 => (do zero e.fB; zero e.fF; some (.popc (Reg.ofBits e.fD) (Reg.ofBits e.fA)))
  | 0x6 => (do zero e.fF; zero (low 10 e.t2); some (.sel (Reg.ofBits e.fD) (Reg.ofBits e.fA) (Reg.ofBits e.fB) (Reg.ofBits (top 6 10 e.t2))))
  | 0x7 => (do zero e.fB; zero (top 3 1 e.fF); zero (top 4 12 e.t2); some (.bfx (Reg.ofBits e.fD) (Reg.ofBits e.fA) (top 6 6 (low 12 e.t2)) (low 6 (low 12 e.t2)) (ofBit (low 1 e.fF))))
  | 0x8 => (do zero e.fF; zero (top 4 12 e.t2); some (.bfi (Reg.ofBits e.fD) (Reg.ofBits e.fA) (Reg.ofBits e.fB) (top 6 6 (low 12 e.t2)) (low 6 (low 12 e.t2))))
  | 0x9 => (do zero e.fB; zero (low 2 e.fF); some (.exts (Reg.ofBits e.fD) (Reg.ofBits e.fA) (Size.ofBits (top 2 2 e.fF))))
  | 0xa => (do zero e.fB; zero (low 2 e.fF); some (.extz (Reg.ofBits e.fD) (Reg.ofBits e.fA) (Size.ofBits (top 2 2 e.fF))))
  | 0xb => (do zero e.fA; some (.getc (Reg.ofBits e.fD) e.fImm10))
  | 0xc => some (.setc (Reg.ofBits e.fD) (Reg.ofBits e.fA) e.fImm10)
  | 0xd => (do zero (top 3 3 e.fD); zero (top 3 3 e.fA); zero (top 3 3 e.fB); let op ← LogOp.ofBits? e.fF; some (.mlog (low 3 e.fD) (low 3 e.fA) (low 3 e.fB) op))
  | 0xe => (do zero (top 3 3 e.fD); zero e.fB; zero e.fF; some (.mget (low 3 e.fD) (Reg.ofBits e.fA)))
  | 0xf => (do zero (top 3 3 e.fD); zero e.fB; zero e.fF; some (.mset (low 3 e.fD) (Reg.ofBits e.fA)))
  | _ => none

/-- The encodings of opcodes 0x40 to 0x4F; none where a reserved bit is set or a reserved value is used (R56). -/
def parse4 (lo : BitVec 4) (e : Enc) : Option Instr :=
  match lo.toNat with
  | 0x0 => (do zero e.fF; some (.fcvt (Reg.ofBits e.fD) (Reg.ofBits e.fA) (Reg.ofBits e.fB)))
  | 0x1 => (do zero (top 3 1 e.fF); some (.fcvti (Reg.ofBits e.fD) (Reg.ofBits e.fA) (Reg.ofBits e.fB) (ofBit (low 1 e.fF))))
  | 0x2 => (do zero (top 3 1 e.fF); some (.icvtf (Reg.ofBits e.fD) (Reg.ofBits e.fA) (Reg.ofBits e.fB) (ofBit (low 1 e.fF))))
  | 0x3 => (do zero e.fF; some (.fclass (Reg.ofBits e.fD) (Reg.ofBits e.fA) (Reg.ofBits e.fB)))
  | 0x4 => (do zero e.fB; zero (top 3 1 e.fF); some (.dtload (Reg.ofBits e.fD) (Reg.ofBits e.fA) (low 1 e.fF)))
  | 0x5 => (do zero e.fB; zero (top 3 1 e.fF); some (.dtread (Reg.ofBits e.fD) (Reg.ofBits e.fA) (low 1 e.fF)))
  | _ => none

/-- The encodings of opcodes 0x50 to 0x5F; none where a reserved bit is set or a reserved value is used (R56). -/
def parse5 (lo : BitVec 4) (e : Enc) : Option Instr :=
  match lo.toNat with
  | 0x0 => (do let mk ← maskOfBits e.fM; let t ← VType.ofBits? e.fVF; some (.vadd (Width.ofBits (top 2 4 e.fD)) (low 4 e.fD) e.fVA e.fVB mk t))
  | 0x1 => (do let mk ← maskOfBits e.fM; let t ← VType.ofBits? e.fVF; some (.vsub (Width.ofBits (top 2 4 e.fD)) (low 4 e.fD) e.fVA e.fVB mk t))
  | 0x2 => (do let mk ← maskOfBits e.fM; let t ← VType.ofBits? e.fVF; some (.vmul (Width.ofBits (top 2 4 e.fD)) (low 4 e.fD) e.fVA e.fVB mk t))
  | 0x3 => (do let mk ← maskOfBits e.fM; let t ← VType.ofBits? e.fVF; zero e.fX12; some (.vfma (Width.ofBits (top 2 4 e.fD)) (low 4 e.fD) e.fVA e.fVB e.fVC mk t))
  | 0x4 => (do let mk ← maskOfBits e.fM; let t ← VType.ofBits? e.fVF; some (.vmin (Width.ofBits (top 2 4 e.fD)) (low 4 e.fD) e.fVA e.fVB mk t))
  | 0x5 => (do let mk ← maskOfBits e.fM; let t ← VType.ofBits? e.fVF; some (.vmax (Width.ofBits (top 2 4 e.fD)) (low 4 e.fD) e.fVA e.fVB mk t))
  | 0x6 => (do zero e.fVB; let mk ← maskOfBits e.fM; let t ← VType.ofBits? e.fVF; some (.vabs (Width.ofBits (top 2 4 e.fD)) (low 4 e.fD) e.fVA mk t))
  | 0x7 => (do let mk ← maskOfBits e.fM; some (.vcmp (Width.ofBits (top 2 4 e.fD)) (low 4 e.fD) e.fVA e.fVB mk (CmpCond.ofBits (top 2 2 e.fVF)) (CmpKind.ofBits (low 2 e.fVF))))
  | 0x8 => (do let mk ← maskOfBits e.fM; zero e.fVF; some (.vsel (Width.ofBits (top 2 4 e.fD)) (low 4 e.fD) e.fVA e.fVB mk))
  | 0x9 => (do let mk ← maskOfBits e.fM; zero e.fVF; some (.vand (Width.ofBits (top 2 4 e.fD)) (low 4 e.fD) e.fVA e.fVB mk))
  | 0xa => (do let mk ← maskOfBits e.fM; zero e.fVF; some (.vor (Width.ofBits (top 2 4 e.fD)) (low 4 e.fD) e.fVA e.fVB mk))
  | 0xb => (do let mk ← maskOfBits e.fM; zero e.fVF; some (.vxor (Width.ofBits (top 2 4 e.fD)) (low 4 e.fD) e.fVA e.fVB mk))
  | 0xc => (do let mk ← maskOfBits e.fM; zero e.fVF; some (.vshl (Width.ofBits (top 2 4 e.fD)) (low 4 e.fD) e.fVA e.fVB mk))
  | 0xd => (do let mk ← maskOfBits e.fM; zero (top 3 1 e.fVF); some (.vshr (Width.ofBits (top 2 4 e.fD)) (low 4 e.fD) e.fVA e.fVB mk (ofBit (low 1 e.fVF))))
  | 0xe => (do zero e.fVB; let mk ← maskOfBits e.fM; zero e.fVF; some (.vbcast (Width.ofBits (top 2 4 e.fD)) (low 4 e.fD) e.fVA mk))
  | 0xf => (do let mk ← maskOfBits e.fM; zero (top 3 1 e.fVF); some (.vins (Width.ofBits (top 2 4 e.fD)) (low 4 e.fD) e.fVA e.fVB mk (low 1 e.fVF)))
  | _ => none

/-- The encodings of opcodes 0x60 to 0x6F; none where a reserved bit is set or a reserved value is used (R56). -/
def parse6 (lo : BitVec 4) (e : Enc) : Option Instr :=
  match lo.toNat with
  | 0x0 => (do zero e.fM; some (.vmovx (Reg.ofBits e.fD) e.fVA e.fVB (top 1 3 e.fVF) (ofBit (top 1 2 (low 3 e.fVF))) (low 2 (low 3 e.fVF))))
  | 0x1 => (do zero e.fVA; zero e.fVB; let mk ← maskOfBits e.fM; zero e.fVF; some (.vidx (Width.ofBits (top 2 4 e.fD)) (low 4 e.fD) mk))
  | 0x2 => (do let mk ← maskOfBits e.fM; zero e.fVF; some (.vperm (Width.ofBits (top 2 4 e.fD)) (low 4 e.fD) e.fVA e.fVB mk))
  | 0x3 => (do let op ← RedOp.ofBits? e.fVB; let mk ← maskOfBits e.fM; let t ← VType.ofBits? e.fVF; some (.vred (Width.ofBits (top 2 4 e.fD)) (low 4 e.fD) e.fVA op mk t))
  | 0x4 => (do zero (top 2 4 e.fD); zero e.fM; zero e.fVF; some (.vdec (low 4 e.fD) e.fVA e.fVB))
  | 0x5 => (do zero (top 2 4 e.fD); zero e.fM; zero e.fVF; some (.venc (low 4 e.fD) e.fVA e.fVB))
  | 0x6 => (do zero (top 2 4 e.fD); zero e.fM; zero e.fVF; some (.vcvt (low 4 e.fD) e.fVA e.fVB))
  | 0x7 => (do let fn ← SfnOp.ofBits? e.fVB; let mk ← maskOfBits e.fM; let t ← VType.ofBits? e.fVF; some (.sfn (Width.ofBits (top 2 4 e.fD)) (low 4 e.fD) e.fVA fn mk t))
  | 0x8 => (do zero e.fA; zero (top 9 1 e.fImm10); some (.vmode (Reg.ofBits e.fD) (ofBit (low 1 e.fImm10))))
  | 0x9 => (do zero e.fD; some (.vfence))
  | 0xa => (do zero e.fA; zero e.fB; zero e.fF; some (.vstat (Reg.ofBits e.fD)))
  | _ => none

/-- The encodings of opcodes 0x70 to 0x7F; none where a reserved bit is set or a reserved value is used (R56). -/
def parse7 (lo : BitVec 4) (e : Enc) : Option Instr :=
  match lo.toNat with
  | 0x0 => (do zero e.fB; some (.ld (Reg.ofBits e.fD) (Reg.ofBits e.fA) e.t2 (Size.ofBits (top 2 2 e.fF)) (Hint.ofBits (low 2 e.fF))))
  | 0x1 => (do zero e.fB; some (.lds (Reg.ofBits e.fD) (Reg.ofBits e.fA) e.t2 (Size.ofBits (top 2 2 e.fF)) (Hint.ofBits (low 2 e.fF))))
  | 0x2 => (do zero e.fD; some (.st (Reg.ofBits e.fA) (Reg.ofBits e.fB) e.t2 (Size.ofBits (top 2 2 e.fF)) (Hint.ofBits (low 2 e.fF))))
  | 0x3 => (do zero e.fD; zero (top 1 3 e.fF); some (.stn (Reg.ofBits e.fA) (Reg.ofBits e.fB) e.t2 (ofBit (top 1 2 (low 3 e.fF))) (Hint.ofBits (low 2 (low 3 e.fF)))))
  | 0x4 => some (.ldx (Reg.ofBits e.fD) (Reg.ofBits e.fA) (Reg.ofBits e.fB) e.t2 (Size.ofBits (top 2 2 e.fF)) (Hint.ofBits (low 2 e.fF)))
  | 0x5 => (do zero e.fD; zero e.fX; some (.stx (Reg.ofBits e.fA) (Reg.ofBits e.fB) (Reg.ofBits e.fC) e.t3 (Size.ofBits (top 2 2 e.fF)) (Hint.ofBits (low 2 e.fF))))
  | 0x6 => (do zero e.fB; zero e.fF; some (.ldf (Reg.ofBits e.fD) (Reg.ofBits e.fA) e.t2))
  | 0x7 => (do zero e.fB; zero e.fF; some (.ldfe (Reg.ofBits e.fD) (Reg.ofBits e.fA) e.t2))
  | 0x8 => (do zero e.fD; zero e.fF; some (.stf (Reg.ofBits e.fA) (Reg.ofBits e.fB) e.t2))
  | 0x9 => (do zero e.fD; zero e.fB; zero (top 3 1 e.fF); some (.feset (Reg.ofBits e.fA) e.t2 (ofBit (low 1 e.fF))))
  | 0xa => (do zero e.fB; zero e.fF; some (.feget (Reg.ofBits e.fD) (Reg.ofBits e.fA) e.t2))
  | 0xb => (do zero (top 2 4 e.fD); zero e.fB; zero (top 2 2 e.fF); some (.vld (low 4 e.fD) (Reg.ofBits e.fA) e.t2 (Hint.ofBits (low 2 e.fF))))
  | 0xc => (do zero (top 2 4 e.fD); zero e.fB; zero (top 2 2 e.fF); some (.vst (low 4 e.fD) (Reg.ofBits e.fA) e.t2 (Hint.ofBits (low 2 e.fF))))
  | 0xd => (do zero (top 2 2 e.fF); some (.vldx (Width.ofBits (top 2 4 e.fD)) (low 4 e.fD) (Reg.ofBits e.fA) (Reg.ofBits e.fB) e.t2 (Hint.ofBits (low 2 e.fF))))
  | 0xe => (do zero e.fD; zero (top 2 2 e.fF); zero e.fX; some (.vstx (Reg.ofBits e.fA) (Reg.ofBits e.fB) (Width.ofBits (top 2 4 e.fC)) (low 4 e.fC) e.t3 (Hint.ofBits (low 2 e.fF))))
  | 0xf => (do zero e.fF; some (.bankrole (Reg.ofBits e.fD) (Reg.ofBits e.fA) (Reg.ofBits e.fB)))
  | _ => none

/-- The encodings of opcodes 0x80 to 0x8F; none where a reserved bit is set or a reserved value is used (R56). -/
def parse8 (lo : BitVec 4) (e : Enc) : Option Instr :=
  match lo.toNat with
  | 0x0 => (do zero e.fB; zero (top 2 2 e.fF); zero (top 11 5 e.t2); some (.stashmap (Reg.ofBits e.fD) (Reg.ofBits e.fA) (low 5 e.t2) (Hint.ofBits (low 2 e.fF))))
  | 0x1 => (do zero e.fD; zero e.fB; zero e.fF; some (.stashwb (Reg.ofBits e.fA)))
  | 0x2 => (do zero e.fD; zero e.fA; zero e.fB; zero e.fF; some (.wait (top 4 12 e.t2) (top 4 8 (low 12 e.t2)) (top 4 4 (low 8 (low 12 e.t2))) (low 4 (low 8 (low 12 e.t2)))))
  | 0x3 => (do zero e.fA; zero e.fB; zero e.fF; some (.cntget (Reg.ofBits e.fD)))
  | 0x8 => (do zero e.fD; zero e.fB; zero (top 2 2 e.fF); zero (top 3 7 e.fX); zero (top 9 7 e.t3); some (.tmma (Reg.ofBits e.fA) (Reg.ofBits e.fC) (low 7 e.t3) (low 7 e.fX) (ofBit (top 1 1 (low 2 e.fF))) (low 1 (low 2 e.fF))))
  | 0x9 => (do zero e.fD; zero e.fB; zero e.fF; some (.tzero (Reg.ofBits e.fA)))
  | 0xa => (do zero e.fD; zero (top 1 3 e.fF); some (.tbld (Reg.ofBits e.fA) (Reg.ofBits e.fB) (Hint.ofBits (top 2 1 (low 3 e.fF))) (low 1 (low 3 e.fF))))
  | 0xb => (do zero e.fD; zero e.fA; zero e.fB; zero (top 2 2 e.fF); some (.tbpass (ofBit (top 1 1 (low 2 e.fF))) (low 1 (low 2 e.fF))))
  | 0xc => (do zero e.fD; zero e.fF; zero (top 7 3 e.fX); some (.tdrain (Reg.ofBits e.fA) (Reg.ofBits e.fB) (Reg.ofBits e.fC) e.t3 (ofBit (top 1 2 (low 3 e.fX))) (ofBit (top 1 1 (low 2 (low 3 e.fX)))) (ofBit (low 1 (low 2 (low 3 e.fX))))))
  | 0xd => (do zero e.fD; some (.tfence))
  | 0xe => (do zero e.fA; zero e.fB; zero (top 1 3 e.fF); some (.tstat (Reg.ofBits e.fD) (ofBit (top 1 2 (low 3 e.fF))) (low 2 (low 3 e.fF))))
  | 0xf => (do zero e.fF; some (.twgt (Reg.ofBits e.fD) (Reg.ofBits e.fA) (Reg.ofBits e.fB)))
  | _ => none

/-- The encodings of opcodes 0x90 to 0x9F; none where a reserved bit is set or a reserved value is used (R56). -/
def parse9 (lo : BitVec 4) (e : Enc) : Option Instr :=
  match lo.toNat with
  | 0x0 => (do zero e.fD; zero (top 1 5 e.fA); zero (low 2 (low 5 e.fA)); zero e.fB; zero e.fF; some (.cpy (top 3 2 (low 5 e.fA))))
  | 0x1 => (do zero (top 1 5 e.fA); zero (low 2 (low 5 e.fA)); zero e.fB; zero e.fF; some (.cpyt (Reg.ofBits e.fD) (top 3 2 (low 5 e.fA))))
  | 0x2 => (do zero (top 1 5 e.fD); zero (low 1 (low 5 e.fD)); some (.mbxpop (top 4 1 (low 5 e.fD))))
  | 0x3 => (do zero e.fD; some (.wfm))
  | 0x4 => (do zero e.fF; some (.uien (Reg.ofBits e.fD) (Reg.ofBits e.fA) (Reg.ofBits e.fB)))
  | 0x5 => (do zero e.fD; some (.uiret))
  | 0x6 => (do zero e.fD; zero e.fF; some (.tokacc (Reg.ofBits e.fA) (Reg.ofBits e.fB) e.t2))
  | 0x8 => (do zero e.fD; zero e.fB; zero (top 2 2 e.fF); some (.pft (Reg.ofBits e.fA) e.t2 (Hint.ofBits (low 2 e.fF))))
  | 0x9 => (do zero e.fB; zero e.fF; some (.pinw (Reg.ofBits e.fD) (Reg.ofBits e.fA)))
  | 0xa => (do zero e.fB; zero e.fF; some (.pinq (Reg.ofBits e.fD) (Reg.ofBits e.fA)))
  | 0xb => (do zero (top 3 1 e.fF); some (.cwb (Reg.ofBits e.fD) (Reg.ofBits e.fA) (Reg.ofBits e.fB) (ofBit (low 1 e.fF))))
  | 0xc => (do zero (top 2 2 e.fF); some (.cinv (Reg.ofBits e.fD) (Reg.ofBits e.fA) (Reg.ofBits e.fB) (ofBit (top 1 1 (low 2 e.fF))) (ofBit (low 1 (low 2 e.fF)))))
  | 0xd => (do zero e.fD; zero (top 2 2 e.fF); let sc ← InvScope.ofBits? (low 2 e.fF); some (.tlbinv (Reg.ofBits e.fA) (Reg.ofBits e.fB) sc))
  | _ => none

/-- The encodings of opcodes 0xA0 to 0xAF; none where a reserved bit is set or a reserved value is used (R56). -/
def parseA (lo : BitVec 4) (e : Enc) : Option Instr :=
  match lo.toNat with
  | 0x0 => (do zero e.fD; zero e.fA; zero (top 5 5 e.fImm10); let sc ← Scope.ofBits? (top 3 2 (low 5 e.fImm10)); let k ← FKind.ofBits? (low 2 (low 5 e.fImm10)); some (.fence sc k))
  | 0x1 => (do zero e.fB; let sc ← Scope.ofBits? (low 3 e.fF); some (.ldacq (Reg.ofBits e.fD) (Reg.ofBits e.fA) e.t2 (Size2.ofBits (top 1 3 e.fF)) sc))
  | 0x2 => (do zero e.fD; let sc ← Scope.ofBits? (low 3 e.fF); some (.strel (Reg.ofBits e.fA) (Reg.ofBits e.fB) e.t2 (Size2.ofBits (top 1 3 e.fF)) sc))
  | 0x3 => (do zero (top 2 2 e.fF); zero (top 10 6 e.t2); let sc ← Scope.ofBits? (top 3 2 (low 5 (low 6 e.t2))); some (.aadd (Reg.ofBits e.fD) (Reg.ofBits e.fA) (Reg.ofBits e.fB) (Size2.ofBits (top 1 5 (low 6 e.t2))) sc (AKind.ofBits (low 2 (low 5 (low 6 e.t2)))) (Hint.ofBits (low 2 e.fF))))
  | 0x4 => (do zero (top 2 2 e.fF); zero (top 10 6 e.t2); let sc ← Scope.ofBits? (top 3 2 (low 5 (low 6 e.t2))); some (.aand (Reg.ofBits e.fD) (Reg.ofBits e.fA) (Reg.ofBits e.fB) (Size2.ofBits (top 1 5 (low 6 e.t2))) sc (AKind.ofBits (low 2 (low 5 (low 6 e.t2)))) (Hint.ofBits (low 2 e.fF))))
  | 0x5 => (do zero (top 2 2 e.fF); zero (top 10 6 e.t2); let sc ← Scope.ofBits? (top 3 2 (low 5 (low 6 e.t2))); some (.aor (Reg.ofBits e.fD) (Reg.ofBits e.fA) (Reg.ofBits e.fB) (Size2.ofBits (top 1 5 (low 6 e.t2))) sc (AKind.ofBits (low 2 (low 5 (low 6 e.t2)))) (Hint.ofBits (low 2 e.fF))))
  | 0x6 => (do zero (top 2 2 e.fF); zero (top 10 6 e.t2); let sc ← Scope.ofBits? (top 3 2 (low 5 (low 6 e.t2))); some (.axor (Reg.ofBits e.fD) (Reg.ofBits e.fA) (Reg.ofBits e.fB) (Size2.ofBits (top 1 5 (low 6 e.t2))) sc (AKind.ofBits (low 2 (low 5 (low 6 e.t2)))) (Hint.ofBits (low 2 e.fF))))
  | 0x7 => (do zero (top 2 2 e.fF); zero (top 10 6 e.t2); let sc ← Scope.ofBits? (top 3 2 (low 5 (low 6 e.t2))); some (.amin (Reg.ofBits e.fD) (Reg.ofBits e.fA) (Reg.ofBits e.fB) (Size2.ofBits (top 1 5 (low 6 e.t2))) sc (AKind.ofBits (low 2 (low 5 (low 6 e.t2)))) (Hint.ofBits (low 2 e.fF))))
  | 0x8 => (do zero (top 2 2 e.fF); zero (top 10 6 e.t2); let sc ← Scope.ofBits? (top 3 2 (low 5 (low 6 e.t2))); some (.amax (Reg.ofBits e.fD) (Reg.ofBits e.fA) (Reg.ofBits e.fB) (Size2.ofBits (top 1 5 (low 6 e.t2))) sc (AKind.ofBits (low 2 (low 5 (low 6 e.t2)))) (Hint.ofBits (low 2 e.fF))))
  | 0x9 => (do zero (top 2 2 e.fF); zero (top 10 6 e.t2); let sc ← Scope.ofBits? (top 3 2 (low 5 (low 6 e.t2))); some (.aminn (Reg.ofBits e.fD) (Reg.ofBits e.fA) (Reg.ofBits e.fB) (Size2.ofBits (top 1 5 (low 6 e.t2))) sc (AKind.ofBits (low 2 (low 5 (low 6 e.t2)))) (Hint.ofBits (low 2 e.fF))))
  | 0xa => (do zero (top 2 2 e.fF); zero (top 10 6 e.t2); let sc ← Scope.ofBits? (top 3 2 (low 5 (low 6 e.t2))); some (.amaxn (Reg.ofBits e.fD) (Reg.ofBits e.fA) (Reg.ofBits e.fB) (Size2.ofBits (top 1 5 (low 6 e.t2))) sc (AKind.ofBits (low 2 (low 5 (low 6 e.t2)))) (Hint.ofBits (low 2 e.fF))))
  | 0xb => (do zero (top 2 2 e.fF); zero (top 10 6 e.t2); let sc ← Scope.ofBits? (top 3 2 (low 5 (low 6 e.t2))); some (.aswp (Reg.ofBits e.fD) (Reg.ofBits e.fA) (Reg.ofBits e.fB) (Size2.ofBits (top 1 5 (low 6 e.t2))) sc (AKind.ofBits (low 2 (low 5 (low 6 e.t2)))) (Hint.ofBits (low 2 e.fF))))
  | 0xc => (do zero (top 2 2 e.fF); zero (top 4 6 e.fX); let sc ← Scope.ofBits? (top 3 2 (low 5 (low 6 e.fX))); some (.acas (Reg.ofBits e.fD) (Reg.ofBits e.fA) (Reg.ofBits e.fB) (Reg.ofBits e.fC) e.t3 (Size2.ofBits (top 1 5 (low 6 e.fX))) sc (AKind.ofBits (low 2 (low 5 (low 6 e.fX)))) (Hint.ofBits (low 2 e.fF))))
  | 0xd => (do zero (top 2 2 e.fF); zero (top 5 5 e.fX); let sc ← Scope.ofBits? (top 3 2 (low 5 e.fX)); some (.acas2 (Reg.ofBits e.fD) (Reg.ofBits e.fA) (Reg.ofBits e.fB) (Reg.ofBits e.fC) e.t3 sc (AKind.ofBits (low 2 (low 5 e.fX))) (Hint.ofBits (low 2 e.fF))))
  | _ => none

/-- The encodings of opcodes 0xB0 to 0xBF; none where a reserved bit is set or a reserved value is used (R56). -/
def parseB (lo : BitVec 4) (e : Enc) : Option Instr :=
  match lo.toNat with
  | 0x0 => (do zero e.fF; some (.enq (Reg.ofBits e.fD) (Reg.ofBits e.fA) (Reg.ofBits e.fB)))
  | 0x1 => (do zero e.fD; some (.qfence))
  | 0x2 => (do zero e.fB; zero e.fF; some (.launch (Reg.ofBits e.fD) (Reg.ofBits e.fA)))
  | 0x3 => (do zero e.fA; zero (top 8 2 e.fImm10); some (.bar (Reg.ofBits e.fD) (low 2 e.fImm10)))
  | 0x4 => (do zero e.fB; zero e.fF; some (.qstat (Reg.ofBits e.fD) (Reg.ofBits e.fA)))
  | 0x8 => (do zero e.fB; zero e.fF; some (.glaunch (Reg.ofBits e.fD) (Reg.ofBits e.fA)))
  | 0x9 => (do zero e.fF; some (.gtok (Reg.ofBits e.fD) (Reg.ofBits e.fA) (Reg.ofBits e.fB)))
  | 0xa => (do zero e.fF; some (.gexp (Reg.ofBits e.fD) (Reg.ofBits e.fA) (Reg.ofBits e.fB)))
  | 0xb => (do zero (top 3 1 e.fF); some (.gstat (Reg.ofBits e.fD) (Reg.ofBits e.fA) (Reg.ofBits e.fB) (ofBit (low 1 e.fF))))
  | 0xc => (do zero e.fF; some (.gcancel (Reg.ofBits e.fD) (Reg.ofBits e.fA) (Reg.ofBits e.fB)))
  | 0xd => (do zero e.fF; some (.gretry (Reg.ofBits e.fD) (Reg.ofBits e.fA) (Reg.ofBits e.fB)))
  | _ => none

/-- The encodings of opcodes 0xC0 to 0xCF; none where a reserved bit is set or a reserved value is used (R56). -/
def parseC (lo : BitVec 4) (e : Enc) : Option Instr :=
  match lo.toNat with
  | 0x0 => (do zero e.fB; zero e.fF; some (.rulook (Reg.ofBits e.fD) (Reg.ofBits e.fA)))
  | 0x1 => (do zero e.fB; zero e.fF; some (.ruput (Reg.ofBits e.fD) (Reg.ofBits e.fA)))
  | 0x2 => (do zero e.fB; zero (top 2 2 e.fF); let m ← DropMode.ofBits? (low 2 e.fF); some (.rudrop (Reg.ofBits e.fD) (Reg.ofBits e.fA) m))
  | 0x3 => (do zero e.fB; zero e.fF; some (.rustat (Reg.ofBits e.fD) (Reg.ofBits e.fA)))
  | 0x8 => (do zero e.fB; zero e.fF; some (.agnew (Reg.ofBits e.fD) (Reg.ofBits e.fA)))
  | 0x9 => (do zero e.fF; some (.agstat (Reg.ofBits e.fD) (Reg.ofBits e.fA) (Reg.ofBits e.fB)))
  | 0xa => (do zero e.fB; zero e.fF; some (.evsend (Reg.ofBits e.fD) (Reg.ofBits e.fA)))
  | 0xb => (do zero e.fD; some (.evdone))
  | 0xc => (do zero e.fF; some (.ctxapp (Reg.ofBits e.fD) (Reg.ofBits e.fA) (Reg.ofBits e.fB)))
  | 0xd => (do zero (top 3 1 e.fF); some (.ctxcut (Reg.ofBits e.fD) (Reg.ofBits e.fA) (Reg.ofBits e.fB) (ofBit (low 1 e.fF))))
  | 0xe => (do zero e.fF; some (.irrev (Reg.ofBits e.fD) (Reg.ofBits e.fA) (Reg.ofBits e.fB)))
  | 0xf => (do zero e.fB; zero e.fF; some (.vtwin (Reg.ofBits e.fD) (Reg.ofBits e.fA)))
  | _ => none

/-- The encodings of opcodes 0xD0 to 0xDF; none where a reserved bit is set or a reserved value is used (R56). -/
def parseD (lo : BitVec 4) (e : Enc) : Option Instr :=
  match lo.toNat with
  | 0x0 => (do zero e.fD; some (.gvtreq))
  | 0x8 => (do zero e.fB; zero (top 2 2 e.fF); some (.streamset (Reg.ofBits e.fD) (Reg.ofBits e.fA) (low 2 e.fF)))
  | 0x9 => (do zero e.fA; zero e.fB; zero (top 2 2 e.fF); some (.mark (Reg.ofBits e.fD) (low 2 e.fF)))
  | 0xa => (do zero e.fB; zero e.fF; some (.coll (Reg.ofBits e.fD) (Reg.ofBits e.fA)))
  | 0xb => (do zero e.fB; zero e.fF; some (.nstat (Reg.ofBits e.fD) (Reg.ofBits e.fA)))
  | _ => none

/-- The encodings of opcodes 0xE0 to 0xEF; none where a reserved bit is set or a reserved value is used (R56). -/
def parseE (lo : BitVec 4) (e : Enc) : Option Instr :=
  match lo.toNat with
  | 0x0 => (do zero e.fF; some (.gangsw (Reg.ofBits e.fD) (Reg.ofBits e.fA) (Reg.ofBits e.fB)))
  | 0x1 => (do zero e.fD; some (.dlchk))
  | 0x2 => (do zero e.fB; zero e.fF; some (.rplog (Reg.ofBits e.fD) (Reg.ofBits e.fA)))
  | 0x3 => (do zero e.fB; zero e.fF; some (.faultget (Reg.ofBits e.fD) (Reg.ofBits e.fA)))
  | 0x8 => (do zero e.fB; zero (top 3 1 e.fF); some (.biasf (Reg.ofBits e.fD) (Reg.ofBits e.fA) (ofBit (low 1 e.fF))))
  | 0x9 => (do zero e.fF; some (.hostsig (Reg.ofBits e.fD) (Reg.ofBits e.fA) (Reg.ofBits e.fB)))
  | _ => none

/-- The instruction a head and its tails give, by opcode, when the lengths agree. -/
def parse (op : BitVec 8) (e : Enc) : Option Instr :=
  match (top 4 4 op).toNat with
  | 0x0 => parse0 (low 4 op) e
  | 0x1 => parse1 (low 4 op) e
  | 0x2 => parse2 (low 4 op) e
  | 0x3 => parse3 (low 4 op) e
  | 0x4 => parse4 (low 4 op) e
  | 0x5 => parse5 (low 4 op) e
  | 0x6 => parse6 (low 4 op) e
  | 0x7 => parse7 (low 4 op) e
  | 0x8 => parse8 (low 4 op) e
  | 0x9 => parse9 (low 4 op) e
  | 0xa => parseA (low 4 op) e
  | 0xb => parseB (low 4 op) e
  | 0xc => parseC (low 4 op) e
  | 0xd => parseD (low 4 op) e
  | 0xe => parseE (low 4 op) e
  | _ => none

/-- R58, R59 steps 4 to 6: an unassigned opcode, a head of the wrong length, a reserved bit or value, in this order. -/
def decode (e : Enc) : Except Reject Instr :=
  match tailLength e.fOp with
  | none => .error .illegalOp
  | some n =>
    if e.fTl ≠ n then .error .illegalLen
    else
      match parse e.fOp e with
      | none => .error .illegalOp
      | some i => if wellFormed i then .ok i else .error .illegalOp

/-- The words of an instruction, from the encoding tables; none for a happening. -/
def encode : Instr → Option Enc
  | .nop => some (enc0 0#2 0x01#8 (0#6))
  | .b off hd => some (enc1 1#2 0x02#8 (0#6) (tJ off hd))
  | .bl d off hd => some (enc1 1#2 0x03#8 (Reg.toBits d) (tJ off hd))
  | .bc a b off hd c => some (enc2 2#2 0x04#8 (0#6) (tR (Reg.toBits a) (Reg.toBits b) (Cond.toBits c)) (tJ off hd))
  | .bcz a off hd c => some (enc2 2#2 0x05#8 (0#6) (tR (Reg.toBits a) (0#6) (Cond.toBits c)) (tJ off hd))
  | .jx a => some (enc1 1#2 0x06#8 (0#6) (tR (Reg.toBits a) (0#6) (0#4)))
  | .jlx d a => some (enc1 1#2 0x07#8 (Reg.toBits d) (tR (Reg.toBits a) (0#6) (0#4)))
  | .loop a off hd => some (enc2 2#2 0x08#8 (0#6) (tR (Reg.toBits a) (0#6) (0#4)) (tJ off hd))
  | .halt => some (enc0 0#2 0x09#8 (0#6))
  | .trap imm => some (enc1 1#2 0x0a#8 (0#6) (tI (0#6) imm))
  | .eret => some (enc0 0#2 0x0b#8 (0#6))
  | .park => some (enc0 0#2 0x0c#8 (0#6))
  | .wake d a => some (enc1 1#2 0x0d#8 (Reg.toBits d) (tR (Reg.toBits a) (0#6) (0#4)))
  | .issueset d a w => some (enc1 1#2 0x0e#8 (Reg.toBits d) (tR (Reg.toBits a) (0#6) (glue 4 (0#2) w)))
  | .issueget d pend w => some (enc1 1#2 0x0f#8 (Reg.toBits d) (tR (0#6) (0#6) (glue 4 (0#1) (glue 3 (toBit pend) w))))
  | .add d a b => some (enc1 1#2 0x10#8 (Reg.toBits d) (tR (Reg.toBits a) (Reg.toBits b) (0#4)))
  | .sub d a b => some (enc1 1#2 0x11#8 (Reg.toBits d) (tR (Reg.toBits a) (Reg.toBits b) (0#4)))
  | .mul d a b => some (enc1 1#2 0x12#8 (Reg.toBits d) (tR (Reg.toBits a) (Reg.toBits b) (0#4)))
  | .mulh d a b => some (enc1 1#2 0x13#8 (Reg.toBits d) (tR (Reg.toBits a) (Reg.toBits b) (0#4)))
  | .mulhn d a b => some (enc1 1#2 0x14#8 (Reg.toBits d) (tR (Reg.toBits a) (Reg.toBits b) (0#4)))
  | .div d a b => some (enc1 1#2 0x15#8 (Reg.toBits d) (tR (Reg.toBits a) (Reg.toBits b) (0#4)))
  | .divn d a b => some (enc1 1#2 0x16#8 (Reg.toBits d) (tR (Reg.toBits a) (Reg.toBits b) (0#4)))
  | .rem d a b => some (enc1 1#2 0x17#8 (Reg.toBits d) (tR (Reg.toBits a) (Reg.toBits b) (0#4)))
  | .remn d a b => some (enc1 1#2 0x18#8 (Reg.toBits d) (tR (Reg.toBits a) (Reg.toBits b) (0#4)))
  | .and d a b => some (enc1 1#2 0x19#8 (Reg.toBits d) (tR (Reg.toBits a) (Reg.toBits b) (0#4)))
  | .or d a b => some (enc1 1#2 0x1a#8 (Reg.toBits d) (tR (Reg.toBits a) (Reg.toBits b) (0#4)))
  | .xor d a b => some (enc1 1#2 0x1b#8 (Reg.toBits d) (tR (Reg.toBits a) (Reg.toBits b) (0#4)))
  | .andn d a b => some (enc1 1#2 0x1c#8 (Reg.toBits d) (tR (Reg.toBits a) (Reg.toBits b) (0#4)))
  | .shl d a b => some (enc1 1#2 0x1d#8 (Reg.toBits d) (tR (Reg.toBits a) (Reg.toBits b) (0#4)))
  | .shra d a b => some (enc1 1#2 0x1e#8 (Reg.toBits d) (tR (Reg.toBits a) (Reg.toBits b) (0#4)))
  | .shrl d a b => some (enc1 1#2 0x1f#8 (Reg.toBits d) (tR (Reg.toBits a) (Reg.toBits b) (0#4)))
  | .rotl d a b => some (enc1 1#2 0x20#8 (Reg.toBits d) (tR (Reg.toBits a) (Reg.toBits b) (0#4)))
  | .min d a b => some (enc1 1#2 0x21#8 (Reg.toBits d) (tR (Reg.toBits a) (Reg.toBits b) (0#4)))
  | .max d a b => some (enc1 1#2 0x22#8 (Reg.toBits d) (tR (Reg.toBits a) (Reg.toBits b) (0#4)))
  | .minn d a b => some (enc1 1#2 0x23#8 (Reg.toBits d) (tR (Reg.toBits a) (Reg.toBits b) (0#4)))
  | .maxn d a b => some (enc1 1#2 0x24#8 (Reg.toBits d) (tR (Reg.toBits a) (Reg.toBits b) (0#4)))
  | .slt d a b => some (enc1 1#2 0x25#8 (Reg.toBits d) (tR (Reg.toBits a) (Reg.toBits b) (0#4)))
  | .sltn d a b => some (enc1 1#2 0x26#8 (Reg.toBits d) (tR (Reg.toBits a) (Reg.toBits b) (0#4)))
  | .seq d a b => some (enc1 1#2 0x27#8 (Reg.toBits d) (tR (Reg.toBits a) (Reg.toBits b) (0#4)))
  | .addi d a imm => some (enc1 1#2 0x28#8 (Reg.toBits d) (tI (Reg.toBits a) imm))
  | .andi d a imm => some (enc1 1#2 0x29#8 (Reg.toBits d) (tI (Reg.toBits a) imm))
  | .ori d a imm => some (enc1 1#2 0x2a#8 (Reg.toBits d) (tI (Reg.toBits a) imm))
  | .xori d a imm => some (enc1 1#2 0x2b#8 (Reg.toBits d) (tI (Reg.toBits a) imm))
  | .shli d a sh => some (enc1 1#2 0x2c#8 (Reg.toBits d) (tI (Reg.toBits a) (glue 10 (0#4) sh)))
  | .shrai d a sh => some (enc1 1#2 0x2d#8 (Reg.toBits d) (tI (Reg.toBits a) (glue 10 (0#4) sh)))
  | .shrli d a sh => some (enc1 1#2 0x2e#8 (Reg.toBits d) (tI (Reg.toBits a) (glue 10 (0#4) sh)))
  | .slti d a imm => some (enc1 1#2 0x2f#8 (Reg.toBits d) (tI (Reg.toBits a) imm))
  | .li d imm => some (enc2 2#2 0x30#8 (Reg.toBits d) (tI (0#6) (top 10 16 imm)) (low 16 imm))
  | .lih d a imm => some (enc2 2#2 0x31#8 (Reg.toBits d) (tI (Reg.toBits a) (top 10 16 imm)) (low 16 imm))
  | .addpc d off hd => some (enc1 1#2 0x32#8 (Reg.toBits d) (tJ off hd))
  | .clz d a => some (enc1 1#2 0x33#8 (Reg.toBits d) (tR (Reg.toBits a) (0#6) (0#4)))
  | .ctz d a => some (enc1 1#2 0x34#8 (Reg.toBits d) (tR (Reg.toBits a) (0#6) (0#4)))
  | .popc d a => some (enc1 1#2 0x35#8 (Reg.toBits d) (tR (Reg.toBits a) (0#6) (0#4)))
  | .sel d a b c => some (enc2 2#2 0x36#8 (Reg.toBits d) (tR (Reg.toBits a) (Reg.toBits b) (0#4)) (glue 16 (Reg.toBits c) (0#10)))
  | .bfx d a wm1 lo sx => some (enc2 2#2 0x37#8 (Reg.toBits d) (tR (Reg.toBits a) (0#6) (glue 4 (0#3) (toBit sx))) (glue 16 (0#4) (glue 12 wm1 lo)))
  | .bfi d a b wm1 lo => some (enc2 2#2 0x38#8 (Reg.toBits d) (tR (Reg.toBits a) (Reg.toBits b) (0#4)) (glue 16 (0#4) (glue 12 wm1 lo)))
  | .exts d a sz => some (enc1 1#2 0x39#8 (Reg.toBits d) (tR (Reg.toBits a) (0#6) (glue 4 (Size.toBits sz) (0#2))))
  | .extz d a sz => some (enc1 1#2 0x3a#8 (Reg.toBits d) (tR (Reg.toBits a) (0#6) (glue 4 (Size.toBits sz) (0#2))))
  | .getc d n => some (enc1 1#2 0x3b#8 (Reg.toBits d) (tI (0#6) n))
  | .setc d a n => some (enc1 1#2 0x3c#8 (Reg.toBits d) (tI (Reg.toBits a) n))
  | .mlog md ma mb op => some (enc1 1#2 0x3d#8 (glue 6 (0#3) md) (tR (glue 6 (0#3) ma) (glue 6 (0#3) mb) (LogOp.toBits op)))
  | .mget md a => some (enc1 1#2 0x3e#8 (glue 6 (0#3) md) (tR (Reg.toBits a) (0#6) (0#4)))
  | .mset md a => some (enc1 1#2 0x3f#8 (glue 6 (0#3) md) (tR (Reg.toBits a) (0#6) (0#4)))
  | .fcvt d a b => some (enc1 1#2 0x40#8 (Reg.toBits d) (tR (Reg.toBits a) (Reg.toBits b) (0#4)))
  | .fcvti d a b n => some (enc1 1#2 0x41#8 (Reg.toBits d) (tR (Reg.toBits a) (Reg.toBits b) (glue 4 (0#3) (toBit n))))
  | .icvtf d a b n => some (enc1 1#2 0x42#8 (Reg.toBits d) (tR (Reg.toBits a) (Reg.toBits b) (glue 4 (0#3) (toBit n))))
  | .fclass d a b => some (enc1 1#2 0x43#8 (Reg.toBits d) (tR (Reg.toBits a) (Reg.toBits b) (0#4)))
  | .dtload d a t => some (enc1 1#2 0x44#8 (Reg.toBits d) (tR (Reg.toBits a) (0#6) (glue 4 (0#3) t)))
  | .dtread d a t => some (enc1 1#2 0x45#8 (Reg.toBits d) (tR (Reg.toBits a) (0#6) (glue 4 (0#3) t)))
  | .vadd w vd va vb mk t => some (enc1 1#2 0x50#8 (glue 6 (Width.toBits w) vd) (tV va vb (maskToBits mk) (VType.toBits t)))
  | .vsub w vd va vb mk t => some (enc1 1#2 0x51#8 (glue 6 (Width.toBits w) vd) (tV va vb (maskToBits mk) (VType.toBits t)))
  | .vmul w vd va vb mk t => some (enc1 1#2 0x52#8 (glue 6 (Width.toBits w) vd) (tV va vb (maskToBits mk) (VType.toBits t)))
  | .vfma w vd va vb vc mk t => some (enc2 2#2 0x53#8 (glue 6 (Width.toBits w) vd) (tV va vb (maskToBits mk) (VType.toBits t)) (glue 16 vc (0#12)))
  | .vmin w vd va vb mk t => some (enc1 1#2 0x54#8 (glue 6 (Width.toBits w) vd) (tV va vb (maskToBits mk) (VType.toBits t)))
  | .vmax w vd va vb mk t => some (enc1 1#2 0x55#8 (glue 6 (Width.toBits w) vd) (tV va vb (maskToBits mk) (VType.toBits t)))
  | .vabs w vd va mk t => some (enc1 1#2 0x56#8 (glue 6 (Width.toBits w) vd) (tV va (0#4) (maskToBits mk) (VType.toBits t)))
  | .vcmp w vd va vb mk c k => some (enc1 1#2 0x57#8 (glue 6 (Width.toBits w) vd) (tV va vb (maskToBits mk) (glue 4 (CmpCond.toBits c) (CmpKind.toBits k))))
  | .vsel w vd va vb mk => some (enc1 1#2 0x58#8 (glue 6 (Width.toBits w) vd) (tV va vb (maskToBits mk) (0#4)))
  | .vand w vd va vb mk => some (enc1 1#2 0x59#8 (glue 6 (Width.toBits w) vd) (tV va vb (maskToBits mk) (0#4)))
  | .vor w vd va vb mk => some (enc1 1#2 0x5a#8 (glue 6 (Width.toBits w) vd) (tV va vb (maskToBits mk) (0#4)))
  | .vxor w vd va vb mk => some (enc1 1#2 0x5b#8 (glue 6 (Width.toBits w) vd) (tV va vb (maskToBits mk) (0#4)))
  | .vshl w vd va vb mk => some (enc1 1#2 0x5c#8 (glue 6 (Width.toBits w) vd) (tV va vb (maskToBits mk) (0#4)))
  | .vshr w vd va vb mk ar => some (enc1 1#2 0x5d#8 (glue 6 (Width.toBits w) vd) (tV va vb (maskToBits mk) (glue 4 (0#3) (toBit ar))))
  | .vbcast w vd xa mk => some (enc1 1#2 0x5e#8 (glue 6 (Width.toBits w) vd) (tV xa (0#4) (maskToBits mk) (0#4)))
  | .vins w vd xa nl mk nh => some (enc1 1#2 0x5f#8 (glue 6 (Width.toBits w) vd) (tV xa nl (maskToBits mk) (glue 4 (0#3) nh)))
  | .vmovx d va nl nh sx szx => some (enc1 1#2 0x60#8 (Reg.toBits d) (tV va nl (0#4) (glue 4 nh (glue 3 (toBit sx) szx))))
  | .vidx w vd mk => some (enc1 1#2 0x61#8 (glue 6 (Width.toBits w) vd) (tV (0#4) (0#4) (maskToBits mk) (0#4)))
  | .vperm w vd va vb mk => some (enc1 1#2 0x62#8 (glue 6 (Width.toBits w) vd) (tV va vb (maskToBits mk) (0#4)))
  | .vred w vd va op mk t => some (enc1 1#2 0x63#8 (glue 6 (Width.toBits w) vd) (tV va (RedOp.toBits op) (maskToBits mk) (VType.toBits t)))
  | .vdec vd va xb => some (enc1 1#2 0x64#8 (glue 6 (0#2) vd) (tV va xb (0#4) (0#4)))
  | .venc vd va xb => some (enc1 1#2 0x65#8 (glue 6 (0#2) vd) (tV va xb (0#4) (0#4)))
  | .vcvt vd va xb => some (enc1 1#2 0x66#8 (glue 6 (0#2) vd) (tV va xb (0#4) (0#4)))
  | .sfn w vd va fn mk t => some (enc1 1#2 0x67#8 (glue 6 (Width.toBits w) vd) (tV va (SfnOp.toBits fn) (maskToBits mk) (VType.toBits t)))
  | .vmode d m => some (enc1 1#2 0x68#8 (Reg.toBits d) (tI (0#6) (glue 10 (0#9) (toBit m))))
  | .vfence => some (enc0 0#2 0x69#8 (0#6))
  | .vstat d => some (enc1 1#2 0x6a#8 (Reg.toBits d) (tR (0#6) (0#6) (0#4)))
  | .ld d a imm sz h => some (enc2 2#2 0x70#8 (Reg.toBits d) (tR (Reg.toBits a) (0#6) (glue 4 (Size.toBits sz) (Hint.toBits h))) imm)
  | .lds d a imm sz h => some (enc2 2#2 0x71#8 (Reg.toBits d) (tR (Reg.toBits a) (0#6) (glue 4 (Size.toBits sz) (Hint.toBits h))) imm)
  | .st a b imm sz h => some (enc2 2#2 0x72#8 (0#6) (tR (Reg.toBits a) (Reg.toBits b) (glue 4 (Size.toBits sz) (Hint.toBits h))) imm)
  | .stn a b imm hi h => some (enc2 2#2 0x73#8 (0#6) (tR (Reg.toBits a) (Reg.toBits b) (glue 4 (0#1) (glue 3 (toBit hi) (Hint.toBits h)))) imm)
  | .ldx d a b imm sz h => some (enc2 2#2 0x74#8 (Reg.toBits d) (tR (Reg.toBits a) (Reg.toBits b) (glue 4 (Size.toBits sz) (Hint.toBits h))) imm)
  | .stx a b c imm sz h => some (enc3 3#2 0x75#8 (0#6) (tR (Reg.toBits a) (Reg.toBits b) (glue 4 (Size.toBits sz) (Hint.toBits h))) (tI (Reg.toBits c) (0#10)) imm)
  | .ldf d a imm => some (enc2 2#2 0x76#8 (Reg.toBits d) (tR (Reg.toBits a) (0#6) (0#4)) imm)
  | .ldfe d a imm => some (enc2 2#2 0x77#8 (Reg.toBits d) (tR (Reg.toBits a) (0#6) (0#4)) imm)
  | .stf a b imm => some (enc2 2#2 0x78#8 (0#6) (tR (Reg.toBits a) (Reg.toBits b) (0#4)) imm)
  | .feset a imm full => some (enc2 2#2 0x79#8 (0#6) (tR (Reg.toBits a) (0#6) (glue 4 (0#3) (toBit full))) imm)
  | .feget d a imm => some (enc2 2#2 0x7a#8 (Reg.toBits d) (tR (Reg.toBits a) (0#6) (0#4)) imm)
  | .vld vd a imm h => some (enc2 2#2 0x7b#8 (glue 6 (0#2) vd) (tR (Reg.toBits a) (0#6) (glue 4 (0#2) (Hint.toBits h))) imm)
  | .vst vd a imm h => some (enc2 2#2 0x7c#8 (glue 6 (0#2) vd) (tR (Reg.toBits a) (0#6) (glue 4 (0#2) (Hint.toBits h))) imm)
  | .vldx w vd a b imm h => some (enc2 2#2 0x7d#8 (glue 6 (Width.toBits w) vd) (tR (Reg.toBits a) (Reg.toBits b) (glue 4 (0#2) (Hint.toBits h))) imm)
  | .vstx a b w vc imm h => some (enc3 3#2 0x7e#8 (0#6) (tR (Reg.toBits a) (Reg.toBits b) (glue 4 (0#2) (Hint.toBits h))) (tI (glue 6 (Width.toBits w) vc) (0#10)) imm)
  | .bankrole d a b => some (enc1 1#2 0x7f#8 (Reg.toBits d) (tR (Reg.toBits a) (Reg.toBits b) (0#4)))
  | .stashmap d a bank h => some (enc2 2#2 0x80#8 (Reg.toBits d) (tR (Reg.toBits a) (0#6) (glue 4 (0#2) (Hint.toBits h))) (glue 16 (0#11) bank))
  | .stashwb a => some (enc1 1#2 0x81#8 (0#6) (tR (Reg.toBits a) (0#6) (0#4)))
  | .wait l s c t => some (enc2 2#2 0x82#8 (0#6) (tR (0#6) (0#6) (0#4)) (glue 16 l (glue 12 s (glue 8 c t))))
  | .cntget d => some (enc1 1#2 0x83#8 (Reg.toBits d) (tR (0#6) (0#6) (0#4)))
  | .tmma a c row0 m1 z l => some (enc3 3#2 0x88#8 (0#6) (tR (Reg.toBits a) (0#6) (glue 4 (0#2) (glue 2 (toBit z) l))) (tI (Reg.toBits c) (glue 10 (0#3) m1)) (glue 16 (0#9) row0))
  | .tzero a => some (enc1 1#2 0x89#8 (0#6) (tR (Reg.toBits a) (0#6) (0#4)))
  | .tbld a b h l => some (enc1 1#2 0x8a#8 (0#6) (tR (Reg.toBits a) (Reg.toBits b) (glue 4 (0#1) (glue 3 (Hint.toBits h) l))))
  | .tbpass drop l => some (enc1 1#2 0x8b#8 (0#6) (tR (0#6) (0#6) (glue 4 (0#2) (glue 2 (toBit drop) l))))
  | .tdrain a b c imm z wk fl => some (enc3 3#2 0x8c#8 (0#6) (tR (Reg.toBits a) (Reg.toBits b) (0#4)) (tI (Reg.toBits c) (glue 10 (0#7) (glue 3 (toBit z) (glue 2 (toBit wk) (toBit fl))))) imm)
  | .tfence => some (enc0 0#2 0x8d#8 (0#6))
  | .tstat d clr w => some (enc1 1#2 0x8e#8 (Reg.toBits d) (tR (0#6) (0#6) (glue 4 (0#1) (glue 3 (toBit clr) w))))
  | .twgt d a b => some (enc1 1#2 0x8f#8 (Reg.toBits d) (tR (Reg.toBits a) (Reg.toBits b) (0#4)))
  | .cpy q => some (enc1 1#2 0x90#8 (0#6) (tR (glue 6 (0#1) (glue 5 q (0#2))) (0#6) (0#4)))
  | .cpyt d q => some (enc1 1#2 0x91#8 (Reg.toBits d) (tR (glue 6 (0#1) (glue 5 q (0#2))) (0#6) (0#4)))
  | .mbxpop p => some (enc0 0#2 0x92#8 (glue 6 (0#1) (glue 5 p (0#1))))
  | .wfm => some (enc0 0#2 0x93#8 (0#6))
  | .uien d a b => some (enc1 1#2 0x94#8 (Reg.toBits d) (tR (Reg.toBits a) (Reg.toBits b) (0#4)))
  | .uiret => some (enc0 0#2 0x95#8 (0#6))
  | .tokacc a b imm => some (enc2 2#2 0x96#8 (0#6) (tR (Reg.toBits a) (Reg.toBits b) (0#4)) imm)
  | .pft a imm h => some (enc2 2#2 0x98#8 (0#6) (tR (Reg.toBits a) (0#6) (glue 4 (0#2) (Hint.toBits h))) imm)
  | .pinw d a => some (enc1 1#2 0x99#8 (Reg.toBits d) (tR (Reg.toBits a) (0#6) (0#4)))
  | .pinq d a => some (enc1 1#2 0x9a#8 (Reg.toBits d) (tR (Reg.toBits a) (0#6) (0#4)))
  | .cwb d a b all => some (enc1 1#2 0x9b#8 (Reg.toBits d) (tR (Reg.toBits a) (Reg.toBits b) (glue 4 (0#3) (toBit all))))
  | .cinv d a b llc all => some (enc1 1#2 0x9c#8 (Reg.toBits d) (tR (Reg.toBits a) (Reg.toBits b) (glue 4 (0#2) (glue 2 (toBit llc) (toBit all)))))
  | .tlbinv a b sc => some (enc1 1#2 0x9d#8 (0#6) (tR (Reg.toBits a) (Reg.toBits b) (glue 4 (0#2) (InvScope.toBits sc))))
  | .fence sc k => some (enc1 1#2 0xa0#8 (0#6) (tI (0#6) (glue 10 (0#5) (glue 5 (Scope.toBits sc) (FKind.toBits k)))))
  | .ldacq d a imm sz sc => some (enc2 2#2 0xa1#8 (Reg.toBits d) (tR (Reg.toBits a) (0#6) (glue 4 (Size2.toBits sz) (Scope.toBits sc))) imm)
  | .strel a b imm sz sc => some (enc2 2#2 0xa2#8 (0#6) (tR (Reg.toBits a) (Reg.toBits b) (glue 4 (Size2.toBits sz) (Scope.toBits sc))) imm)
  | .aadd d a b sz sc k h => some (enc2 2#2 0xa3#8 (Reg.toBits d) (tR (Reg.toBits a) (Reg.toBits b) (glue 4 (0#2) (Hint.toBits h))) (glue 16 (0#10) (glue 6 (Size2.toBits sz) (glue 5 (Scope.toBits sc) (AKind.toBits k)))))
  | .aand d a b sz sc k h => some (enc2 2#2 0xa4#8 (Reg.toBits d) (tR (Reg.toBits a) (Reg.toBits b) (glue 4 (0#2) (Hint.toBits h))) (glue 16 (0#10) (glue 6 (Size2.toBits sz) (glue 5 (Scope.toBits sc) (AKind.toBits k)))))
  | .aor d a b sz sc k h => some (enc2 2#2 0xa5#8 (Reg.toBits d) (tR (Reg.toBits a) (Reg.toBits b) (glue 4 (0#2) (Hint.toBits h))) (glue 16 (0#10) (glue 6 (Size2.toBits sz) (glue 5 (Scope.toBits sc) (AKind.toBits k)))))
  | .axor d a b sz sc k h => some (enc2 2#2 0xa6#8 (Reg.toBits d) (tR (Reg.toBits a) (Reg.toBits b) (glue 4 (0#2) (Hint.toBits h))) (glue 16 (0#10) (glue 6 (Size2.toBits sz) (glue 5 (Scope.toBits sc) (AKind.toBits k)))))
  | .amin d a b sz sc k h => some (enc2 2#2 0xa7#8 (Reg.toBits d) (tR (Reg.toBits a) (Reg.toBits b) (glue 4 (0#2) (Hint.toBits h))) (glue 16 (0#10) (glue 6 (Size2.toBits sz) (glue 5 (Scope.toBits sc) (AKind.toBits k)))))
  | .amax d a b sz sc k h => some (enc2 2#2 0xa8#8 (Reg.toBits d) (tR (Reg.toBits a) (Reg.toBits b) (glue 4 (0#2) (Hint.toBits h))) (glue 16 (0#10) (glue 6 (Size2.toBits sz) (glue 5 (Scope.toBits sc) (AKind.toBits k)))))
  | .aminn d a b sz sc k h => some (enc2 2#2 0xa9#8 (Reg.toBits d) (tR (Reg.toBits a) (Reg.toBits b) (glue 4 (0#2) (Hint.toBits h))) (glue 16 (0#10) (glue 6 (Size2.toBits sz) (glue 5 (Scope.toBits sc) (AKind.toBits k)))))
  | .amaxn d a b sz sc k h => some (enc2 2#2 0xaa#8 (Reg.toBits d) (tR (Reg.toBits a) (Reg.toBits b) (glue 4 (0#2) (Hint.toBits h))) (glue 16 (0#10) (glue 6 (Size2.toBits sz) (glue 5 (Scope.toBits sc) (AKind.toBits k)))))
  | .aswp d a b sz sc k h => some (enc2 2#2 0xab#8 (Reg.toBits d) (tR (Reg.toBits a) (Reg.toBits b) (glue 4 (0#2) (Hint.toBits h))) (glue 16 (0#10) (glue 6 (Size2.toBits sz) (glue 5 (Scope.toBits sc) (AKind.toBits k)))))
  | .acas d a b c imm sz sc k h => some (enc3 3#2 0xac#8 (Reg.toBits d) (tR (Reg.toBits a) (Reg.toBits b) (glue 4 (0#2) (Hint.toBits h))) (tI (Reg.toBits c) (glue 10 (0#4) (glue 6 (Size2.toBits sz) (glue 5 (Scope.toBits sc) (AKind.toBits k))))) imm)
  | .acas2 d a b c imm sc k h => some (enc3 3#2 0xad#8 (Reg.toBits d) (tR (Reg.toBits a) (Reg.toBits b) (glue 4 (0#2) (Hint.toBits h))) (tI (Reg.toBits c) (glue 10 (0#5) (glue 5 (Scope.toBits sc) (AKind.toBits k)))) imm)
  | .enq d a b => some (enc1 1#2 0xb0#8 (Reg.toBits d) (tR (Reg.toBits a) (Reg.toBits b) (0#4)))
  | .qfence => some (enc0 0#2 0xb1#8 (0#6))
  | .launch d a => some (enc1 1#2 0xb2#8 (Reg.toBits d) (tR (Reg.toBits a) (0#6) (0#4)))
  | .bar d g => some (enc1 1#2 0xb3#8 (Reg.toBits d) (tI (0#6) (glue 10 (0#8) g)))
  | .qstat d a => some (enc1 1#2 0xb4#8 (Reg.toBits d) (tR (Reg.toBits a) (0#6) (0#4)))
  | .glaunch d a => some (enc1 1#2 0xb8#8 (Reg.toBits d) (tR (Reg.toBits a) (0#6) (0#4)))
  | .gtok d a b => some (enc1 1#2 0xb9#8 (Reg.toBits d) (tR (Reg.toBits a) (Reg.toBits b) (0#4)))
  | .gexp d a b => some (enc1 1#2 0xba#8 (Reg.toBits d) (tR (Reg.toBits a) (Reg.toBits b) (0#4)))
  | .gstat d a b n => some (enc1 1#2 0xbb#8 (Reg.toBits d) (tR (Reg.toBits a) (Reg.toBits b) (glue 4 (0#3) (toBit n))))
  | .gcancel d a b => some (enc1 1#2 0xbc#8 (Reg.toBits d) (tR (Reg.toBits a) (Reg.toBits b) (0#4)))
  | .gretry d a b => some (enc1 1#2 0xbd#8 (Reg.toBits d) (tR (Reg.toBits a) (Reg.toBits b) (0#4)))
  | .rulook d a => some (enc1 1#2 0xc0#8 (Reg.toBits d) (tR (Reg.toBits a) (0#6) (0#4)))
  | .ruput d a => some (enc1 1#2 0xc1#8 (Reg.toBits d) (tR (Reg.toBits a) (0#6) (0#4)))
  | .rudrop d a m => some (enc1 1#2 0xc2#8 (Reg.toBits d) (tR (Reg.toBits a) (0#6) (glue 4 (0#2) (DropMode.toBits m))))
  | .rustat d a => some (enc1 1#2 0xc3#8 (Reg.toBits d) (tR (Reg.toBits a) (0#6) (0#4)))
  | .agnew d a => some (enc1 1#2 0xc8#8 (Reg.toBits d) (tR (Reg.toBits a) (0#6) (0#4)))
  | .agstat d a b => some (enc1 1#2 0xc9#8 (Reg.toBits d) (tR (Reg.toBits a) (Reg.toBits b) (0#4)))
  | .evsend d a => some (enc1 1#2 0xca#8 (Reg.toBits d) (tR (Reg.toBits a) (0#6) (0#4)))
  | .evdone => some (enc0 0#2 0xcb#8 (0#6))
  | .ctxapp d a b => some (enc1 1#2 0xcc#8 (Reg.toBits d) (tR (Reg.toBits a) (Reg.toBits b) (0#4)))
  | .ctxcut d a b cm => some (enc1 1#2 0xcd#8 (Reg.toBits d) (tR (Reg.toBits a) (Reg.toBits b) (glue 4 (0#3) (toBit cm))))
  | .irrev d a b => some (enc1 1#2 0xce#8 (Reg.toBits d) (tR (Reg.toBits a) (Reg.toBits b) (0#4)))
  | .vtwin d a => some (enc1 1#2 0xcf#8 (Reg.toBits d) (tR (Reg.toBits a) (0#6) (0#4)))
  | .gvtreq => some (enc0 0#2 0xd0#8 (0#6))
  | .streamset d a p => some (enc1 1#2 0xd8#8 (Reg.toBits d) (tR (Reg.toBits a) (0#6) (glue 4 (0#2) p)))
  | .mark d p => some (enc1 1#2 0xd9#8 (Reg.toBits d) (tR (0#6) (0#6) (glue 4 (0#2) p)))
  | .coll d a => some (enc1 1#2 0xda#8 (Reg.toBits d) (tR (Reg.toBits a) (0#6) (0#4)))
  | .nstat d a => some (enc1 1#2 0xdb#8 (Reg.toBits d) (tR (Reg.toBits a) (0#6) (0#4)))
  | .gangsw d a b => some (enc1 1#2 0xe0#8 (Reg.toBits d) (tR (Reg.toBits a) (Reg.toBits b) (0#4)))
  | .dlchk => some (enc0 0#2 0xe1#8 (0#6))
  | .rplog d a => some (enc1 1#2 0xe2#8 (Reg.toBits d) (tR (Reg.toBits a) (0#6) (0#4)))
  | .faultget d a => some (enc1 1#2 0xe3#8 (Reg.toBits d) (tR (Reg.toBits a) (0#6) (0#4)))
  | .biasf d a host => some (enc1 1#2 0xe8#8 (Reg.toBits d) (tR (Reg.toBits a) (0#6) (glue 4 (0#3) (toBit host))))
  | .hostsig d a b => some (enc1 1#2 0xe9#8 (Reg.toBits d) (tR (Reg.toBits a) (Reg.toBits b) (0#4)))
  | .lineFill _ _ => none
  | .portPop _ _ _ _ => none
  | .portPush _ _ _ _ => none
  | .eventPortPop _ _ _ => none
  | .dutyWrite _ _ _ => none
  | .cpcWrite _ _ _ => none
  | .registerWrite _ _ _ _ => none
  | .loadPerformed _ _ _ => none
  | .storePerformed _ _ _ => none
  | .tlbWalkComplete _ _ => none
  | .stashFill _ _ => none
  | .ownershipGrant _ _ => none
  | .granuleCopyDone _ _ => none
  | .feRemoteArrival _ _ _ => none
  | .feTimeout _ _ => none
  | .latePoison _ _ => none
  | .coproc _ _ => none
  | .uiEntry _ _ => none
  | .taskRetire _ _ => none
  | .wakeupMessage _ => none
  | .issueTableActivate _ => none
  | .vectorGrant _ _ => none
  | .vectorResult _ _ => none
  | .lvCommandEnqueue _ _ => none
  | .lvCommandStart _ => none
  | .lvCommandComplete _ => none
  | .matrixOpStart _ => none
  | .tmmaComplete _ => none
  | .tzeroComplete _ => none
  | .tbldComplete _ _ => none
  | .tbpassMoveEnd _ _ => none
  | .tdrainComplete _ => none
  | .copyKindCopy _ => none
  | .copyKindGather _ => none
  | .copyKindScatter _ => none
  | .copyKindFill _ => none
  | .copyKindConvert _ => none
  | .copyKindHash _ => none
  | .copyKindSelacc _ => none
  | .copyKindSelmem _ => none
  | .copyKindTokacc _ => none
  | .prefetchRequest _ => none
  | .copyRequestFault _ _ => none
  | .copyRequestComplete _ _ => none
  | .biasFlipDrainComplete _ => none
  | .hostAccess _ => none
  | .queueTailWrite _ _ => none
  | .tailWordSeen _ => none
  | .packetRefill _ => none
  | .freeSlotReport _ => none
  | .dispatch => none
  | .tokenDelivery _ => none
  | .nodeCompletion _ => none
  | .waveLevel _ => none
  | .rearm _ => none
  | .pewterLookupDone _ _ => none
  | .pewterInsert _ => none
  | .eventArrival _ => none
  | .antiMessageArrival _ => none
  | .rollbackContinue _ _ => none
  | .heldMessageRelease _ => none
  | .eventPlace _ _ => none
  | .eventOpen _ _ => none
  | .gvtTimer _ => none
  | .gvtCut _ _ => none
  | .gvtReport _ _ => none
  | .gvtPass _ => none
  | .commit _ _ => none
  | .ringDelivery _ _ => none
  | .ringCidxPoll _ _ => none
  | .streamFlitSend _ _ => none
  | .streamFlitArrival _ => none
  | .linkFlitReceive _ _ => none
  | .collStart _ => none
  | .collChunkArrival _ => none
  | .collComplete _ _ => none
  | .gangStop _ => none
  | .gangResume _ => none
  | .dlchkScan _ => none
  | .replayReceive _ => none
  | .mgmtTrapResume _ _ _ => none
  | .mgmtTrapEnd _ _ => none
  | .partCreate _ => none
  | .partDestroy _ => none
  | .queueConfig _ _ => none
  | .ringConfig _ _ _ => none
  | .quota _ _ _ => none
  | .gang _ _ _ _ => none
  | .bias _ _ _ _ => none
  | .powerOperatingPoint _ => none
  | .clockRestart => none
  | .powerStackOff _ => none
  | .powerStackOn _ => none
  | .powerStandby => none
  | .powerStandbyExit => none
  | .attest _ => none
  | .fwStage _ _ => none
  | .resetModule => none
  | .resetCold => none
  | .window _ _ => none
  | .moduleConfig _ _ => none
  | .gvtDomain _ _ _ => none
  | .thermalTrip _ => none
  | .flr => none
  | .barrierCompletionArrival _ _ => none
  | .spillWritePerformed _ => none
  | .uncorrectableError _ => none
  | .powerLoss => none

/-- Read an instruction line's halfword j (R38). -/
def halfword (line : List (BitVec 8)) (j : Nat) : BitVec 16 :=
  glue 16 (line.getD (2 * j + 1) 0) (line.getD (2 * j) 0)

/-- R39: the head count of a line. -/
def lineHeads (line : List (BitVec 8)) : Nat := (low 5 (halfword line 0)).toNat

/-- R40: the halfword index of T1 of head `k + 1`, and so the `p` of the walk before that head (below zero: no such halfword). -/
def lineBase (line : List (BitVec 8)) : Nat → Int
  | 0 => 31
  | k + 1 => lineBase line k - (top 2 14 (halfword line (k + 1))).toNat

/-- R58: why a line is not well formed, with the index of the first offending halfword (R60). -/
inductive LineFault where
  | headerBits
  | noHeads
  | tailOverflow (k : Nat)
  | unused (k : Nat)
deriving DecidableEq, Repr

/-- The first head after whose step in the walk p < H (R60). -/
def firstOverflow (line : List (BitVec 8)) (h : Nat) : Nat → Nat → Option Nat
  | 0, _ => none
  | fuel + 1, k => if k > h then none else if lineBase line k < h then some k else firstOverflow line h fuel (k + 1)

/-- The lowest non-zero halfword from `j` to `p`. -/
def firstUsed (line : List (BitVec 8)) (p : Int) : Nat → Nat → Option Nat
  | 0, _ => none
  | fuel + 1, j => if (j : Int) > p then none else if halfword line j ≠ 0 then some j else firstUsed line p fuel (j + 1)

/-- R41, R58: the check of a whole line, in the order of the table. -/
def lineCheck (line : List (BitVec 8)) : Option LineFault :=
  let h := lineHeads line
  if top 11 5 (halfword line 0) ≠ 0 then some .headerBits
  else if h = 0 then some .noHeads
  else
    match firstOverflow line h 32 1 with
    | some k => some (.tailOverflow k)
    | none => (firstUsed line (lineBase line h) 32 (h + 1)).map .unused

/-- The `i`-th tail halfword of head `k` (i = 0 is T1), zero where the head's TL field gives no such tail (R40, R60). -/
def lineTail (line : List (BitVec 8)) (k i : Nat) : BitVec 16 :=
  if (top 2 14 (halfword line k)).toNat ≤ i then 0 else halfword line ((lineBase line (k - 1)).toNat - i)

/-- R40: head `k` of a line with its tails. -/
def lineEnc (line : List (BitVec 8)) (k : Nat) : Enc :=
  ⟨halfword line k, lineTail line k 0, lineTail line k 1, lineTail line k 2⟩

/-- A line that holds one instruction as its head 1, with its tails (R38, R40). -/
def lineOf (e : Enc) : List (BitVec 8) :=
  let bytes (w : BitVec 16) : List (BitVec 8) := [low 8 w, top 8 8 w]
  let ts := match e.fTl.toNat with
    | 0 => [0, 0, 0]
    | 1 => [0, 0, e.t1]
    | 2 => [0, e.t2, e.t1]
    | _ => [e.t3, e.t2, e.t1]
  (bytes 1 ++ bytes e.head) ++ List.replicate 54 0 ++ ts.flatMap bytes

/-- The head and tails of an instruction in a table word of `nbits` bits: the head in its top 16 bits, then T1, T2 and T3. -/
def tableEnc (nbits w : Nat) : Enc :=
  let z := BitVec.ofNat 64 (w <<< (64 - nbits))
  ⟨top 16 48 z, top 16 32 z, top 16 16 z, low 16 z⟩

/-- The instruction the decoder reads from a table word; the tails a word does not give are zero. -/
def decodeTableWord (nbits w : Nat) : Option Instr :=
  match decode (tableEnc nbits w) with
  | .ok i => some i
  | .error _ => none

end Sys2Proof
end

