-- ==== Sys2Proof/Machine/State.lean ====
section
/-!
DEFINITION. The machine's state, as plain data: every piece of state the spec gives the module, the model's own fields (the
schedule, the current slot, the free-value counter), the reasons a step can stop, and the state after reset.
-/

namespace Sys2Proof.Machine

/-- A sparse table by number; a number that is not listed has the table's default. -/
abbrev AMap (α : Type) := List (Nat × α)

/-- A memory: (address, byte) pairs with strictly rising addresses and no byte 0, since an unlisted byte reads as 0. -/
abbrev Memory := List Host.Cell

/-- R33: the privilege levels. -/
inductive Level where
  | u  -- user
  | s  -- supervisor
  | m  -- machine
deriving DecidableEq, Repr

/-- R366: the trap codes 0x01 to 0x12, in order. -/
inductive TrapCode where
  | illegalOp
  | illegalLen
  | illegalLine
  | badPc
  | privilege
  | portRights
  | misalign
  | translation
  | protection
  | poison
  | feTimeout
  | coproc
  | tokenUnderflow
  | purity
  | deadlock
  | trapInsn
  | sstep
  | cancelled
deriving DecidableEq, Repr

/-- A trap about to be taken: its code and what its record holds (R367). -/
structure Trap where
  code : TrapCode
  pc : Word            -- PC of the faulting instruction
  addr : Word := 0     -- ADDR
  seq : Nat := 0       -- SEQ
  ops : Word := 0      -- OPS
  late : Bool := false
  epc : Word           -- the resume PC (R369)
  task : Word := 0     -- TASK of the trapping task
deriving DecidableEq, Repr

/-- R63: the states of a slot. -/
inductive SlotSt where
  | idle
  | ready
  | stall
  | waiting
  | parked
  | drain
  | stopped
deriving DecidableEq, Repr

/-- A destination register bound at issue (R204): x24 to x31 name SX0 to SX7 in an interrupt handler. -/
inductive Dst where
  | x (n : BitVec 5)
  | y (n : BitVec 5)
  | sx (n : BitVec 3)
deriving DecidableEq, Repr

/-- R89: what a parked slot waits for. -/
inductive Park where
  | none
  | park
  | wfm
  | feFull (va : Word)
  | feEmpty (va : Word)
  | bar (g : BitVec 2) (gid : BitVec 8) (d : Dst)   -- `d` is written at completion
  | pop (port : Nat)
  | push (port : Nat)
deriving DecidableEq, Repr

/-- How a task ended, while its slot is in DRAIN (R63, R76, R368). -/
inductive Exit where
  | none
  | halt
  | fault (c : TrapCode)
  | cancelled
deriving DecidableEq, Repr

/-- R244: the operations of the atomics. -/
inductive AtomOp where
  | add | and | or | xor | min | max | minn | maxn | swp
deriving DecidableEq, Repr

/-- What an outstanding access does when it is performed. -/
inductive AccKind where
  | load (d : Dst) (sx : Bool)                                  -- LD, LDS, LDX, LDACQ
  | vload (vd : BitVec 4)                                       -- VLD, VLDX in short mode
  | store (data : List Byte)                                    -- ST, STX, STREL, VST, VSTX in short mode
  | nibble (hi : Bool) (v : BitVec 4)                           -- STN
  | rmw (op : AtomOp) (d : Dst) (b : Word)                      -- AADD to ASWP
  | cas (d b : Dst) (exp new : Nat)                             -- ACAS
  | cas2 (d b : Dst) (exp new : Nat)                            -- ACAS2
  | ldf (d : Dst) (empties : Bool)                              -- LDF, LDFE
  | stf (v : Word)                                              -- STF
  | feset (full : Bool)                                         -- FESET
  | feget (d : Dst)                                             -- FEGET
  | stashwb                                                     -- STASHWB
deriving DecidableEq, Repr

/-- Where the bytes of an access lie (R160). -/
inductive Place where
  | ownLm      -- the own core's local memory, or a present stash line
  | otherLm    -- another core's local memory
  | dev        -- device memory
  | hostC      -- host memory over CXL.cache (TGT 1)
  | hostP      -- host memory over PCI Express (TGT 2)
deriving DecidableEq, Repr

/-- A piece of an access: at most 8 bytes, ordered on its own (R225); the 16 bytes of ACAS2 are one piece. -/
structure Piece where
  pa : Nat                   -- the physical address of its first byte
  n : Nat
  va : Word
  place : Place
  cached : Bool              -- a page of device memory with C = 1: the cache-role banks may hold it (R152)
  ver : Bool                 -- a VER page (R310)
  stash : Option (Nat × Nat) -- through the own core's mapped stash bank: the bank, and the piece's offset in it (R153)
deriving DecidableEq, Repr

/-- An access that a slot has issued and that is not yet performed (R86, R160). -/
structure Access where
  id : Nat
  kind : AccKind
  parts : List Piece         -- in order
  left : List Nat            -- the pieces not yet performed, by number
  got : List (List Byte)     -- the bytes of the pieces of a read, by number (empty until performed)
  va : Word                  -- the effective address
  home : Bool                -- one step at the home, after a recall of held copies (R162, R244)
  write : Bool               -- it writes its bytes
  word : Nat                 -- the local-memory word of a full/empty access
  hint : Hint
  scopeS : Bool              -- ACAS or ACAS2 at scope .s
  hold : Bool                -- the slot issues nothing until the access is performed
  pc : Word
  issued : Nat               -- the core cycle in which it issued
  queued : Bool              -- a full/empty access waiting at its word
  leaving : Bool             -- a queued access whose withdrawal is on its way to the home (R156)
deriving DecidableEq, Repr

/-- Why a slot in STALL waits for a happening before its head can be tried again (R63). -/
inductive Req where
  | walk (va : Word) (acc : Nat) (root : Word)   -- a page walk begun with this PTBASE (acc: 0 read, 1 write, 2 execute, 3 both)
  | line (pa : Nat) (cached llc : Bool)    -- an instruction line that missed the line buffer (R49); whether banks (R152) and LLC hold it
  | stash (bank off acc : Nat)             -- the stash line of a byte of a bank (R153)
  | own (pa : Nat) (stash : Option (Nat × Nat))   -- ownership of a line of the cache role, or of a byte's stash line (R152, R153)
  | granule (pa : Nat)                     -- the copy of a VER granule (R154)
deriving DecidableEq, Repr

/-- A trap that the walk or fill a slot waited for has found, taken when its head is tried again. -/
structure Found where
  req : Req
  code : TrapCode
  addr : Word
  ops : Word
deriving DecidableEq, Repr

/-- What a STALL after issue waits for (R242, R382 and the waits that hold the slot). -/
inductive Hold where
  | none
  | access (id : Nat)   -- the access is performed
  | reply (d : Dst)     -- an instruction that holds the slot until its X[D] is written
  | scan                -- DLCHK
  | insert (id : Nat) (d : Dst)   -- RUPUT, until its insert is done (R295)
  | evdone              -- EVDONE, in WAITING: the head issues again when the counters are zero
  | mgmt                -- trapped at M: the management controller acts (R416)
deriving DecidableEq, Repr

/-- What a slot in a vector latch does once its instruction has its pipe (R127). -/
structure VResult where
  until_ : Nat                    -- the last busy core cycle
  vw : Option (BitVec 4 × BitVec 256)
  lanes : BitVec 256              -- the bits of that register that the result writes: its other lanes keep their values (R126, R138)
  xw : Option (Dst × Word)
  nans : Nat                      -- added to NANCNT
deriving DecidableEq, Repr

/-- The vector latch of a slot (R67, R127, R129). -/
structure Latch where
  instr : Instr
  xa : Word                       -- the values of the x registers it names, taken at issue
  xb : Word
  mask : BitVec 16
  vctl : BitVec 16
  dst : Dst                       -- the destination of VMOVX, bound at issue (R204)
  draws : List (BitVec 32)        -- the stochastic draws made at issue (R116)
  pc : Word
  seq : Nat                       -- coprocessor ring entry, in long mode
  long : Bool
  issued : Nat
  sent : Bool                     -- a long-mode VMOVX whose command has left for the queue (R129)
  res : Option VResult            -- the result, once the pipe is granted
deriving DecidableEq, Repr

/-- A mailbox message (R22, R197). -/
structure Msg where
  w0 : Word
  w1 : Word
deriving DecidableEq, Repr

/-- A raised late trap (R371): POISON of a counted load, a fault found when an access was performed, or COPROC. -/
inductive Late where
  | poison (pc addr : Word) (exact : Bool)    -- `exact`: the load performed before the slot's next turn (R157)
  | access (code : TrapCode) (pc addr ops : Word)
  | coproc (entry : Nat) (order : Nat) (task pc : Word) (addr ops : Word)   -- coprocessor ring
  | engine (order : Nat) (task pc : Word) (addr ops : Word)                 -- copy engine (SEQ 64)
  | deadlock (blk : Word)
deriving DecidableEq, Repr

/-- R283: one allowed region of a pure task. -/
structure Region where
  base : Nat
  bytes : Nat
  write : Bool
  list : Bool      -- the descriptor list itself, which a TBLD may not read (R186)
deriving DecidableEq, Repr

/-- R30: the event that owns a launch or a graph: the agent and the event's entry number in its queue. -/
structure Owner where
  agent : Nat
  entry : Nat
deriving DecidableEq, Repr

/-- What a slot knows of its task from dispatch on (R20, R87, R88). -/
structure TaskInfo where
  task : Word                 -- TASK
  ntask : Word                -- NTASK
  part : Nat                  -- PART
  tenant : BitVec 16          -- TENANT
  grp : Word                  -- GRP
  kfa : BitVec 16
  kfb : BitVec 16
  kfo : BitVec 16
  ksa : Word
  ksb : Word
  dtuse : BitVec 2            -- DTUSE
  launch : Option Nat         -- the launch the task belongs to; none for wake-up, communication and handler tasks
  pure : Bool                 -- pure mode (R283)
  regions : List Region       -- the allowed regions of a pure task
  evt : Option Nat            -- the open event (R309): its entry number in the agent's queue
  agent : Nat                 -- the agent of the open event
  owner : Option Owner        -- the event that owns the task's launch, and with it the graphs that the task starts (R30)
deriving DecidableEq, Repr

/-- The private register files (R80), with the shadow registers SX0 to SX7 (R203). -/
structure Regs where
  x : Vector Word 32
  v : Vector (BitVec 256) 16
  m : Vector (BitVec 16) 8
  sx : Vector Word 8
deriving DecidableEq, Repr

/-- The control registers of a slot that instructions write (R87 and the chapters' maps). -/
structure Ctl where
  fewait : Word
  nancnt : BitVec 32
  vctl : BitVec 16            -- VCTL bits 15:0
  uictl : BitVec 2            -- EN, IN
  uivec : Word
  uipc : Word
  epc : Word
  est : BitVec 4              -- DLG, INH, PLV
  dbgSs : Bool                -- DBG.SS
  utvec : Word
  dlcnt : BitVec 32
deriving DecidableEq, Repr

/-- R86: the counters of outstanding operations. -/
structure Counters where
  ld : Nat
  st : Nat
  cp : Nat
  tl : Nat
deriving DecidableEq, Repr

/-- R290, R295: the copy that a hit makes, in progress: the entry, its result, and where it goes. -/
structure PewCopy where
  key : BitVec 128
  entry : Nat          -- the entry that the probe matched
  raddr : Word
  part : Nat           -- the partition of the entry
  rdig : BitVec 128
  dst : Word
  bytes : Nat
  off : Nat            -- bytes copied
  block : Word         -- RULOOK's lookup block
deriving DecidableEq, Repr

/-- An issue slot (R30, R63, R80, R86). -/
structure Slot where
  st : SlotSt
  pc : Word
  npc : Word                  -- the next PC (R43) of the head at `pc`, found when it was fetched
  lv : Level
  line : Option (List Byte)   -- the private copy of the instruction line (R46); none: the line is to be entered
  from_ : Word                -- R60: the ADDR of a fault met on entering the line
  via : Option Word           -- R73: the PC of the branch whose target in its own line is the head at `pc`
  task : TaskInfo
  regs : Regs
  ctl : Ctl
  cnt : Counters
  wp : Bool                   -- R77
  park : Park
  parkedAt : Nat              -- the core cycle in which the slot parked, moved by stopped time (R156)
  feLimit : Word              -- the FEWAIT value the wait began with (R156)
  waitFor : Counters          -- the limits of the WAIT in progress (R166)
  exit : Exit
  pend : List Access          -- accesses not yet performed, in program order
  late : List Late            -- raised late traps, in the order they were raised
  hold : Hold
  req : Option Req
  found : Option Found
  latch : Option Latch
  vbusy : Nat                 -- long-mode commands outstanding (VBUSY is bit 0: not zero)
  mbox : List Msg             -- the mailbox, oldest first (R197)
  mboxRsv : Nat               -- reserved mailbox entries
  trap : Vector Word 8        -- the trap record (R367)
  dutyCode : BitVec 2         -- the duty code in effect (R66)
  intake : List Nat           -- event intake of a handler slot (R83, R307): entry numbers, oldest first
  rukey : Option (BitVec 128 × Word)   -- RUKEY: the key and the block of the last RULOOK miss (R295)
  look : Option PewCopy       -- a RULOOK that has issued and copies its hit's result (R295)
  saved : SlotSt              -- the state a STOPPED slot resumes in
  barAt : Option Nat          -- the core cycle in which a completed barrier's release reaches the slot (R258)
  freeAt : Nat                -- the core cycle of the first turn after the slot's last task retired (R32)
  step : Option (Nat × Word)  -- R372: SSTEP waits for the outcome of a counted read: the core cycle of its issue, and its PC
deriving DecidableEq, Repr

/-- A leaf of the page tables as a TLB holds it (R215, R218). -/
structure Leaf where
  pbase : Nat        -- physical base of the page
  tgt : Nat          -- 0 device, 1 host over CXL.cache, 2 host over PCI Express
  level : Nat        -- 3 or 4
  sealed_ : Bool
  ver : Bool
  c : Bool
  u : Bool
  x : Bool
  w : Bool
  r : Bool
  scnt : Nat
deriving DecidableEq, Repr

/-- A TLB entry (R218): tagged by partition. -/
structure Tlb where
  part : Nat
  vbase : Nat
  size : Nat
  leaf : Leaf
deriving DecidableEq, Repr

/-- R152: a line of the cache role (128 bytes). Its bytes are those of memory, which holds the newest bytes of every line (see `Mem`);
`owned` means that the directory has granted the core ownership, `dirty` that the core has written it since. -/
structure CLine where
  pa : Nat           -- line address
  bank : Nat         -- the way
  dirty : Bool
  owned : Bool
deriving DecidableEq, Repr

/-- R153: the mapping of a stash bank. A line that is not listed is INVALID; a listed one has its device line address, whether the core
owns it, and whether it is DIRTY. The line and its device address are one location, so its bytes are those of memory (see `Mem`). -/
structure StashBank where
  base : Word        -- 0: unmapped
  hint : Hint
  lines : AMap (Nat × Bool × Bool)   -- line number: device line address, owned, dirty
deriving DecidableEq, Repr

/-- R131: an entry of the coprocessor ring. -/
structure RingEntry where
  slot : Nat
  task : Word
  pc : Word
  busy : Bool        -- its operation is not complete
  fault : Bool       -- a COPROC is pending
  order : Nat        -- issue order
  mat : Bool         -- a matrix operation's
deriving DecidableEq, Repr

/-- A long-mode command in a window's queue (R129). -/
structure LvCmd where
  slot : Nat
  cmd : Latch
deriving DecidableEq, Repr

/-- R128: a long-vector window. -/
structure LvWin where
  holder : Option Nat                  -- slot
  regs : Vector (BitVec 2048) 16
  queue : List LvCmd
deriving DecidableEq, Repr

/-- The long-vector unit's running command (R130). -/
structure LvRun where
  win : Nat
  cmd : LvCmd
  until_ : Nat                         -- the core cycle at whose end it completes
  src : List (BitVec 2048)             -- the registers it names, read when it started (R130)
  dead : Bool                          -- its task was cancelled: it writes nothing (R148)
deriving DecidableEq, Repr

/-- R210: the class of an LLC line. -/
inductive LlcClass where
  | ef | normal | keep | pinned
deriving DecidableEq, Repr

/-- R210: a data line the LLC holds. -/
structure LlcLine where
  pa : Nat           -- line address (device, or host memory held under CXL.cache)
  cls : LlcClass
  tenant : BitVec 16
  dirty : Bool
deriving DecidableEq, Repr

/-- R213: a pin window. -/
structure PinWin where
  base : Nat
  pages : Nat
  stackMask : Nat
  sliceMask : Nat
  charge : Nat             -- KiB
  phys : List Nat          -- the 64 KiB physical pages it pins
deriving DecidableEq, Repr

/-- R239: the bias of a 64 KiB device page. -/
inductive Bias where
  | device | toHost | host | toDevice
deriving DecidableEq, Repr

/-- A decoded tile (R172, R178): the format word, the elements as E8M10 values with bit 19 set for NaN, the stored block scales,
and the tensor scale. -/
structure Tile where
  fw : BitVec 16
  elems : List (BitVec 20)
  scales : List (BitVec 12)
  sk3 : BitVec 32
deriving DecidableEq, Repr

/-- A matrix operation in a command queue or running (R168): the instruction, the values of its A, B and C registers as they stood
in its issue cycle, and what it knows of its task. -/
structure MatOp where
  slot : Nat
  seq : Nat
  pc : Word
  instr : Instr
  a : Word
  b : Word
  c : Word
  ti : TaskInfo
  lv : Level
  epoch : Nat        -- releases of its latch that issued before it (R170)
  order : Nat        -- issue order in the octet
  issued : Nat       -- the core cycle in which it issued
deriving DecidableEq, Repr

/-- A started matrix operation. -/
structure MatRun where
  op : MatOp
  until_ : Nat             -- the core cycle at whose end it ends
  tile : Option Tile       -- the A tile a TMMA read, or the B tile a TBLD loads
  btile : Option Tile      -- the B tile a TMMA reads
  sent : Bool              -- a TDRAIN whose rows are written and whose message is on its way
  quiet : Bool             -- its task was cancelled: no flag word and no message (R187)
  fault : Option (TrapCode × Word)   -- the fault that it met: the code, and the address
  sk3 : BitVec 32          -- the tensor scale that a TBLD read when it started (R172)
  rows : Nat               -- the rows that a TDRAIN has written
deriving DecidableEq, Repr

/-- The matrix state of a core. -/
structure MatCore where
  queue : List MatOp               -- the command queue (16), oldest first
  run : Option MatRun              -- its TMMA, TZERO or TDRAIN that has started
  acc : AMap (BitVec 32)           -- the accumulator tile: entry 256 * row + column
  nanRows : BitVec 128             -- the NaN row bits (R174)
  weight : BitVec 4                -- R169
  leftAt : Nat                     -- the last core cycle in which operations started, and how many: their places come free after it (R62)
  leftN : Nat
deriving DecidableEq, Repr

/-- R170: the states of a B latch. -/
inductive LatchSt where
  | empty | loading | full | sending
deriving DecidableEq, Repr

/-- A B latch with its incoming buffer (R170). -/
structure BLatch where
  st : LatchSt
  tile : Option Tile
  inc : Option Tile                -- the incoming buffer
  issued : Nat                     -- releases issued
  done : Nat                       -- releases performed
  run : Option (Nat × MatRun)      -- the TBLD or TBPASS that has started, with its core
deriving DecidableEq, Repr

/-- The matrix unit of an octet. -/
structure MatOctet where
  l0 : BLatch
  l1 : BLatch
  cur : Nat                        -- R169
  used : Nat
  free : Nat                       -- the first core cycle in which the array is free
  count : Nat                      -- matrix operations issued, for issue order
deriving DecidableEq, Repr

/-- What a FIFO entry asks for (R188, R205, R221). -/
inductive CopyWhat where
  | words                            -- CPY or CPYT
  | tokacc (desc draft : Word)       -- TOKACC: the descriptor's address, X[B]
  | pft (desc : Word) (hint : Hint)  -- PFT: the descriptor's address
deriving DecidableEq, Repr

/-- A copy-engine request in a command FIFO (R188). -/
structure CopyReq where
  slot : Nat
  pc : Word
  ti : TaskInfo
  lv : Level
  what : CopyWhat
  w0 : Word
  w1 : Word
  w2 : Word
  w3 : Word
  u1 : BitVec 32       -- the draws made at issue (R195, R196, R205)
  u2 : BitVec 32
  order : Nat          -- numbers accesses and requests, in issue order (R191, R192)
  issued : Nat         -- the core cycle in which it issued
  dead : Bool          -- its task was cancelled (R207)
deriving DecidableEq, Repr

/-- A request in flight (R191): what its completion reports. -/
structure CopyRun where
  core : Nat
  req : CopyReq
  status : BitVec 8
  tag : BitVec 32
  extra : BitVec 2                               -- bits 17:16 of message word 0 (R205)
  word1 : Word
  wrote : Word := 0                              -- bytes written (R193)
  flag : Option Word                             -- the flag word's address, where one is to be written
  fault : Option (TrapCode × Word)               -- a fault not yet met (R193)
deriving DecidableEq, Repr

structure CopyCore where
  fifo : List CopyReq            -- the command FIFO (8), oldest first
deriving DecidableEq, Repr

structure CopyOctet where
  flight : List CopyRun          -- at most 8, in start order
  last : Nat                     -- the core last served (R191)
  started : Nat                  -- the arithmetic cycle of the last start, plus 1
deriving DecidableEq, Repr

/-- A work packet in a queue's FIFO (R247, R250). -/
structure Packet where
  bytes : List Byte            -- 128 bytes
  bad : List Nat               -- the 8-byte words read with poison
  failed : Bool                -- its read from the ring failed translation or protection (R253)
  tenant : BitVec 16           -- the tenant a device-queue launch carries (R254)
  owner : Option Owner         -- the event that owns it
  node : Option (Nat × Nat × Nat)   -- the graph's launch number, the graph's header and the node, for a packet Skink submitted (R270)
  from_ : Option Nat           -- the slot that enqueued it, for QFENCE (R263)
  impure : Bool                -- a launch placed again after PURITY (R284)
  arrived : Bool               -- R251
  gone : Bool                  -- the event that owns it is rolled back (R267)
deriving DecidableEq, Repr

/-- A queue: its configuration (R248), indices (R249), FIFO (R250) and pass (R252). -/
structure Queue where
  part : Nat
  tenant : BitVec 16
  tickets : Nat
  en : Bool
  sv : Bool
  df : Bool
  tw : Bool
  ring : Word
  rsz : Nat
  heada : Word
  taila : Word
  head : BitVec 32             -- packets read from the ring so far
  tail : BitVec 32             -- the tail index (host-fed: as seen; device-fed: packets written to the ring)
  watch : Option Nat           -- the physical address of the watched tail word, as it last translated (R249)
  qerr : Bool
  pass : BitVec 40
  buf : List Packet            -- the head buffer, oldest first
  spill : List Packet          -- device-fed: the packets in the ring, oldest first
deriving DecidableEq, Repr

/-- A dispatched launch that is not complete (R254, R256). -/
structure Launch where
  queue : Nat
  part : Nat
  tenant : BitVec 16
  lv : Level
  pkt : Packet
  n : Nat
  placed : Nat                 -- tasks placed on slots so far
  live : Nat                   -- tasks placed and not retired
  halted : Nat
  fault : Option (Nat × Nat × BitVec 8)   -- core cycle, TASK and trap code of the first task to fault out
  cancelled : Bool
  groups : List Nat            -- the group table entries it holds
  purity : Bool                -- a task of it broke purity (R284): the launch is placed again
deriving DecidableEq, Repr

/-- A group table entry (R258, R259). -/
structure Group where
  m : Nat
  a : Nat
  launch : Option Nat          -- the launch that holds the entry
deriving DecidableEq, Repr

/-- A wake-up message on its way (R181, R37). -/
structure WakeMsg where
  target : Nat                 -- core
  pc : Option Word             -- the code line of `.w`
  dst : Word                   -- x1 of the new task
  sender : Nat                 -- SELF of the sender
  ti : TaskInfo
  core : Nat                   -- the core whose TDRAIN it closes
  dead : Bool                  -- the sending task was cancelled (R37, R187)
deriving DecidableEq, Repr

/-- A code line waiting in a wake queue. -/
structure WakeLine where
  pc : Word
  x1 : Word
  x2 : Word
  ti : TaskInfo
deriving DecidableEq, Repr

/-- R269: the states of a node, 0 to 8. -/
inductive NodeSt where
  | wait | ready | run | done | fault | cancel | void | retry | reused
deriving DecidableEq, Repr

/-- Skink's own copy of a node (R268, R273): word 0 and the WAVE and KEY fields. -/
structure GNode where
  expected : Nat
  pending : Nat
  fcode : BitVec 8
  retries : Nat
  sent : Bool
  root : Bool
  retryable : Bool
  pure : Bool
  st : NodeSt
  wave : BitVec 32
  key : BitVec 128
  lookup : Bool               -- Pewter has been asked and has not answered
  copy : Option PewCopy       -- the copy that its lookup's hit makes (R290)
  missed : Bool               -- its lookup missed, so that its result is inserted when it is DONE (R292)
deriving DecidableEq, Repr

/-- A happening held while its graph is frozen (R271). -/
inductive HeldEv where
  | token (n : Nat)
  | completion (n : Nat) (st : BitVec 8)
deriving DecidableEq, Repr

/-- R272: the statuses of a graph, 0 to 5. -/
inductive GStatus where
  | idle | running | wave | retrying | done | failed
deriving DecidableEq, Repr

/-- The wave that runs in a graph (R275, R278). -/
structure Wave where
  origin : Option Nat         -- none for a rollback wave
  level : List Nat            -- the nodes of the level to be processed, ascending
  cone : List Nat             -- the nodes reached so far
  listFault : Option (BitVec 8)   -- a successor list failed (R417)
  rollback : Bool
deriving DecidableEq, Repr

/-- A graph whose run Skink keeps (R272, R273). -/
structure Graph where
  part : Nat
  hdr : Word                  -- header address
  hpa : Nat                   -- its physical address
  nodes : Word
  count : Nat
  tenant : BitVec 16
  fcode : BitVec 8
  status : GStatus
  cwa : Word
  ctag : BitVec 32
  cursor : BitVec 32
  waves : BitVec 32
  ns : List GNode
  wave : Option Wave          -- the wave in progress
  cone : List Nat             -- the cone to be re-armed (RETRYING)
  held : List HeldEv          -- in arrival order
  owner : Option Owner
deriving DecidableEq, Repr

/-- A token on its way to a node (R271): named by header, or by the graph's run for the tokens Skink sends. -/
structure Token where
  hpa : Nat
  node : Nat
deriving DecidableEq, Repr

/-- A node launch's report on its way to Skink (R270). -/
structure NodeDone where
  graph : Nat
  node : Nat
  st : BitVec 8
  launch : Nat
deriving DecidableEq, Repr

/-- R288: a valid reuse entry. -/
structure PewEntry where
  id : Nat                    -- model's own: numbers the inserts
  key : BitVec 128
  raddr : Word
  part : Nat
  tenant : BitVec 16
  rbytes : Nat
  rdig : BitVec 128
  last : Nat
  hits : Nat
  pages : List Nat            -- the physical 64 KiB pages it watches
deriving DecidableEq, Repr

/-- R284, R289, R297: what Pewter keeps per tenant. -/
structure PewTenant where
  quota : Nat                 -- units of 4,096 entries
  demoted : List (BitVec 128) -- the demoted set, oldest first
  lookups : Nat
  hits : Nat
  inserts : Nat
  invalidated : Nat
  skipped : Nat
deriving DecidableEq, Repr

/-- An insert in progress after a node completed (R292 steps 3 and 4). -/
structure PewInsert where
  key : BitVec 128
  tenant : BitVec 16
  part : Nat
  raddr : Word
  rbytes : Nat
  pages : List Nat
  spoiled : Bool              -- a watched write or a TLBINV reached the region since step 1
deriving DecidableEq, Repr

/-- The Pewter instance of a stack. -/
structure PewStack where
  entries : List PewEntry
deriving DecidableEq, Repr

/-- R304: an event message. -/
structure EvMsg where
  ts : Word
  sel : BitVec 32
  ext : Bool
  col : Bool
  sign : Bool                 -- an anti-message
  rcv : Nat
  seq : Nat
  snd : Nat
  stime : Word
  pay : List Byte             -- 32 bytes
deriving DecidableEq, Repr

/-- R315: an output log entry, with its place in the log. -/
inductive LogEntry where
  | send (at_ : Nat) (m : EvMsg)
  | irrev (at_ : Nat) (ts : Word) (idx ring ag : Nat) (pay : List Byte)
deriving DecidableEq, Repr

/-- A granule copy in the rollback pool (R310): the physical granule, its old contents, and those of its words that were poisoned (R157). A
store's copy has its unit before the store is performed and takes the contents that the store is performed on (R154). -/
structure Granule where
  pa : Nat
  taken : Bool
  old : List Byte
  bad : List Nat             -- offsets, ascending
deriving DecidableEq, Repr

/-- Where an event in an agent's input queue stands. -/
inductive EvSt where
  | unprocessed
  | placed (slot : Nat)       -- in a handler slot's intake (R307)
  | opened (slot : Nat)
  | processed
  | anti                      -- an anti-message waiting for its positive (R313)
deriving DecidableEq, Repr

/-- An event in an agent's input queue, with its checkpoint record, granule copies and output-log entries. -/
structure NEvent where
  num : Nat                   -- entry number
  place : Nat                 -- its place in the input queue
  msg : EvMsg
  st : EvSt
  lvt0 : Word                 -- LVT at its start
  ccur0 : Nat                 -- CCUR at its start
  copies : List Granule       -- in the order they were made
  log : List LogEntry         -- in log order
  faulted : Bool
deriving DecidableEq, Repr

/-- R303: agent states 1 to 4. -/
inductive AgentSt where
  | idle | ready | opened | rollback
deriving DecidableEq, Repr

/-- A rollback in progress (R312, R324): the boundary's triple and the positives that are to be removed. -/
structure Rollback where
  ts : Word
  snd : Nat
  seq : Nat
  remove : List (Word × Nat × Nat)
  forced : Bool
deriving DecidableEq, Repr

/-- An agent: its context record (R301), input queue and rollback state. -/
structure Agent where
  lvt : Word
  lastf : BitVec 8
  flt : Bool
  st : AgentSt
  home : Nat
  htab : Word
  sbase : Word
  sbytes : Word
  cbase : Word
  ccur : Nat
  ccom : Nat
  eq : Nat
  ol : Nat
  nproc : Word
  nanti : Nat
  nroll : Nat
  tenant : BitVec 16
  olcap : Nat
  eqcap : Nat
  nseq : Nat
  ccap : Nat
  events : List NEvent        -- uncommitted events and waiting anti-messages, in event order
  owed : Nat                  -- output-log places of committed records not yet delivered (R333, R336)
  rb : Option Rollback
deriving DecidableEq, Repr

/-- An event message or anti-message in transit, or held at the sending stack for a full queue. -/
structure NMsg where
  part : Nat
  stack : Nat                 -- the sending stack
  msg : EvMsg
  held : Bool
deriving DecidableEq, Repr

/-- R325, R326, R327: the Newt unit of a stack, for one partition. -/
structure NewtPS where
  colour : Bool
  sent0 : Nat
  sent1 : Nat
  recv0 : Nat
  recv1 : Nat
  redMin : Word
  cut : Bool                  -- START of the running round has reached it
  cutAt : Nat                 -- the core cycle of the cut, and of each report after it
  report : Option (Int × Word)   -- its report for the current pass
deriving DecidableEq, Repr

/-- R334 to R337: a delivery ring. -/
structure Ring where
  en : Bool
  home : Nat
  base : Word
  rsz : Nat
  pidxa : Word
  cidxa : Word
  statwa : Word
  p : BitVec 32
  cidx : BitVec 32            -- CIDX as last read
  nstall : Nat
  ndel : BitVec 32
  stall : Bool
  pollAt : Nat                -- the core cycle of the next read of CIDXA while stalled
  recs : List ((Word × Nat × Nat) × LogEntry)   -- committed records not yet delivered, each with its event's triple, in order
deriving DecidableEq, Repr

/-- The Newt state of a partition. -/
structure NewtPart where
  store : Nat                 -- base of the Newt store
  size : Nat
  cap : Nat
  pool : Nat                  -- pool units
  next : Nat                  -- AGCNT.NEXT
  free : Nat                  -- first free offset for queues and logs (R419)
  agents : AMap Agent
  nextEntry : Nat             -- model's own: numbers the events
  extCount : Nat              -- the partition's external count (R319)
  w0 : Word
  w : Word
  gvt : Word
  round : BitVec 32
  act : Bool
  pend : Bool
  pwait : List (Nat × Nat)    -- the accesses that wait for a pool unit, by the agent and entry of their event (R339)
  told : Bool                 -- the host has been interrupted for the full pool (R339)
  period : Nat
  timerAt : Nat               -- the core cycle in which the timer fires
  ps : AMap NewtPS            -- by stack
  commitM : AMap (List Nat)   -- stacks that have a commit to do: the entry numbers of the events processed at the close, below M (R328)
  rings : AMap Ring
  domain : List (Nat × Nat)   -- (module, partition) members of its GVT domain (R329)
  root : Nat
deriving DecidableEq, Repr


/-- R347: an endpoint of a port set. -/
structure Endpoint where
  loc : Bool
  mod : Nat
  port : Nat
  core : Nat
deriving DecidableEq, Repr

/-- R346: a stream entry of a stack. -/
structure StreamEntry where
  part : Nat
  core : Nat                       -- the core that installed it
  port : Option Nat                -- the port bound to it
  sets : List (List Endpoint)
  j : Nat
  coll : Bool                      -- held by a collective
  disc : Nat
  words : BitVec 32
deriving DecidableEq, Repr

/-- What an outlet holds (R346, R350). -/
inductive OutItem where
  | word (w : Word)
  | hold (slot : Nat)              -- the place of a word that a vector instruction of this slot has still to produce (R83, R85)
  | marker
deriving DecidableEq, Repr

/-- A collective descriptor accepted at a core (R356, R363). -/
structure CollPost where
  slot : Nat
  desc : List Word                 -- its 8 words
  ti : TaskInfo
  lv : Level
  pc : Word
  launch : Option (Option Nat)     -- the launch of the group entry; none where the entry was not in use
  seq : Nat                        -- the how-manieth COLL of this core on the group (R357)
  issued : Nat                     -- the core cycle in which it issued
  dead : Bool                      -- the task was cancelled: no message (R365)
deriving DecidableEq, Repr

/-- The network state of a core. -/
structure NetCore where
  intake : Vector (List Word) 3    -- y28 to y30 (R83), oldest first
  outlet : Vector (List OutItem) 3
  outAt : Vector Nat 3             -- the core cycle in which a word last entered the outlet (R348)
  bound : AMap Nat                 -- port: stream number
  cpc : Word                       -- PC of CPC (R352)
  coll : List CollPost             -- the collective intake (4)
  collSeq : AMap (Option Nat × Nat)   -- COLLs issued per group, since the entry was filled by this launch (R357)
deriving DecidableEq, Repr

/-- A mesh flit in transit (R342, R348): the headers of its copies, one for each endpoint on this module, and the modules of the others. -/
structure Flit where
  part : Nat
  core : Nat                       -- the core that the words come from
  stack : Nat
  stream : Nat
  heads : List Word
  far : List Nat
  words : List Word
  due : Nat                        -- the core cycle before which it is on its hops
  ejected : Bool                   -- saved by a gang switch
deriving DecidableEq, Repr

/-- What a Frerrayx flit carries (R343). -/
structure LinkMsg where
  cls : Nat
  stream : Nat
  dmod : Nat
  smod : Nat
  pay : List Word
deriving DecidableEq, Repr

/-- R343 to R345, R364: a Frerrayx port. -/
structure FPort where
  up : Bool
  lanes : Nat
  rpl : Nat
  flits : BitVec 32
  txSeq : BitVec 16                -- the SEQ of the next flit
  rxSeq : BitVec 16                -- the SEQ expected next
  fails : Nat                      -- consecutive failed replays
  asked : Bool                     -- a replay has been asked for and has not come
  cred : Vector Nat 4              -- credits that the port holds, per class
  owed : Vector Nat 4              -- credits to be returned to the peer, per class
  odd : Bool                       -- class 1 is the next served of classes 0 and 1
  queue : List LinkMsg             -- what waits to be sent, oldest first
  sent : List (BitVec 1024)        -- the replay buffer (64), oldest first
deriving DecidableEq, Repr

/-- A member of a running collective, in rank order. -/
structure CollMember where
  mod : Nat                        -- its module
  post : Option CollPost           -- its descriptor; none for a member on another module
  status : BitVec 8
  wrote : Nat                      -- bytes of RECV written so far
  done : Bool
deriving DecidableEq, Repr

/-- A chunk (at most 4 KiB) that a running collective has still to write into RECV of rank `dst`: its address, the bytes, with their poison,
of the ranks that it combines, and the ranks whose SEND it needs. -/
structure Chunk where
  coll : Nat
  dst : Nat
  va : Word
  parts : List (List (Byte × Bool))   -- in rank order
  plan : List Nat                  -- the order in which DET = 0 combines them (R359)
  piece : Nat                      -- the place of the chunk among those of all blocks: those of one place share a plan
  srcs : List Nat
  back : Bool                      -- on the second of the two streams (R360)
deriving DecidableEq, Repr

/-- A chunk of a collective that has not started (R360): bytes of the SEND of core `src` on their way to core `dst`; once they have come, in the
early-arrival area or with their member. -/
structure EarlyChunk where
  part : Nat
  group : Nat
  launch : Option (Option Nat)
  seq : Nat
  src : Nat
  dst : Nat
  off : Nat                        -- where they begin in SEND
  len : Nat
  data : Option (List (Byte × Bool))
deriving DecidableEq, Repr

/-- A collective that the sequencer has started (R357). -/
structure Coll where
  part : Nat
  group : Nat
  held : Option Nat                -- the first of the two streams it holds
  stream : Nat                     -- STREAM
  det : Bool                       -- DET
  members : List CollMember
deriving DecidableEq, Repr

/-- The network state of a stack. -/
structure NetStack where
  streams : AMap StreamEntry
deriving DecidableEq, Repr

/-- R377, R378: the receive log or replay of a core. -/
inductive LogMode where
  | off | armed | recording | replay
deriving DecidableEq, Repr

/-- A receive (R376) as a record holds it. -/
structure Receive where
  kind : Nat
  slot : Nat
  src : BitVec 15
  data : Word
deriving DecidableEq, Repr

structure ReplayCore where
  mode : LogMode
  lbase : Word                     -- base of the log
  lbytes : Nat
  image : Word                     -- the checkpoint image's address
  status : Word                    -- STATUS's address
  part : Nat
  count : Nat                      -- records written or applied
  base : Nat                       -- the core cycle offsets count from
  after : Nat                      -- in a replay: the core cycle from which it goes on
  count0 : Nat                     -- in a replay: the checkpoint's resume core cycle
  buf : List Receive               -- the receives of this core cycle, not yet written
deriving DecidableEq, Repr

/-- A core (R29, R80). -/
structure CoreState where
  y : Vector Word 28
  brole : Word                     -- BROLE (R149)
  stash : AMap StashBank           -- by bank
  cache : List CLine               -- cache-role lines, most recently used first
  lineBuf : List Nat               -- the instruction line buffer (R49): line addresses, most recently entered first
  ah : Bool                        -- DUTY.AH as last written (R65)
  duties : Vector (BitVec 2) 6     -- DUTY.D0 to D5 as last written
  ahEff : Bool                     -- AH in effect (R66, R69)
  tblA : Vector Byte 32            -- the issue table's active image (R67)
  tblP : Vector Byte 32            -- its pending image
  pendOn : Bool                    -- an ISSUESET came since the last activation (R69)
  wantTbl : Bool                   -- an ISSUESET came since the core's last barrier (R69)
  barrier : Option (Vector Byte 32 × Bool)   -- a barrier was reached: the image and AH that the next frame boundary brings (R69)
  vfree : Nat                      -- the first core cycle in which the vector pipe is free (R127)
  sfree : Nat                      -- the same for the special-function pipe
  dt0 : AMap (BitVec 32)           -- decode table DT0 (R113)
  dt1 : AMap (BitVec 32)
  rseed : BitVec 32                -- RSEED (R116)
  seedOld : Option (Nat × BitVec 32)   -- the core cycle of the last SETC of RSEED, and the state its draws go on from (R116)
  lvDrew : Option (Nat × Nat)      -- the last core cycle in which a long-vector command drew, and its sequence number (R116)
  ring : AMap RingEntry            -- the coprocessor ring (R131); an unlisted entry is free
  ringNext : Nat                   -- the next sequence number
  ringCount : Nat                  -- operations that have taken an entry, for issue order
  wakeQ : List WakeLine            -- the wake queue (R37), oldest first
  mat : MatCore
  cpy : CopyCore
  net : NetCore
  rp : ReplayCore
deriving DecidableEq, Repr

/-- An octet (R26, R31). -/
structure Octet where
  part : Option Nat                -- the partition that has it
  wins : AMap LvWin                -- the long-vector windows (R128); an unlisted window is free
  lvRun : Option LvRun
  lvLast : Nat                     -- the window last served
  tlb : List Tlb                   -- 64 entries, most recently used first
  mat : MatOctet
  cpy : CopyOctet
deriving DecidableEq, Repr

/-- A stack (R29). -/
structure Stack where
  llc : List LlcLine               -- the data lines of its 64 slices, most recently used first
  tlb : List Tlb                   -- the last-level TLB, most recently used first
  pew : PewStack
  net : NetStack
  on : Bool                        -- the compute die is powered (R393)
deriving DecidableEq, Repr
/-- R398: the signal ring of a partition. -/
structure SigRing where
  base : Nat                       -- host memory address
  k : Nat
  pidx : Nat
  cidx : Nat
  p : BitVec 32                    -- the producer index
  vectors : List Nat               -- signal vector i raises MSI-X vector `vectors[i]`
deriving DecidableEq, Repr

/-- What a gang switch saves of one core (R374), and what a checkpoint image holds (R377). -/
structure CoreImage where
  core : Nat
  c : CoreState
  slots : AMap Slot                -- by slot number
  mem : Memory                     -- its local memory, by offset
  full : List Nat                  -- offsets of its FULL words
  poison : List Nat
  wins : AMap LvWin                -- the windows that its slots hold
  resume : Nat                     -- the core cycle of the resume it is a checkpoint of
deriving DecidableEq, Repr

/-- R374, R381: the gang switch of a partition. -/
inductive GangSt where
  | running
  | stopping (r : Word)            -- no slot issues; operations already started go on
  | stopped (r : Word)             -- saved; `r` is the resume time, 0 for a host command
deriving DecidableEq, Repr

/-- R379, R382: a deadlock check in progress. -/
structure Scan where
  at_ : Nat                        -- the core cycle of the first scan, moved by stopped time
  joined : List Nat                -- slots that wait for the count
deriving DecidableEq, Repr

/-- A partition (R31, R389). -/
structure Part where
  octets : List Nat                -- as PART_CREATE listed them
  ptbase : Word                    -- PTBASE
  tvec : Word                      -- TVEC
  tdeleg : Word                    -- TDELEG
  ctlOld : Option (Nat × Word × Word × Word)   -- R101: the core cycle of the last SETC of the three above, and their values before it
  quota : Nat                      -- Q
  pins : AMap PinWin
  overflow : Nat                   -- pinned lines placed as keep (R220)
  groups : AMap Group
  newt : NewtPart
  armed : Option (Word × Word)     -- the armed switch (T, r)
  gang : GangSt
  stoppedAt : Nat                  -- the core cycle of the stop
  given : Bool                     -- the host has given a resume command
  away : List Nat                  -- octets that another partition has been given since the stop (R381)
  back : List Nat                  -- octets that the host's commands have given back since the stop (R381, R389)
  save : Nat                       -- the save area's address
  images : AMap CoreImage          -- the save area, by core (R374)
  ckpts : AMap CoreImage           -- checkpoint images, by the number of the free value that is the image's first byte (R377, log 32)
  octs : AMap Octet                -- the saved octet state
  feq : List (Nat × Nat × Nat)     -- the saved full/empty waiters (see Mem)
  scan : Option Scan
  sig : SigRing
deriving DecidableEq, Repr

/-- R239: a bias flip waiting at its page: who asked, and the direction. -/
structure Flip where
  slot : Option Nat                -- the slot of a BIASF; none for a BIAS command
  host : Bool
deriving DecidableEq, Repr

/-- R239, R390: a 64 KiB device page's bias. -/
structure BiasPage where
  st : Bias
  locked : Bool
  flips : List Flip                -- the running flip first, then the queued ones
  hostCopies : List Nat            -- lines the host holds
deriving DecidableEq, Repr

/-- R390: a BIAS command in progress: the pages still to be flipped. -/
structure BiasJob where
  pages : List Nat
  host : Bool
  lock : Bool
deriving DecidableEq, Repr

/-- R391: what the attestation log records. -/
inductive AttEntry where
  | start (version : Nat) | stage (version : Nat) | create (part : Nat) | destroy (part : Nat)
deriving DecidableEq, Repr

/-- R391: a firmware image as the module holds it. -/
structure Firmware where
  version : Nat
  meas : BitVec 256
  signed : Bool                    -- its signature verifies
deriving DecidableEq, Repr

/-- The host link, the management controller and the power states (ch. 20). -/
structure HostState where
  box : AMap Word                  -- the Cybel mailbox, by word (R387, R389)
  served : Nat                     -- Cybel requests served
  pendingBias : Option BiasJob
  log : AMap (Word × Word)         -- the event log, by place (R388)
  nlog : Nat                       -- entries written since reset
  msix : List Nat                  -- raised MSI-X vectors, oldest first
  op : BitVec 3                    -- OP0 to OP7 (R392)
  opNext : BitVec 3
  clocksStopped : Bool
  standby : Bool
  trip : Bool                      -- TRIP (R394)
  hot : List Nat                   -- dies that reached their trip point since the last POWER command
  ready : Bool                     -- READY (R395)
  sigIndex : Nat                   -- the identity key's next signature index
  rollback : Nat                   -- the fused rollback counter
  running : Firmware
  flash : Firmware
  attLog : List AttEntry
  windows : List (Nat × Nat)
  winLocked : Bool
  module : BitVec 6
  routes : AMap (List Nat)
  rdata : List Byte                -- bytes the last host load returned
deriving DecidableEq, Repr

/-- What the module's schedule does next, when no turn and no due happening comes first: the model's own field, standing for the
device's free timing (R3). -/
inductive Agenda where
  | happen (i : Instr)
  | tick                           -- the next core cycle begins
deriving DecidableEq, Repr

/-- The model's own fields: the order of what happens within a core cycle, the schedule and the counters. -/
structure Sched where
  begun : Bool                     -- what comes before the turns of this core cycle is done
  turned : List Nat                -- cores whose turn of this core cycle is done
  landed : List (Nat × Nat × Nat)  -- y writes that landed in this core cycle: core, register, slot (R82)
  inTurn : Bool                    -- a slot has its turn
  serve : List Nat                 -- full/empty words that a turn changed: their waiters are served after the turns (R62, R155)
  stops : List Nat                 -- slots that a turn cancelled before their own turn of this core cycle: stopped after the turns (R62)
  flipHit : Bool                   -- an access met a page in a flip: what made it is not done, and waits (R239)
  agenda : List Agenda
  choices : List Nat               -- the device's free choices, consumed one by one; 0 when none is left
  nfree : Nat                      -- the next free value
  nextId : Nat                     -- numbers accesses, tokens, messages, runs
deriving DecidableEq, Repr

/-- Memory: device memory, every local memory and host memory, with the poison and full/empty state. `bytes` and `poison` hold the newest
bytes of every line: those that a read which recalls owned lines returns. While a core holds a line DIRTY (R152, R153), `homes` keeps
what the line's LLC home holds, for the reads that recall nothing (R226, R238). -/
structure Mem where
  bytes : Memory
  homes : AMap (List (Byte × Bool)) -- by line address: the home's 128 bytes, each with the poison of its word
  poison : List Nat                -- poisoned 8-byte words, by address, ascending
  full : List Nat                  -- local-memory words that are FULL, by address, ascending
  feq : List (Nat × Nat × Nat)     -- full/empty accesses waiting at a word: word, slot, access; in arrival order
deriving DecidableEq, Repr

/-- The master distributor (ch. 13). -/
structure Disp where
  queues : AMap Queue              -- the device queue of partition p is number 4096 + p
  passG : BitVec 40                -- the global pass (R252)
  selAt : Nat                      -- the first core cycle in which the next selection may be made
  wrote : List Nat                 -- queues whose watched tail word's line has been written since it was last read (R249), ascending
  freeRep : AMap (List Nat)        -- free task slots last reported and not taken since: 16 * stack + partition (R32)
  launches : AMap Launch
  next : Nat
deriving DecidableEq, Repr

/-- Skink (ch. 14). -/
structure Skink where
  tokens : AMap Token              -- in flight
  done : AMap NodeDone             -- node launches that report
  graphs : AMap Graph
  next : Nat
deriving DecidableEq, Repr

/-- What Pewter keeps for the module (ch. 15). -/
structure Pewter where
  tenants : AMap PewTenant
  watch : List Nat                 -- watched 64 KiB physical pages (R291), ascending
  inserts : AMap PewInsert
deriving DecidableEq, Repr

/-- What is in flight between cores, stacks and modules (ch. 9, 18). -/
structure Net where
  wakes : AMap WakeMsg
  flits : AMap Flit
  ports : AMap FPort
  linkOut : List (Nat × BitVec 1024)   -- flits sent, by port, oldest first
  linkAsk : List (Nat × BitVec 16)     -- replays asked for, by port: the SEQ, oldest first (R344)
  linkIn : List (Nat × BitVec 1024)    -- accepted flits of classes whose inner layout the spec does not give
  colls : AMap Coll
  chunks : AMap Chunk
  early : AMap EarlyChunk
deriving DecidableEq, Repr

/-- The whole module. -/
structure State where
  dclk : Nat                       -- DCLK (64 bits are read)
  cur : Nat                        -- the slot (SELF) whose instruction `exec` runs
  sched : Sched
  mm : Mem
  slots : AMap Slot
  cores : AMap CoreState
  octets : AMap Octet
  dies : AMap Stack
  parts : AMap Part
  disp : Disp
  sk : Skink
  pw : Pewter
  nmsgs : AMap NMsg
  net : Net
  keepLimit : AMap Nat             -- keep limits per tenant (R212)
  bias : AMap BiasPage
  host : HostState
deriving DecidableEq, Repr

/-- Why the machine stops. The spec gives every instruction an effect, so no reason is raised: the type has no value. -/
inductive Fault where
deriving DecidableEq, Repr

/-- Why a step has no meaning. -/
inductive Refusal where
  /-- Raised by the dispatcher for an instruction that has no meaning yet; safe: the run stops. -/
  | notModelled (mnemonic : String)
  /-- Raised by the meaning of a happening whose conditions do not hold in the state (a happening that cannot occur there);
  safe: the run stops. -/
  | notEnabled (mnemonic : String)
deriving DecidableEq, Repr
/-- No task: what a slot that holds none answers (R87, R88). -/
def TaskInfo.empty : TaskInfo :=
  { task := 0, ntask := 0, part := 0, tenant := 0, grp := 0, kfa := 0, kfb := 0, kfo := 0, ksa := 0, ksb := 0, dtuse := 0
    launch := .none, pure := false, regions := [], evt := .none, agent := 0, owner := .none }

def Regs.zero : Regs :=
  { x := Vector.replicate 32 0, v := Vector.replicate 16 0, m := Vector.replicate 8 0, sx := Vector.replicate 8 0 }

/-- The control registers at dispatch (R87, R133, R203, R370). -/
def Ctl.zero : Ctl :=
  { fewait := 0, nancnt := 0, vctl := 0, uictl := 0, uivec := 0, uipc := 0, epc := 0, est := 0, dbgSs := false, utvec := 0
    dlcnt := 0 }

def Counters.zero : Counters := { ld := 0, st := 0, cp := 0, tl := 0 }

/-- An idle slot whose duty code is `d`. -/
def Slot.idle (d : BitVec 2) : Slot :=
  { st := .idle, pc := 0, npc := 0, lv := .u, line := .none, from_ := 0, via := .none, task := TaskInfo.empty, regs := Regs.zero, ctl := Ctl.zero
    cnt := Counters.zero, wp := false, park := .none, parkedAt := 0, feLimit := 0, waitFor := Counters.zero
    exit := .none, pend := [], late := [], hold := .none, req := .none, found := .none, latch := .none, vbusy := 0, mbox := []
    mboxRsv := 0, trap := Vector.replicate 8 0, dutyCode := d, intake := [], rukey := .none, look := .none, saved := .idle
    barAt := .none, freeAt := 0, step := .none }

/-- R65: the duty code of slot `n` at reset; slot 6 is auto, and slot 7's duty (communication) has no code. -/
def resetDuty (n : Nat) : BitVec 2 :=
  match n with
  | 0 | 1 | 2 | 3 => 0
  | _ => 2

/-- R67: entry i of the issue table at reset holds VS = SS = i mod 8. -/
def resetTable : Vector Byte 32 :=
  Vector.ofFn fun i => BitVec.ofNat 8 (17 * (i.val % 8))

/-- R83: the queue ports and the rest of the network state of a core, empty. -/
def NetCore.empty : NetCore :=
  { intake := Vector.replicate 3 [], outlet := Vector.replicate 3 [], outAt := Vector.replicate 3 0, bound := [], cpc := 0, coll := []
    collSeq := [] }

def MatCore.empty : MatCore := { queue := [], run := .none, acc := [], nanRows := 0, weight := 1, leftAt := 0, leftN := 0 }

def ReplayCore.off : ReplayCore :=
  { mode := .off, lbase := 0, lbytes := 0, image := 0, status := 0, part := 0, count := 0, base := 0, after := 0, count0 := 0, buf := [] }

/-- A core at reset (R65, R67, R87, R169). -/
def CoreState.reset : CoreState :=
  { y := Vector.replicate 28 0, brole := 0, stash := [], cache := [], lineBuf := [], ah := false
    duties := #v[0, 0, 0, 0, 2, 2], ahEff := false, tblA := resetTable, tblP := resetTable, pendOn := false, wantTbl := false
    barrier := .none
    vfree := 0, sfree := 0, dt0 := [], dt1 := [], rseed := 1, seedOld := .none, lvDrew := .none, ring := [], ringNext := 0, ringCount := 0, wakeQ := []
    mat := MatCore.empty, cpy := { fifo := [] }, net := NetCore.empty, rp := ReplayCore.off }

def BLatch.empty : BLatch := { st := .empty, tile := .none, inc := .none, issued := 0, done := 0, run := .none }

/-- An octet at reset (R169: `cur` is 7, so that core 0 is the first served). -/
def Octet.reset : Octet :=
  { part := .none, wins := [], lvRun := .none, lvLast := 7, tlb := []
    mat := { l0 := BLatch.empty, l1 := BLatch.empty, cur := 7, used := 0, free := 0, count := 0 }
    cpy := { flight := [], last := 7, started := 0 } }

def Stack.reset : Stack :=
  { llc := [], tlb := [], pew := { entries := [] }, net := { streams := [] }, on := true }

/-- A Newt unit with nothing in transit (R325). -/
def NewtPS.zero : NewtPS :=
  { colour := false, sent0 := 0, sent1 := 0, recv0 := 0, recv1 := 0, redMin := BitVec.allOnes 64, cut := false, cutAt := 0
    report := .none }

/-- The host link after a reset that starts no firmware: READY, at OP0 (R395); the values that firmware and fuses give are the model's
(log 4). -/
def HostState.reset : HostState :=
  { box := [], served := 0, pendingBias := .none, log := [], nlog := 0, msix := [], op := 0, opNext := 0, clocksStopped := false
    standby := false, trip := false, hot := [], ready := true, sigIndex := 0, rollback := 0
    running := { version := 0, meas := 0, signed := true }, flash := { version := 0, meas := 0, signed := true }, attLog := [], windows := []
    winLocked := false, module := 0, routes := [], rdata := [] }

/-- A queue that nothing has configured (R249, R252, R264). -/
def Queue.unset : Queue :=
  { part := 16, tenant := 0, tickets := 0, en := false, sv := false, df := false, tw := false, ring := 0, rsz := 3, heada := 0
    taila := 0, head := 0, tail := 0, watch := .none, qerr := false, pass := 0, buf := [], spill := [] }

/-- R395: the module after a cold reset: READY, at OP0, DCLK 0; no partition, so that no slot holds a task. R388, R391: its firmware start
is in the attestation log and in the event log, and has raised vector 5. -/
def State.reset : State :=
  { dclk := 0, cur := 0
    sched := { begun := false, turned := [], landed := [], inTurn := false, serve := [], stops := [], flipHit := false, agenda := [], choices := [], nfree := 0
               nextId := 0 }
    mm := { bytes := [], homes := [], poison := [], full := [], feq := [] }
    slots := [], cores := [], octets := [], dies := [], parts := []
    disp := { queues := [], passG := 0, selAt := 0, wrote := [], freeRep := [], launches := [], next := 0 }
    sk := { tokens := [], done := [], graphs := [], next := 0 }
    pw := { tenants := [], watch := [], inserts := [] }
    nmsgs := []
    net := { wakes := [], flits := [], ports := [], linkOut := [], linkAsk := [], linkIn := [], colls := [], chunks := [], early := [] }
    keepLimit := [], bias := []
    host := { HostState.reset with attLog := [.start 0], log := [(0, (0x605, 0))], nlog := 1, msix := [5] } }

end Sys2Proof.Machine
end

