-- ==== Sys2Proof/Machine/Map.lean ====
section
/-!
DEFINITION. Sparse tables, sorted lists of numbers, and memory in its canonical form; and the bit fields of words that the other
files read and build.
-/

namespace Sys2Proof.Machine

/-! Sparse tables: keys strictly rising. -/

/-- The entry of `k`, or the table's default. -/
def look {α : Type} (m : AMap α) (k : Nat) (dflt : α) : α :=
  match m with
  | [] => dflt
  | (j, v) :: t => if j = k then v else look t k dflt

/-- The entry of `k`, where there is one. -/
def get? {α : Type} (m : AMap α) (k : Nat) : Option α :=
  match m with
  | [] => none
  | (j, v) :: t => if j = k then some v else get? t k

/-- The table with `v` at `k`. -/
def put {α : Type} (m : AMap α) (k : Nat) (v : α) : AMap α :=
  match m with
  | [] => [(k, v)]
  | (j, w) :: t => if k < j then (k, v) :: (j, w) :: t else if k = j then (k, v) :: t else (j, w) :: put t k v

/-- The table without an entry for `k`. -/
def del {α : Type} (m : AMap α) (k : Nat) : AMap α :=
  m.filter fun e => e.1 ≠ k

/-- Keys strictly rising. -/
def AMap.wf {α : Type} : AMap α → Bool
  | [] => true
  | [_] => true
  | (j, _) :: (k, v) :: t => decide (j < k) && AMap.wf ((k, v) :: t)

/-- The table with `f` applied to every entry. -/
def mapVals {α : Type} (f : Nat → α → α) (m : AMap α) : AMap α :=
  m.map fun e => (e.1, f e.1 e.2)

/-! Ascending lists of numbers. -/

def insertNat (n : Nat) : List Nat → List Nat
  | [] => [n]
  | a :: t => if n < a then n :: a :: t else if n = a then a :: t else a :: insertNat n t

def eraseNat (n : Nat) (l : List Nat) : List Nat :=
  l.filter (· ≠ n)

/-! Memory. An unlisted byte reads as 0 (log 2). -/

def Memory.byte (m : Memory) (a : Nat) : Byte :=
  match m with
  | [] => 0
  | (b, v) :: t => if b = a then v else Memory.byte t a

/-- The memory with byte `v`, not 0, at `a`. -/
def Memory.putByte (m : Memory) (a : Nat) (v : Byte) : Memory :=
  match m with
  | [] => [(a, v)]
  | (b, w) :: t =>
    if a < b then (a, v) :: (b, w) :: t
    else if a = b then (a, v) :: t
    else (b, w) :: Memory.putByte t a v

/-- The memory with byte `v` at `a`; a byte 0 is not listed. -/
def Memory.setByte (m : Memory) (a : Nat) (v : Byte) : Memory :=
  if v = 0 then m.filter fun c => c.1 ≠ a else m.putByte a v

/-- The canonical form: addresses strictly rising and no byte 0. -/
def Memory.wf : Memory → Bool
  | [] => true
  | [(_, v)] => v != 0
  | (a, v) :: (b, w) :: t => v != 0 && decide (a < b) && Memory.wf ((b, w) :: t)

/-- `n` bytes from address `a`. -/
def Memory.bytes (m : Memory) (a n : Nat) : List Byte :=
  (List.range n).map fun j => m.byte (a + j)

/-- The memory with the bytes `bs` from address `a`. -/
def Memory.setBytes (m : Memory) (a : Nat) : List Byte → Memory
  | [] => m
  | v :: t => Memory.setBytes (m.setByte a v) (a + 1) t

/-- The memory with the byte `f j` at `a + j` for every `j` below `n`. -/
def Memory.fill (m : Memory) (a n : Nat) (f : Nat → Byte) : Memory :=
  (m.filter fun c => c.1 < a) ++ ((List.range n).filterMap fun j => if f j = 0 then none else some (a + j, f j)) ++
    m.filter fun c => a + n ≤ c.1

/-- The memory without the bytes at or above `lo` and below `hi`. -/
def Memory.clear (m : Memory) (lo hi : Nat) : Memory :=
  m.filter fun c => c.1 < lo || hi ≤ c.1

/-! Words, bytes and fields (R5: little-endian). -/

/-- The number in bits `hi:lo` of `w`. -/
def fld {n : Nat} (w : BitVec n) (hi lo : Nat) : Nat :=
  (w.toNat >>> lo) % 2 ^ (hi + 1 - lo)

/-- `n` bytes, the least significant first. -/
def natBytes (n v : Nat) : List Byte :=
  match n with
  | 0 => []
  | k + 1 => BitVec.ofNat 8 v :: natBytes k (v >>> 8)

def bytesNat : List Byte → Nat
  | [] => 0
  | b :: t => b.toNat + 256 * bytesNat t

def bytesWord (bs : List Byte) : Word :=
  BitVec.ofNat 64 (bytesNat bs)

def wordBytes (w : Word) : List Byte :=
  natBytes 8 w.toNat

/-- The bytes of a list of words. -/
def wordsBytes (ws : List Word) : List Byte :=
  ws.flatMap wordBytes

/-- Word `i` (8 bytes) of a byte list. -/
def wordAt (bs : List Byte) (i : Nat) : Word :=
  bytesWord ((bs.drop (8 * i)).take 8)

/-- The low `n` bits of `v`, sign-extended to 64 bits. -/
def sextNat (n v : Nat) : Word :=
  if n = 0 then 0 else BitVec.ofInt 64 (Int.bmod (v : Int) (2 ^ n))

def setAt {α : Type} (l : List α) (i : Nat) (v : α) : List α :=
  l.set i v

/-- A word that is 1 when `b` holds. -/
def boolWord (b : Bool) : Word :=
  if b then 1 else 0

def allOnes : Word :=
  BitVec.allOnes 64

end Sys2Proof.Machine
end

