-- ==== Sys2Proof/Machine/Access.lean ====
section
/-!
DEFINITION. Reading and changing the parts of the state: slots, cores, octets, stacks, partitions; registers; free values and the
device's free choices.
-/

namespace Sys2Proof.Machine

/-! R26: slot number i = 8 * core + slot is SELF; core k is in octet k / 8 and on stack k / 2048. -/

def octetOf (k : Nat) : Nat := k / 8

def stackOf (k : Nat) : Nat := k / 2048

def State.slot (s : State) (i : Nat) : Slot := look s.slots i (Slot.idle (resetDuty (i % 8)))

def State.setSlot (s : State) (i : Nat) (v : Slot) : State := { s with slots := put s.slots i v }

def State.modSlot (s : State) (i : Nat) (f : Slot → Slot) : State := s.setSlot i (f (s.slot i))

def State.core (s : State) (k : Nat) : CoreState := look s.cores k CoreState.reset

def State.setCore (s : State) (k : Nat) (v : CoreState) : State := { s with cores := put s.cores k v }

def State.modCore (s : State) (k : Nat) (f : CoreState → CoreState) : State := s.setCore k (f (s.core k))

def State.oct (s : State) (o : Nat) : Octet := look s.octets o Octet.reset

def State.setOct (s : State) (o : Nat) (v : Octet) : State := { s with octets := put s.octets o v }

def State.modOct (s : State) (o : Nat) (f : Octet → Octet) : State := s.setOct o (f (s.oct o))

def State.die (s : State) (d : Nat) : Stack := look s.dies d Stack.reset

def State.setDie (s : State) (d : Nat) (v : Stack) : State := { s with dies := put s.dies d v }

def State.modDie (s : State) (d : Nat) (f : Stack → Stack) : State := s.setDie d (f (s.die d))

def State.part? (s : State) (p : Nat) : Option Part := get? s.parts p

def State.modPart (s : State) (p : Nat) (f : Part → Part) : State :=
  match s.part? p with
  | some v => { s with parts := put s.parts p (f v) }
  | none => s

/-- The partition that core `k` runs for. -/
def State.corePart (s : State) (k : Nat) : Option Nat := (s.oct (octetOf k)).part

/-- R374: the cores of octet `o` are not stopped by a gang switch. -/
def State.octRuns (s : State) (o : Nat) : Bool :=
  match (s.oct o).part.bind s.part? with
  | some v => v.gang = .running
  | none => true

/-- R378: core `k` replays a log. -/
def State.replays (s : State) (k : Nat) : Bool := (s.core k).rp.mode = .replay

def BiasPage.fresh : BiasPage := { st := .device, locked := false, flips := [], hostCopies := [] }

/-- R239: 64 KiB device page `pg`. -/
def State.page (s : State) (pg : Nat) : BiasPage := look s.bias pg BiasPage.fresh

/-- R239: the page of a place is in a flip, so that accesses wait at its home. -/
def State.pageBusy (s : State) (a : Nat) : Bool := (s.page (a / 65536)).st = .toHost || (s.page (a / 65536)).st = .toDevice

def State.modSched (s : State) (f : Sched → Sched) : State := { s with sched := f s.sched }

/-- R239: an access that meets a page in a flip waits: what makes it is not done now (see `State.tryHappen` and
`State.turnStep`). -/
def State.meetFlip (s : State) (busy : Bool) : State := if busy then s.modSched fun c => { c with flipHit := true } else s

def State.modMm (s : State) (f : Mem → Mem) : State := { s with mm := f s.mm }

def State.modDisp (s : State) (f : Disp → Disp) : State := { s with disp := f s.disp }

def State.modSk (s : State) (f : Skink → Skink) : State := { s with sk := f s.sk }

def State.modPw (s : State) (f : Pewter → Pewter) : State := { s with pw := f s.pw }

def State.modNet (s : State) (f : Net → Net) : State := { s with net := f s.net }

def State.modHost (s : State) (f : HostState → HostState) : State := { s with host := f s.host }

/-- A fresh number for an access, a message or a token. -/
def State.newId (s : State) : Nat × State :=
  (s.sched.nextId, s.modSched fun c => { c with nextId := c.nextId + 1 })

/-- A free value: one the spec does not state (log 9). -/
def State.free (s : State) : Word × State :=
  (Config.freeWord s.sched.nfree, s.modSched fun c => { c with nfree := c.nfree + 1 })

/-- The device's next free choice (log 8). -/
def State.choose (s : State) : Nat × State :=
  match s.sched.choices with
  | [] => (0, s)
  | c :: t => (c, s.modSched fun x => { x with choices := t })

/-- A list is visited in order, the state passing from one element to the next. -/
def State.visit {α β : Type} (s : State) (f : State → α → β × State) : List α → List β × State
  | [] => ([], s)
  | x :: t =>
    let r := f s x
    let q := r.2.visit f t
    (r.1 :: q.1, q.2)

/-! Slots that hold a task. -/

def Slot.live (sl : Slot) : Bool := sl.st ≠ .idle

/-- The slots of core `k`, by slot number. -/
def coreSlots (k : Nat) : List Nat := (List.range 8).map (8 * k + ·)

/-- Every slot that is listed, ascending. -/
def State.slotNums (s : State) : List Nat := s.slots.map (·.1)

/-- R65, R66: the duties in effect. -/
inductive Duty where
  | task | handler | off | comm
deriving DecidableEq, Repr

/-- R65, R66: the duty in effect of slot `i`. -/
def State.duty (s : State) (i : Nat) : Duty :=
  if i % 8 = 7 then .comm
  else match (s.slot i).dutyCode.toNat with
    | 0 => .task
    | 1 => if (s.core (i / 8)).ahEff then .handler else .off
    | 2 => if (s.core (i / 8)).ahEff then .handler else .task
    | _ => .off

/-! Registers. -/

/-- R203: in a user-interrupt handler x24 to x31 name SX0 to SX7. -/
def Slot.inUi (sl : Slot) : Bool := sl.ctl.uictl.getLsbD 1

/-- The value of x register `n` of a slot (x0 reads as zero). -/
def Slot.readX (sl : Slot) (n : BitVec 5) : Word :=
  if n = 0 then 0
  else if sl.inUi && 24 ≤ n.toNat then sl.regs.sx.getD (n.toNat - 24) 0
  else sl.regs.x.getD n.toNat 0

/-- The register that a destination field names at issue (R204). -/
def Slot.bind (sl : Slot) (r : Reg) : Dst :=
  match r with
  | .x n => if sl.inUi && 24 ≤ n.toNat then .sx (BitVec.ofNat 3 (n.toNat - 24)) else .x n
  | .y n => .y n

/-- R308: what a pop of y31 yields. -/
def Slot.evPort (i : Nat) (sl : Slot) : Word :=
  match sl.task.evt with
  | some _ => BitVec.ofNat 64 (0x00FFFF000001FE00 + 64 * (i % 8))
  | none => allOnes

/-- The value a register field reads in slot `i` (R81); a port yields the word its pop takes (R83). -/
def State.reg (s : State) (i : Nat) (r : Reg) : Word :=
  match r with
  | .x n => (s.slot i).readX n
  | .y n =>
    if n.toNat < 28 then (s.core (i / 8)).y.getD n.toNat 0
    else if n.toNat < 31 then (((s.core (i / 8)).net.intake.getD (n.toNat - 28) []).headD 0)
    else (s.slot i).evPort i

/-- R82: a write of y`n` of slot `i`'s core lands, unless a lower slot's write landed in this core cycle. -/
def State.writeY (s : State) (i : Nat) (n : Nat) (v : Word) : State :=
  let k := i / 8
  let go (s : State) : State :=
    (s.modCore k fun c => { c with y := c.y.setIfInBounds n v }).modSched fun c =>
      { c with landed := (k, n, i % 8) :: c.landed.filter fun e => !(e.1 = k && e.2.1 = n) }
  match s.sched.landed.find? fun e => e.1 = k && e.2.1 = n with
  | some (_, _, j) => if j < i % 8 then s else go s
  | none => go s

/-- A push to port `p` (0 to 2 for y28 to y30) of core `k` (R85). -/
def State.pushPort (s : State) (k p : Nat) (w : Word) : State :=
  s.modCore k fun c =>
    { c with net := { c.net with
        outlet := c.net.outlet.setIfInBounds p (c.net.outlet.getD p [] ++ [.word w]), outAt := c.net.outAt.setIfInBounds p s.dclk } }

/-- R83, R85: the place in an outlet of the word that slot `i`'s vector instruction has still to produce. -/
def State.pushHeld (s : State) (i p : Nat) : State :=
  s.modCore (i / 8) fun c =>
    { c with net := { c.net with outlet := c.net.outlet.setIfInBounds p (c.net.outlet.getD p [] ++ [.hold i]) } }

/-- A write to a bound destination of slot `i` (R80: x0 discards every write). -/
def State.writeDst (s : State) (i : Nat) (d : Dst) (v : Word) : State :=
  match d with
  | .x n => if n = 0 then s else s.modSlot i fun sl => { sl with regs := { sl.regs with x := sl.regs.x.setIfInBounds n.toNat v } }
  | .sx n => s.modSlot i fun sl => { sl with regs := { sl.regs with sx := sl.regs.sx.setIfInBounds n.toNat v } }
  | .y n =>
    if n.toNat < 28 then s.writeY i n.toNat v
    else if n.toNat < 31 then s.pushPort (i / 8) (n.toNat - 28) v
    else s

/-- A write of the register that field `r` names in slot `i`. -/
def State.writeReg (s : State) (i : Nat) (r : Reg) (v : Word) : State :=
  s.writeDst i ((s.slot i).bind r) v

def State.vreg (s : State) (i : Nat) (n : BitVec 4) : BitVec 256 := (s.slot i).regs.v.getD n.toNat 0

def State.setVreg (s : State) (i : Nat) (n : BitVec 4) (v : BitVec 256) : State :=
  s.modSlot i fun sl => { sl with regs := { sl.regs with v := sl.regs.v.setIfInBounds n.toNat v } }

def State.mreg (s : State) (i : Nat) (n : BitVec 3) : BitVec 16 := (s.slot i).regs.m.getD n.toNat 0

def State.setMreg (s : State) (i : Nat) (n : BitVec 3) (v : BitVec 16) : State :=
  s.modSlot i fun sl => { sl with regs := { sl.regs with m := sl.regs.m.setIfInBounds n.toNat v } }

/-- R118: adds to NANCNT, which saturates. -/
def State.addNan (s : State) (i n : Nat) : State :=
  if n = 0 then s
  else s.modSlot i fun sl =>
    { sl with ctl := { sl.ctl with nancnt := BitVec.ofNat 32 (min 0xFFFFFFFF (sl.ctl.nancnt.toNat + n)) } }

end Sys2Proof.Machine
end

