-- ==== Sys2Proof/Machine/Home.lean ====
section
/-!
DEFINITION. Places in physical memory, and the shared cache: home slices and sets (R208), classes and replacement (R210 to R212), pinned lines
(R213). The LLC holds which lines are present and in what state; the bytes are those of memory.
-/

namespace Sys2Proof.Machine

/-! Places in physical memory: device memory from 0, local memory at its module window, host memory at 2^56 (log 1). -/

def lmBase : Nat := 0x00FF000000000000

def lmEnd : Nat := 0x00FF000040000000

def hostBase : Nat := 2 ^ 56

/-- R2: 192 GiB of device memory. -/
def devEnd : Nat := 0x3000000000

def lmAddr (k off : Nat) : Nat := lmBase + k * 0x20000 + off

def isLm (a : Nat) : Bool := lmBase ≤ a && a < lmEnd

def isDev (a : Nat) : Bool := a < devEnd

def isHost (a : Nat) : Bool := hostBase ≤ a

/-- The core, the bank and the offset of a local-memory address. -/
def lmCore (a : Nat) : Nat := (a - lmBase) / 0x20000

def lmOff (a : Nat) : Nat := (a - lmBase) % 0x20000

def lmBank (a : Nat) : Nat := lmOff a / 0x1000

/-- R208: the stack of a device-memory address is PA[17:16]. -/
def stackOfPa (a : Nat) : Nat := (a / 65536) % 4

/-- R208: the slice and the set of a line, within its stack. -/
def llcSet (pa : Nat) : Nat × Nat :=
  let a := pa % 2 ^ 56
  (a / 256 % 64, ((a / 2 ^ 18 * 8) + (a / 2 ^ 14 % 4 * 2) + a / 128 % 2) % 8192)

/-- R209: the ways of a set that hold data: one of sets 0 to 2,047 is Pewter's. -/
def llcWays (set : Nat) : Nat := if set < 2048 then 15 else 16

/-- R213: a pin window of some partition holds the line. -/
def State.pinner? (s : State) (pa : Nat) : Option Nat :=
  if isDev pa then
    (s.parts.find? fun p => p.2.pins.any fun w =>
      w.2.phys.contains (pa / 65536) && (w.2.sliceMask >>> (llcSet pa).1) % 2 = 1).map (·.1)
  else none

/-- The lines of one set. -/
def setOf (l : List LlcLine) (pa : Nat) : List LlcLine := l.filter fun e => llcSet e.pa = llcSet pa

/-- R212: whether one more keep line of the tenant fits in the set. -/
def State.keepFits (s : State) (set : List LlcLine) (tenant : BitVec 16) : Bool :=
  (set.filter fun e => e.cls = .keep && e.tenant = tenant).length < look s.keepLimit tenant.toNat 8

/-- R210 to R213: the class with which the line `pa` is placed, and the partition whose overflow it counts in. -/
def State.placeClass (s : State) (set : List LlcLine) (pa : Nat) (h : Hint) (tenant : BitVec 16) : LlcClass × Option Nat :=
  let asKeep : LlcClass := if s.keepFits set tenant then .keep else .normal
  match s.pinner? pa with
  | some p => if (set.filter fun e => e.cls = .pinned).length < 12 then (.pinned, none) else (asKeep, some p)
  | none => match h with
    | .ef => (.ef, none)
    | .keep => (asKeep, none)
    | _ => (.normal, none)

/-- R211: the lines of the stack without the victim of `pa`'s set; none where no way can be had. -/
def makeRoom (l : List LlcLine) (pa : Nat) : Option (List LlcLine) :=
  let set := setOf l pa
  if set.length < llcWays (llcSet pa).2 then some l
  else
    let last (c : LlcClass) : Option LlcLine := (set.filter fun e => e.cls = c).getLast?
    match last .ef, last .normal, last .keep with
    | some v, _, _ => some (l.filter fun e => e.pa ≠ v.pa)
    | none, some v, _ => some (l.filter fun e => e.pa ≠ v.pa)
    | none, none, some v => some (l.filter fun e => e.pa ≠ v.pa)
    | none, none, none => none

/-- R210: an access with hint `h` of `tenant` acts at the home of line `pa`. DESIGN CHOICE (log 72): the table of R210 says of a hit with hint 0
alone that the line becomes the most recently used; so it does with hints 1 and 2 here. R212: a promotion counts in the tenant that the line records,
and is made as normal where that tenant's limit is reached. -/
def State.llcAccess (s : State) (pa : Nat) (h : Hint) (tenant : BitVec 16) (write : Bool) : State :=
  let d := stackOfPa (pa % 2 ^ 56)
  let l := (s.die d).llc
  let set := setOf l pa
  match l.find? fun e => e.pa = pa with
  | some e =>
    let e := { e with dirty := e.dirty || write }
    match h with
    | .na => s.modDie d fun v => { v with llc := l.map fun f => if f.pa = pa then e else f }
    | _ =>
      let cls : LlcClass := match h, e.cls with
        | .ef, .normal => .ef
        | .keep, .normal | .keep, .ef => if s.keepFits set e.tenant then .keep else .normal
        | _, c => c
      s.modDie d fun v => { v with llc := { e with cls := cls } :: l.filter fun f => f.pa ≠ pa }
  | none =>
    if h = .na && (s.pinner? pa).isNone then s
    else match makeRoom l pa with
      | none => s
      | some l =>
        let (cls, ov) := s.placeClass (setOf l pa) pa h tenant
        let s := match ov with
          | some p => s.modPart p fun v => { v with overflow := min 0xFFFFFFFF (v.overflow + 1) }
          | none => s
        s.modDie d fun v => { v with llc := { pa := pa, cls := cls, tenant := tenant, dirty := write } :: l }

end Sys2Proof.Machine
end

