-- ==== Sys2Proof/Machine/Ops.lean ====
section
/-!
DEFINITION. The named operations over memory, ports, counters and slots: writing memory, ending and cancelling a task, taking an
exception and returning from it, completing a head, and serving full/empty words.
-/

namespace Sys2Proof.Machine

/-- R149: the role code of bank `b` of core `k`. -/
def State.role (s : State) (k b : Nat) : Nat := fld (s.core k).brole (2 * b + 1) (2 * b)

def State.rdBytes (s : State) (a n : Nat) : List Byte := s.mm.bytes.bytes a n

def State.rdWord (s : State) (a : Nat) : Word := bytesWord (s.rdBytes a 8)

/-- The 8-byte words that `n` bytes from `a` touch. -/
def wordsOf (a n : Nat) : List Nat :=
  (List.range ((a + n + 7) / 8 - a / 8)).map fun j => 8 * (a / 8 + j)

/-- R157: some touched word is poisoned. -/
def State.poisoned (s : State) (a n : Nat) : Bool :=
  (wordsOf a n).any fun w => s.mm.poison.contains w

def State.fullWord (s : State) (w : Nat) : Bool := s.mm.full.contains w

def State.setFullBit (s : State) (w : Nat) (full : Bool) : State :=
  s.modMm fun m => { m with full := if full then insertNat w m.full else eraseNat w m.full }

/-! Copies of lines in the cores (R152, R153). -/

/-- The address of the 128-byte line of `a`. -/
def lineAddr (a : Nat) : Nat := a / 128 * 128

/-- The 128-byte lines that `n` bytes from `a` touch. -/
def linesOf (a n : Nat) : List Nat :=
  (List.range ((a + n + 127) / 128 - a / 128)).map fun j => 128 * (a / 128 + j)

/-- A holder of a line: the cache role of a core, or line `ln` of its stash bank `bank` (R152, R153). -/
structure Holder where
  core : Nat
  stash : Option (Nat × Nat) := none   -- bank and line
deriving DecidableEq, Repr

/-- R153, R157: a stash bank keeps the bytes of line `ln`, with their poison, when the line leaves it. -/
def State.keepStashLine (s : State) (k bank ln pa : Nat) : State :=
  let lo := lmAddr k (0x1000 * bank + 128 * ln)
  s.modMm fun m => { m with
    bytes := m.bytes.setBytes lo (m.bytes.bytes pa 128)
    poison := (List.range 16).foldl (init := m.poison) fun p j =>
      if m.poison.contains (pa + 8 * j) then insertNat (lo + 8 * j) p else eraseNat (lo + 8 * j) p }

/-- The stash lines that hold device line `pa`: core, bank and line. -/
def State.stashHolders (s : State) (pa : Nat) : List (Nat × Nat × Nat) :=
  s.cores.flatMap fun c => c.2.stash.flatMap fun b => b.2.lines.filterMap fun l =>
    if l.2.1 = pa then some (c.1, b.1, l.1) else none

def CoreState.modStash (c : CoreState) (bank : Nat) (f : StashBank → StashBank) : CoreState :=
  { c with stash := put c.stash bank (f (look c.stash bank { base := 0, hint := .none, lines := [] })) }

/-- A core holds line `pa` dirty. -/
def CoreState.holdsDirty (c : CoreState) (pa : Nat) : Bool :=
  (c.cache.any fun l => l.pa = pa && l.dirty) || c.stash.any fun b => b.2.lines.any fun l => l.2.1 = pa && l.2.2.2

/-- R165, R209: the hint with which core `k` writes back a dirty copy of line `pa` that it holds, other than `keep`'s: the stash bank's, or
none for the cache role's. -/
def CoreState.backHint (c : CoreState) (k pa : Nat) (keep : Option Holder) : Option Hint :=
  match c.stash.find? fun b => b.2.lines.any fun l =>
    l.2.1 = pa && l.2.2.2 && keep ≠ some { core := k, stash := some (b.1, l.1) } with
  | some b => some b.2.hint
  | none => if keep ≠ some { core := k } && c.cache.any fun l => l.pa = pa && l.dirty then some .none else none

/-- R209, R210: a dirty copy of line `pa`, other than `keep`'s, is written back to its home; the write-back carries tenant 0 (log 15). -/
def State.writeHome (s : State) (pa : Nat) (keep : Option Holder) : State :=
  match s.cores.findSome? fun c => c.2.backHint c.1 pa keep with
  | some h => s.llcAccess pa h 0 true
  | none => s

/-- R226: the bytes that the LLC home of line `pa` holds are kept while a core holds newer ones, and no longer. -/
def State.settleHome (s : State) (pa : Nat) : State :=
  if s.cores.any fun c => c.2.holdsDirty pa then s else s.modMm fun m => { m with homes := del m.homes pa }

/-- R226: every home is settled. -/
def State.settleHomes (s : State) : State := (s.mm.homes.map (·.1)).foldl (init := s) State.settleHome

/-- R152, R226: a holder is about to write its own copy of line `pa`: the home keeps its bytes, with the poison of their words. -/
def State.keepHome (s : State) (pa : Nat) : State :=
  match get? s.mm.homes pa with
  | some _ => s
  | none => s.modMm fun m => { m with
      homes := put m.homes pa ((List.range 128).map fun j => (m.bytes.byte (pa + j), m.poison.contains ((pa + j) / 8 * 8))) }

/-- R226, R238: what the LLC home of the bytes holds: each byte with the poison of its word. -/
def State.rdHome (s : State) (a n : Nat) : List (Byte × Bool) :=
  match get? s.mm.homes (lineAddr a) with
  | some l => (l.drop (a % 128)).take n
  | none => (List.range n).map fun j => (s.mm.bytes.byte (a + j), s.mm.poison.contains ((a + j) / 8 * 8))

/-- R152, R153: before a write by another holder, every copy of line `pa` but `keep`'s leaves its bank, a dirty one written back. -/
def State.dropCopies (s : State) (pa : Nat) (keep : Option Holder) : State :=
  let s := s.writeHome pa keep
  let s := (s.stashHolders pa).foldl (init := s) fun s h =>
    if keep = some { core := h.1, stash := some h.2 } then s
    else (s.keepStashLine h.1 h.2.1 h.2.2 pa).modCore h.1 fun c => c.modStash h.2.1 fun b => { b with lines := del b.lines h.2.2 }
  let s : State := { s with cores := mapVals (fun k c =>
    if keep = some { core := k } then c else { c with cache := c.cache.filter fun l => l.pa ≠ pa }) s.cores }
  s.settleHome pa

/-- R152, R153: when another holder reads line `pa`, a dirty copy is written back, and every copy but `keep`'s is clean and shared. -/
def State.cleanCopies (s : State) (pa : Nat) (keep : Option Holder) : State :=
  let s := s.writeHome pa keep
  let s : State := { s with cores := mapVals (fun k c => { c with
    cache := if keep = some { core := k } then c.cache
      else c.cache.map fun l => if l.pa = pa then { l with dirty := false, owned := false } else l
    stash := mapVals (fun b v => { v with lines := mapVals (fun ln l =>
      if l.1 = pa && keep ≠ some { core := k, stash := some (b, ln) } then (l.1, false, false) else l) v.lines }) c.stash }) s.cores }
  s.settleHome pa

/-- R152: a line used by an access with hint `h` becomes the most recently used, or with evict-first the least; with no-allocate it keeps
its place. -/
def CoreState.useLine (c : CoreState) (pa : Nat) (h : Hint) : CoreState :=
  match h with
  | .na => c
  | .ef => { c with cache := (c.cache.filter fun l => l.pa ≠ pa) ++ c.cache.filter fun l => l.pa = pa }
  | _ => { c with cache := (c.cache.filter fun l => l.pa = pa) ++ c.cache.filter fun l => l.pa ≠ pa }

/-- R152, R153: `h` has written its copy of line `pa` by an access with hint `hint`: the copy is dirty and owned. -/
def State.dirtyOwn (s : State) (h : Holder) (pa : Nat) (hint : Hint := .none) : State :=
  s.modCore h.core fun c => match h.stash with
    | some (b, ln) => c.modStash b fun v => { v with lines := put v.lines ln (pa, true, true) }
    | none =>
      let wrote (l : CLine) : CLine := if l.pa = pa then { l with dirty := true, owned := true } else l
      CoreState.useLine { c with cache := c.cache.map wrote } pa hint

/-- R152, R153: whether `h` owns its copy of line `pa`. -/
def State.owns (s : State) (h : Holder) (pa : Nat) : Bool :=
  match h.stash with
  | some (b, ln) => match (get? (s.core h.core).stash b).bind fun v => get? v.lines ln with
    | some l => l.1 = pa && l.2.1
    | none => false
  | none => match (s.core h.core).cache.find? fun l => l.pa = pa with
    | some l => l.owned
    | none => false

/-- R297: a count, saturating at 2^48 - 1. -/
def satCount (n : Nat) : Nat := min (2 ^ 48 - 1) n

/-- R291, R293: a write to a watched 64 KiB page invalidates every entry that watches it and spoils the inserts in progress. -/
def State.watchWrite (s : State) (page : Nat) : State :=
  if s.pw.watch.contains page then
    let gone := s.dies.flatMap fun d => d.2.pew.entries.filter fun e => e.pages.contains page
    let s := { s with dies := mapVals (fun _ d =>
      { d with pew := { d.pew with entries := d.pew.entries.filter fun e => !e.pages.contains page } }) s.dies }
    s.modPw fun w => { w with
      watch := eraseNat page w.watch
      tenants := gone.foldl (init := w.tenants) fun t e =>
        match get? t e.tenant.toNat with
        | some v => put t e.tenant.toNat { v with invalidated := satCount (v.invalidated + 1) }
        | none => put t e.tenant.toNat { quota := 0, demoted := [], lookups := 0, hits := 0, inserts := 0, invalidated := 1, skipped := 0 }
      inserts := mapVals (fun _ i => if i.pages.contains page then { i with spoiled := true } else i) w.inserts }
  else s

/-- R249: the queues whose watched tail word has its line written by `n` bytes at `a` are to read it again. -/
def State.noteTail (s : State) (a n : Nat) : State :=
  let hit (q : Nat × Queue) : Bool := q.2.watch.any fun w => decide (a < lineAddr w + 128) && decide (lineAddr w < a + n)
  if !isLm a && s.disp.queues.any hit then
    s.modDisp fun d => { d with wrote := (d.queues.filter hit).foldl (fun l q => insertNat q.1 l) d.wrote }
  else s

/-- A write of the bytes `bs` at physical address `a`, by a holder on its own copy of the line or at the home (none). R157: poison; R49:
the line buffers; R152, R153: other copies; R226: the home's bytes; R291: watched pages; R249: watched tail words. -/
def State.wrBytes (s : State) (a : Nat) (bs : List Byte) (bad : Bool := false) (by_ : Option Holder := none) : State :=
  let n := bs.length
  if n = 0 then s else
  let s := if isLm a then s else (linesOf a n).foldl (init := s) fun s l =>
    let s := s.dropCopies l by_
    if by_.isSome then s.keepHome l else s
  let pages := (List.range ((a + n + 65535) / 65536 - a / 65536)).map fun j => a / 65536 + j
  let s := (if isDev a then pages.foldl State.watchWrite s else s).noteTail a n
  let s := s.modMm fun m => { m with
    bytes := m.bytes.setBytes a bs
    poison := (wordsOf a n).foldl (init := m.poison) fun p w =>
      if bad then insertNat w p else if a ≤ w && w + 8 ≤ a + n then eraseNat w p else p }
  if isLm a then s
  else { s with cores := mapVals (fun _ c => { c with
      lineBuf := c.lineBuf.filter fun l => !(decide (a < l + 64) && decide (l < a + n)) }) s.cores }

/-- R209, R239: a unit's own write to device memory: it acts at the home of each of its lines, and waits while a page of it is in a flip. -/
def State.homeWrites (s : State) (a n : Nat) (tenant : BitVec 16) : State :=
  (linesOf a n).foldl (init := s) fun s l => (s.meetFlip (s.pageBusy l)).llcAccess l .none tenant true

/-- The bytes `bs` that a unit writes at device address `a` for a tenant. -/
def State.unitWrite (s : State) (a : Nat) (bs : List Byte) (tenant : BitVec 16) : State :=
  (s.wrBytes a bs).homeWrites a bs.length tenant

/-! Counters (R86). -/

def Counters.le (c l : Counters) : Bool := c.ld ≤ l.ld && c.st ≤ l.st && c.cp ≤ l.cp && c.tl ≤ l.tl

/-- Which counter an operation counts in. -/
inductive Cnt where
  | ld | st | cp | tl
deriving DecidableEq, Repr

def Counters.get (c : Counters) : Cnt → Nat
  | .ld => c.ld | .st => c.st | .cp => c.cp | .tl => c.tl

def Counters.set (c : Counters) (w : Cnt) (n : Nat) : Counters :=
  match w with
  | .ld => { c with ld := n } | .st => { c with st := n } | .cp => { c with cp := n } | .tl => { c with tl := n }

def State.incCnt (s : State) (i : Nat) (w : Cnt) : State :=
  s.modSlot i fun sl => { sl with cnt := sl.cnt.set w (sl.cnt.get w + 1) }

/-- The count falls, with no slot made ready by it. -/
def State.dropCnt (s : State) (i : Nat) (w : Cnt) : State :=
  s.modSlot i fun sl => { sl with cnt := sl.cnt.set w (sl.cnt.get w - 1) }

/-- The counter an access counts in (R86). -/
def AccKind.cnt : AccKind → Cnt
  | .load .. | .vload .. | .rmw .. | .cas .. | .cas2 .. | .ldf .. | .feget .. => .ld
  | .store .. | .nibble .. | .stf .. | .feset .. | .stashwb => .st

/-! Groups (R258). -/

/-- R88: the group ids that a task belongs to. -/
def TaskInfo.groups (t : TaskInfo) : List Nat :=
  (List.range 4).filterMap fun g => if t.grp.getLsbD (32 + g) then some (fld t.grp (8 * g + 7) (8 * g)) else none

/-- R69: something waits for the core's next barrier. -/
def CoreState.wantsBarrier (c : CoreState) : Bool := c.wantTbl || c.ah ≠ (match c.barrier with
  | some b => b.2
  | none => c.ahEff)

/-- R69: the barrier is reached on core `k`: the image and the AH written before it are what the next frame boundary brings. -/
def State.reachBarrier (s : State) (k : Nat) : State :=
  if (s.core k).wantsBarrier then s.modCore k fun c => { c with
    barrier := some (if c.wantTbl then c.tblP else match c.barrier with
      | some b => b.1
      | none => c.tblA, c.ah)
    wantTbl := false }
  else s

/-- R69: a BAR on group `gid` of partition `p` completes: the barrier of every core whose slots with a task are all members. -/
def State.barrierCores (s : State) (p gid : Nat) : State :=
  (s.cores.map (·.1)).foldl (init := s) fun s k =>
    let live := (coreSlots k).filter fun i => (s.slot i).live
    if s.corePart k = some p && !live.isEmpty && live.all fun i => (s.slot i).task.part = p && (s.slot i).task.groups.contains gid then
      s.reachBarrier k
    else s

/-- R258: the entry completes: every parked member's release is on its way; `last` is the core of the last arrival. -/
def State.completeGroup (s : State) (p gid last : Nat) : State :=
  let s := s.modPart p fun v => match get? v.groups gid with
    | some e => { v with groups := put v.groups gid { e with a := 0 } }
    | none => v
  let s := s.barrierCores p gid
  { s with slots := mapVals (fun i sl =>
      match sl.park with
      | .bar _ g _ =>
        if sl.task.part = p && g.toNat = gid && sl.barAt.isNone then
          { sl with barAt := some (s.dclk + if i / 8 = last then 0 else if stackOf (i / 8) = stackOf last then 64 else 256) }
        else sl
      | _ => sl) s.slots }

/-- R258: a member leaves the group entry `gid`, which may complete it. -/
def State.leaveGroup (s : State) (p gid k : Nat) : State :=
  match (s.part? p).bind fun v => get? v.groups gid with
  | none => s
  | some e =>
    let e := { e with m := e.m - 1 }
    let s := s.modPart p fun v => { v with groups := put v.groups gid e }
    if e.a = e.m && 0 < e.a then s.completeGroup p gid k else s

/-- R63, R258: the retiring task of slot `i` leaves all its groups. -/
def State.leaveGroups (s : State) (i : Nat) : State :=
  (s.slot i).task.groups.foldl (init := s) fun s g => s.leaveGroup (s.slot i).task.part g (i / 8)

/-- R258: the arrival of slot `i`, parked at a BAR that has not completed, is withdrawn. -/
def State.withdrawArrival (s : State) (i : Nat) : State :=
  match (s.slot i).park with
  | .bar _ g _ =>
    if (s.slot i).barAt.isSome then s
    else s.modPart (s.slot i).task.part fun v => match get? v.groups g.toNat with
      | some e => { v with groups := put v.groups g.toNat { e with a := e.a - 1 } }
      | none => v
  | _ => s

/-! Withdrawing a wait. -/

/-- A full/empty access that has not been served. -/
def Access.isFe (a : Access) : Bool :=
  match a.kind with
  | .ldf .. | .stf .. => true
  | _ => false

/-- R156, R167: the full/empty access that slot `i` waits for is withdrawn and its counter falls. -/
def State.withdrawFe (s : State) (i : Nat) : State :=
  match (s.slot i).pend.find? (·.isFe) with
  | none => s
  | some a =>
    let s := s.modMm fun m => { m with feq := m.feq.filter fun q => !(q.2.1 = i && q.2.2 = a.id) }
    (s.dropCnt i a.kind.cnt).modSlot i fun sl => { sl with pend := sl.pend.filter fun b => b.id ≠ a.id }

/-- R371, R379: the wait of a PARKED slot is withdrawn for a trap: a full/empty access at its home, the arrival of a BAR. -/
def State.withdrawWait (s : State) (i : Nat) : State :=
  match (s.slot i).park with
  | .feFull _ | .feEmpty _ => s.withdrawFe i
  | .bar .. => s.withdrawArrival i
  | _ => s

/-! Ending a task. -/

/-- R256: the first task of a launch to fault out, with the lowest TASK at equal core cycles. -/
def State.noteFault (s : State) (i : Nat) (code : TrapCode) (n : BitVec 8) : State :=
  let _ := code
  match (s.slot i).task.launch with
  | none => s
  | some l => s.modDisp fun d => match get? d.launches l with
    | none => d
    | some v =>
      let t := (s.slot i).task.task.toNat
      let new := match v.fault with
        | none => some (s.dclk, t, n)
        | some (c, u, m) => if c = s.dclk && t < u then some (c, t, n) else some (c, u, m)
      { d with launches := put d.launches l { v with fault := new } }

/-- R366: the number of a trap code. -/
def TrapCode.num : TrapCode → Nat
  | .illegalOp => 1 | .illegalLen => 2 | .illegalLine => 3 | .badPc => 4 | .privilege => 5 | .portRights => 6 | .misalign => 7
  | .translation => 8 | .protection => 9 | .poison => 10 | .feTimeout => 11 | .coproc => 12 | .tokenUnderflow => 13
  | .purity => 14 | .deadlock => 15 | .trapInsn => 16 | .sstep => 17 | .cancelled => 18

/-- R63: the slot goes to DRAIN: issue stops, and how the task ended is kept until it retires; until then it stays a member of its
groups (R258). -/
def State.endTask (s : State) (i : Nat) (e : Exit) : State :=
  let s := s.withdrawArrival i
  let s := match e with
    | .fault c => s.noteFault i c (BitVec.ofNat 8 c.num)
    | _ => s
  s.modSlot i fun sl => { sl with
    st := .drain, exit := e, park := .none, hold := .none, line := .none, req := .none, found := .none, look := .none, barAt := .none
    step := .none }

/-! Cancellation (R36, R63, R148, R187, R207). -/

/-- R185, R187: the queued matrix operations of slot `i` from issue order `from_` on are discarded: tl falls and their ring entries
are freed. A discarded release stays counted among those that issued (R170, log 66). -/
def State.dropMatrix (s : State) (i from_ : Nat) : State :=
  let k := i / 8
  let gone := (s.core k).mat.queue.filter fun q => q.slot = i && from_ ≤ q.order
  gone.foldl (init := s) fun s q =>
    (s.dropCnt i .tl).modCore k fun c => { c with
      ring := del c.ring q.seq
      mat := { c.mat with queue := c.mat.queue.filter fun r => r.order ≠ q.order } }

/-- The window that slot `i` holds, in its octet. -/
def State.window? (s : State) (i : Nat) : Option Nat :=
  ((s.oct (octetOf (i / 8))).wins.find? fun w => w.2.holder = some i).map (·.1)

/-- R131, R148: the long-mode commands of slot `i` that the unit has not started are discarded, and their ring entries freed. -/
def State.dropVector (s : State) (i : Nat) : State :=
  let o := octetOf (i / 8)
  match s.window? i with
  | none => s
  | some w =>
    let win := look (s.oct o).wins w { holder := none, regs := Vector.replicate 16 0, queue := [] }
    let s := win.queue.foldl (init := s) fun s q =>
      (s.modCore (i / 8) fun c => { c with ring := del c.ring q.cmd.seq }).modSlot i fun sl =>
        { sl with vbusy := sl.vbusy - 1
                  cnt := match q.cmd.instr with
                    | .vld .. | .vldx .. => sl.cnt.set .ld (sl.cnt.ld - 1)
                    | .vst .. | .vstx .. => sl.cnt.set .st (sl.cnt.st - 1)
                    | _ => sl.cnt }
    s.modOct o fun v => { v with wins := put v.wins w { win with queue := [] } }

/-- R207: the copy-engine requests of slot `i` still in its core's FIFO are discarded, and cp falls for each. -/
def State.dropCopies' (s : State) (i : Nat) : State :=
  let k := i / 8
  let gone := (s.core k).cpy.fifo.filter (·.slot = i)
  let s := gone.foldl (init := s) fun s _ => s.dropCnt i .cp
  s.modCore k fun c => { c with cpy := { c.cpy with fifo := c.cpy.fifo.filter (·.slot ≠ i) } }

/-- R63: the slots of core `k` parked at a port that is ready go on: a pop finds its word; a push tries its head again. -/
def State.wakePorts (s : State) (k : Nat) : State :=
  (coreSlots k).foldl (init := s) fun s i =>
    let net := (s.core k).net
    let ready := match (s.slot i).park with
      | .pop p => !(net.intake.getD (p - 28) []).isEmpty
      | .push p => decide ((net.outlet.getD (p - 28) []).length < 8)
      | _ => false
    let st : SlotSt := match (s.slot i).park with
      | .push _ => .stall
      | _ => .ready
    if ready && (s.slot i).st = .parked then s.modSlot i fun sl => { sl with st := st, park := .none } else s

/-- R83: the place in an outlet that slot `i`'s vector instruction held is given up. -/
def State.dropHeld (s : State) (i : Nat) : State :=
  if (s.core (i / 8)).net.outlet.toList.any (·.contains (.hold i)) then
    (s.modCore (i / 8) fun c => { c with
      net := { c.net with outlet := c.net.outlet.map fun l => l.filter (· ≠ .hold i) } }).wakePorts (i / 8)
  else s

/-- R36, R103, R148, R187, R207, R365: what is under way for the task of slot `i` is discarded, or goes on without a report. -/
def State.dropWork (s : State) (i : Nat) : State :=
  let k := i / 8
  let o := octetOf k
  -- an access that waited for a pool unit waits no longer (R331, R339)
  let s := match (s.slot i).task.evt with
    | some e => s.modPart (s.slot i).task.part fun v => { v with newt := { v.newt with
        pwait := v.newt.pwait.filter (· ≠ ((s.slot i).task.agent, e)) } }
    | none => s
  let s := s.withdrawFe i
  let s := (s.dropMatrix i 0).dropVector i
  let s := s.dropCopies' i
  let s := s.modOct o fun v => { v with
    lvRun := v.lvRun.map fun r => if r.cmd.slot = i then { r with dead := true } else r
    cpy := { v.cpy with flight := v.cpy.flight.map fun r => if r.req.slot = i then { r with req := { r.req with dead := true } } else r }
    mat := { v.mat with
      l0 := { v.mat.l0 with run := v.mat.l0.run.map fun r => if r.2.op.slot = i then (r.1, { r.2 with quiet := true }) else r }
      l1 := { v.mat.l1 with run := v.mat.l1.run.map fun r => if r.2.op.slot = i then (r.1, { r.2 with quiet := true }) else r } } }
  let s := s.modCore k fun c => { c with
    mat := { c.mat with run := c.mat.run.map fun r => if r.op.slot = i then { r with quiet := true } else r }
    ring := c.ring.map fun e => if e.2.slot = i then (e.1, { e.2 with fault := false }) else e
    net := { c.net with coll := c.net.coll.map fun q => if q.slot = i then { q with dead := true } else q } }
  let s := s.modNet fun n => { n with
    wakes := mapVals (fun _ w => if w.sender = i then { w with dead := true } else w) n.wakes
    colls := mapVals (fun _ c => { c with members := c.members.map fun m =>
      { m with post := m.post.map fun q => if q.slot = i then { q with dead := true } else q } }) n.colls }
  -- an instruction in the latch is discarded, with the place that its word has in an outlet; a queued command is dropped above
  match (s.slot i).latch with
  | some l =>
    let s := if l.long && !l.sent then
        (s.modCore k fun c => { c with ring := del c.ring l.seq }).modSlot i fun sl => { sl with
          vbusy := sl.vbusy - 1
          cnt := match l.instr with
            | .vld .. | .vldx .. => sl.cnt.set .ld (sl.cnt.ld - 1)
            | .vst .. | .vstx .. => sl.cnt.set .st (sl.cnt.st - 1)
            | _ => sl.cnt }
      else s
    (s.modSlot i fun sl => { sl with latch := none }).dropHeld i
  | none => s

/-- The code of a raised late trap (R371). -/
def Late.code : Late → TrapCode
  | .poison .. => .poison
  | .access c .. => c
  | .coproc .. | .engine .. => .coproc
  | .deadlock _ => .deadlock

/-- R36, R63: the task of slot `i` ends with CANCELLED; a pending trap is discarded, and its code is recorded in the trap record's
operand field. -/
def State.stopTask (s : State) (i : Nat) : State :=
  let sl := s.slot i
  if sl.st = .idle || sl.exit = .cancelled then s
  else
    let pending := match sl.late, sl.found with
      | t :: _, _ => some t.code
      | [], some f => some f.code
      | [], none => none
    let s := s.dropWork i
    let s := s.modSlot i fun sl => { sl with
      late := []
      trap := match pending with
        | some c => sl.trap.setIfInBounds 4 (BitVec.ofNat 64 c.num)
        | none => sl.trap }
    s.endTask i .cancelled

/-- R62: slot `i` of another core may still have its turn of this core cycle, while a slot has its own. -/
def State.turnAhead (s : State) (i : Nat) : Bool := s.sched.inTurn && i ≠ s.cur && !s.sched.turned.contains (i / 8)

/-- R36, R62, R63: the task of slot `i` is cancelled: at once, or after the turns of this core cycle where the slot has still to have its
own, which an event of the same core cycle does not decide. -/
def State.cancelTask (s : State) (i : Nat) : State :=
  if s.turnAhead i then s.modSched fun c => { c with stops := insertNat i c.stops } else s.stopTask i

/-- R62: the slots that the turns cancelled before their own turn are stopped. -/
def State.stopLate (s : State) : State :=
  s.sched.stops.foldl (init := s.modSched fun c => { c with stops := [] }) State.stopTask

/-- R284: a task of a pure launch breaks purity: every task of the launch is stopped, the packet's digest joins the tenant's demoted
set (64 digests, the oldest replaced first), and the launch is placed again when its last task has retired. -/
def State.breakPurity (s : State) (i : Nat) : State :=
  match (s.slot i).task.launch with
  | none => s.cancelTask i
  | some l =>
    let s := s.slotNums.foldl (init := s) fun s j => if (s.slot j).task.launch = some l && (s.slot j).live then s.cancelTask j else s
    match get? s.disp.launches l with
    | none => s
    | some v =>
      let dig : BitVec 128 := BitVec.ofNat 128 (bytesNat ((v.pkt.bytes.drop 0x30).take 16))
      let t := v.tenant.toNat
      let s := s.modDisp fun d => { d with launches := put d.launches l { v with purity := true } }
      s.modPw fun w =>
        let e := look w.tenants t { quota := 0, demoted := [], lookups := 0, hits := 0, inserts := 0, invalidated := 0, skipped := 0 }
        let dem := if e.demoted.contains dig then e.demoted else e.demoted ++ [dig]
        { w with tenants := put w.tenants t { e with demoted := dem.drop (dem.length - 64) } }

/-! Taking an exception (R366 to R371, R416). -/

def Level.num : Level → Nat
  | .u => 0 | .s => 1 | .m => 2

def Level.ofNum (n : Nat) : Level :=
  match n with
  | 0 => .u | 1 => .s | _ => .m

def Slot.inh (sl : Slot) : Bool := sl.ctl.est.getLsbD 2

def Slot.dlg (sl : Slot) : Bool := sl.ctl.est.getLsbD 3

/-- EST with DLG, INH and PLV (R76). -/
def estOf (dlg inh : Bool) (plv : Nat) : BitVec 4 :=
  BitVec.ofNat 4 (plv + (if inh then 4 else 0) + (if dlg then 8 else 0))

/-- R367: the trap record. -/
def trapRecord (i : Nat) (sl : Slot) (t : Trap) (dbl dlg : Bool) (dclk : Nat) : Vector Word 8 :=
  let w0 := (t.task.toNat % 2 ^ 32) * 2 ^ 32 + (i % 8) * 2 ^ 13 + (if dbl then 2 ^ 12 else 0) + (if t.late then 2 ^ 11 else 0)
    + (if dlg then 2 ^ 10 else 0) + sl.lv.num * 2 ^ 8 + t.code.num
  #v[BitVec.ofNat 64 w0, t.pc, t.addr, BitVec.ofNat 64 t.seq, t.ops, t.epc, BitVec.ofNat 64 dclk,
     BitVec.ofNat 64 (i % 65536 + 65536 * (sl.task.part % 16))]

/-- R46: the slot is to enter the line of `pc`; `from_` is what the record of a fault met there holds (R60). -/
def Slot.enter (sl : Slot) (pc from_ : Word) : Slot :=
  { sl with pc := pc, line := .none, from_ := from_, via := .none }

/-- R101: PTBASE, TVEC and TDELEG as they stand in core cycle `c`: a SETC's value stands from the core cycle after it. -/
def Part.ctlAt (v : Part) (c : Nat) : Word × Word × Word :=
  match v.ctlOld with
  | some (t, old) => if t = c then old else (v.ptbase, v.tvec, v.tdeleg)
  | none => (v.ptbase, v.tvec, v.tdeleg)

/-- TVEC of the partition of slot `i`'s task. -/
def State.tvecOf (s : State) (i : Nat) : Word := ((s.part? (s.slot i).task.part).map fun v => (v.ctlAt s.dclk).2.1).getD 0

/-- TDELEG of the partition of slot `i`'s task. -/
def State.tdelegOf (s : State) (i : Nat) : Word := ((s.part? (s.slot i).task.part).map fun v => (v.ctlAt s.dclk).2.2).getD 0

/-- R368: a trap of slot `i` goes to the task's own handler. -/
def State.delegated (s : State) (i : Nat) (c : TrapCode) : Bool :=
  (s.slot i).lv = .u && (s.tdelegOf i).getLsbD c.num && (s.slot i).ctl.utvec ≠ 0

/-- The slot with its trap record written and its wait ended. -/
def Slot.recorded (sl : Slot) (r : Vector Word 8) : Slot :=
  { sl with
    trap := r, st := .ready, park := .none, hold := .none, req := .none, found := .none, look := .none, barAt := .none, line := .none }

/-- R368: the slot goes on in a handler at `pc`, at level `lv`. -/
def Slot.handle (sl : Slot) (pc epc : Word) (est : BitVec 4) (lv : Level) : Slot :=
  { sl.enter pc sl.pc with lv := lv, ctl := { sl.ctl with epc := epc, est := est } }

/-- R368, R416: slot `i` takes the trap `t`, which is delivered, or makes the task fault out. -/
def State.deliver (s : State) (i : Nat) (t : Trap) : State :=
  let sl := s.slot i
  let u := s.delegated i t.code && !sl.inh
  let s' := s.modSlot i fun v => v.recorded (trapRecord i sl t sl.inh u s.dclk)
  if sl.inh then s'.endTask i (.fault t.code)
  else if sl.lv = .m then s'.modSlot i fun v => { v.handle t.epc t.epc (estOf false true 2) .m with st := .stall, hold := .mgmt }
  else if u then s'.modSlot i fun v => v.handle sl.ctl.utvec t.epc (estOf true true 0) .u
  else if s.tvecOf i ≠ 0 then s'.modSlot i fun v => v.handle (s.tvecOf i) t.epc (estOf false true sl.lv.num) .s
  else s'.endTask i (.fault t.code)

/-- R284, R368: slot `i` takes the trap `t`; PURITY is never delivered. -/
def State.takeTrap (s : State) (i : Nat) (t : Trap) : State :=
  if t.code = .purity then s.breakPurity i else s.deliver i t

/-- R60: an exact trap of the head that slot `i` issues. -/
def State.trapAt (s : State) (i : Nat) (code : TrapCode) (addr : Word := 0) (ops : Word := 0) : State :=
  let sl := s.slot i
  s.takeTrap i { code := code, pc := sl.pc, addr := addr, ops := ops, epc := sl.pc, task := sl.task.task }

/-- R76: the return from a trap handler. R60 gives ADDR, for a fault that the line of the new PC meets, as the PC of the ERET; DESIGN CHOICE
(log 61): where the management controller resumes the slot (R416) and there is no ERET, it is the PC at which the slot stood. -/
def State.returnTrap (s : State) (i : Nat) : State :=
  s.modSlot i fun sl => { sl.enter sl.ctl.epc sl.pc with
    st := .ready, hold := .none, lv := Level.ofNum (fld sl.ctl.est 1 0)
    ctl := { sl.ctl with est := sl.ctl.est &&& 3 } }

/-! Completing a head. -/

/-- R372: the slot takes SSTEP after each head. -/
def Slot.steps (sl : Slot) : Bool := sl.ctl.dbgSs && !sl.inh

/-- R372: SSTEP after a head completes. -/
def State.stepTrap (s : State) (i : Nat) (pc : Word) : State :=
  let sl := s.slot i
  if sl.steps then
    s.takeTrap i { code := .sstep, pc := pc, epc := sl.pc, task := sl.task.task }
  else s

/-- Slot `i` goes on at `target` (R43, R44, R46); `via` is the PC of its head where that is a branch that is taken (R73). -/
def State.goTo (s : State) (i : Nat) (target : Word) (via : Option Word := none) : State :=
  let pc := (s.slot i).pc
  s.modSlot i fun sl => { sl with
    st := .ready, pc := target, park := .none, hold := .none, req := .none, found := .none, barAt := .none
    from_ := if fld pc 63 6 = fld target 63 6 then sl.from_ else pc
    via := if fld pc 63 6 = fld target 63 6 then via else .none
    line := if fld pc 63 6 = fld target 63 6 then sl.line else .none }

/-- The head of slot `i` completes and the slot goes on at `target`. -/
def State.finishTo (s : State) (i : Nat) (target : Word) (via : Option Word := none) : State :=
  (s.goTo i target via).stepTrap i (s.slot i).pc

/-- The head of slot `i` completes and the slot goes on at its next PC. -/
def State.complete (s : State) (i : Nat) : State := s.finishTo i (s.slot i).npc

/-- R157, R372: the head of slot `i`, a counted read, has issued: until the slot's next turn it may still take POISON exactly, and with it no
SSTEP, so that its SSTEP waits until then (DEDUCED, log 77). -/
def State.completeRead (s : State) (i : Nat) : State :=
  let sl := s.slot i
  let t := s.goTo i sl.npc
  if sl.steps then t.modSlot i fun v => { v with step := some (s.dclk, sl.pc) } else t

/-- R372: the SSTEP that waits for the outcome of a counted read is taken, as in the core cycle in which the read issued, unless the read took
POISON before the slot's next turn (R157). -/
def State.takeStep (s : State) (i : Nat) : State :=
  match (s.slot i).step with
  | none => s
  | some (c, pc) =>
    let own (t : Late) : Bool := match t with
      | .poison p _ exact => exact && p = pc
      | _ => false
    let s := s.modSlot i fun sl => { sl with step := none }
    if (s.slot i).late.any own then s else { ({ s with dclk := c } : State).stepTrap i pc with dclk := s.dclk }

/-- R63: the head of slot `i` cannot issue at this turn. -/
def State.stallHead (s : State) (i : Nat) : State := s.modSlot i fun sl => { sl with st := .stall }

/-- The slot waits in STALL for a happening, and tries its head again then. -/
def State.stallFor (s : State) (i : Nat) (r : Req) : State :=
  s.modSlot i fun sl => { sl with st := .stall, req := some r }

/-- The slot has issued its head and stays in STALL until the head completes. -/
def State.holdFor (s : State) (i : Nat) (h : Hold) : State :=
  s.modSlot i fun sl => { sl with st := .stall, hold := h }

/-- R63, R89: the slot parks. -/
def State.parkOn (s : State) (i : Nat) (p : Park) : State :=
  s.modSlot i fun sl => { sl with st := .parked, park := p, parkedAt := s.dclk, feLimit := sl.ctl.fewait }

/-- R63, R166: a WAITING slot whose counters are all within its limits goes on. -/
def State.settle (s : State) (i : Nat) : State :=
  let sl := s.slot i
  if sl.st = .waiting && sl.cnt.le sl.waitFor then
    match sl.hold with
    | .evdone => if sl.vbusy = 0 then s.modSlot i fun sl => { sl with st := .ready, hold := .none } else s
    | _ => s.complete i
  else s

/-- An operation counted in `w` is performed (R86). -/
def State.decCnt (s : State) (i : Nat) (w : Cnt) : State := (s.dropCnt i w).settle i

/-! Mailboxes (R197, R201). -/

/-- A message is posted to slot `i`'s mailbox; a slot parked by WFM goes on. -/
def State.postMsg (s : State) (i : Nat) (m : Msg) : State :=
  let s := s.modSlot i fun sl => { sl with mbox := sl.mbox ++ [m], mboxRsv := sl.mboxRsv - 1 }
  match (s.slot i).park with
  | .wfm => if (s.slot i).st = .parked then s.complete i else s
  | _ => s

/-! Ports (R83 to R85). -/

/-- The port number that a register field names. -/
def portOf : Reg → Option Nat
  | .x _ => none
  | .y n => if 28 ≤ n.toNat then some n.toNat else none

/-- R84: who may use the ports: slot 7, a handler slot's task, code at S or M. -/
def Slot.portRights (i : Nat) (sl : Slot) : Bool :=
  i % 8 = 7 || sl.task.evt.isSome || sl.lv ≠ .u

/-- What the port rules say of an instruction's register fields. -/
inductive PortRes where
  | ok
  | trap (c : TrapCode)
  | block (p : Park)
deriving DecidableEq, Repr

/-- R84, R85: rights, then purity, then the first blocked port, pops before pushes. -/
def State.portCheck (s : State) (i : Nat) (srcs dsts : List Reg) : PortRes :=
  let pops := srcs.filterMap portOf
  let pushes := dsts.filterMap portOf
  let sl := s.slot i
  if pops.isEmpty && pushes.isEmpty then .ok
  else if !sl.portRights i || pushes.contains 31 then .trap .portRights
  else if sl.task.pure then .trap .purity
  else
    let net := (s.core (i / 8)).net
    match [28, 29, 30].find? fun p => pops.contains p && (net.intake.getD (p - 28) []).isEmpty with
    | some p => .block (.pop p)
    | none => match [28, 29, 30].find? fun p => pushes.contains p && 8 ≤ (net.outlet.getD (p - 28) []).length with
      | some p => .block (.push p)
      | none => .ok

/-- R85: every port that is named as a source is popped once. -/
def State.popPorts (s : State) (i : Nat) (srcs : List Reg) : State :=
  let pops := srcs.filterMap portOf
  [28, 29, 30].foldl (init := s) fun s p =>
    if pops.contains p then
      s.modCore (i / 8) fun c => { c with net := { c.net with
        intake := c.net.intake.setIfInBounds (p - 28) ((c.net.intake.getD (p - 28) []).drop 1) } }
    else s

/-- The register fields of a head: the port rules, then its own effect. -/
def State.withRegs (s : State) (i : Nat) (srcs dsts : List Reg) (go : State → State) : State :=
  match s.portCheck i srcs dsts with
  | .trap c => s.trapAt i c
  | .block p => s.parkOn i p
  | .ok => go s

/-- The head pops its source ports, writes `v` to its destination and completes. -/
def State.writeDone (s : State) (i : Nat) (srcs : List Reg) (d : Reg) (v : Word) : State :=
  ((s.popPorts i srcs).writeReg i d v).complete i

/-- R92: a fixed-latency instruction that computes `f` of its sources. -/
def State.compute (s : State) (srcs : List Reg) (d : Reg) (v : State → Word) : State :=
  s.withRegs s.cur srcs [d] fun s => s.writeDone s.cur srcs d (v s)

/-- The value of register field `r` for the instruction that runs. -/
def State.rv (s : State) (r : Reg) : Word := s.reg s.cur r

/-- The outcome of an instruction: always a next state. -/
abbrev Out := Host.Outcome State Fault Refusal

/-- R33: an instruction marked S takes PRIVILEGE below S. -/
def State.needS (s : State) (go : State → State) : State :=
  if (s.slot s.cur).lv = .u then s.trapAt s.cur .privilege else go s

/-- R283: an instruction that a pure task may not issue takes PURITY. -/
def State.needImpure (s : State) (go : State → State) : State :=
  if (s.slot s.cur).task.pure then s.trapAt s.cur .purity else go s

end Sys2Proof.Machine
end

