-- ==== Sys2Proof/Machine/Flags.lean ====
section
/-!
DEFINITION. The conditions that branches test. The hardware has no condition flags: a branch compares two registers, or one with zero
(R71); the compares write registers (R93) or lanes (R137).
-/

namespace Sys2Proof.Machine

/-- R71: whether a branch condition holds of a and b. -/
def condHolds (c : Cond) (a b : Word) : Bool :=
  match c with
  | .eq => a == b
  | .ne => a != b
  | .lt => a.slt b
  | .ge => !a.slt b
  | .gt => b.slt a
  | .le => !b.slt a
  | .ltn => decide (a < b)
  | .gen => !decide (a < b)
  | .gtn => decide (b < a)
  | .len => !decide (b < a)

end Sys2Proof.Machine
end

