-- ==== Sys2Proof/Machine/Llc.lean ====
section
/-!
DEFINITION. The cache role of a core's banks (R152), which holds the lines that are present and their state, and what a read of a core or
of a unit finds (R226, R238).
-/

namespace Sys2Proof.Machine

/-! The cache role (R152). -/

/-- The banks of core `k` in the cache role. -/
def State.cacheBanks (s : State) (k : Nat) : List Nat := (List.range 32).filter fun b => s.role k b = 1

/-- The line `pa` in the cache role of core `k`. -/
def State.cached? (s : State) (k pa : Nat) : Option CLine := (s.core k).cache.find? fun l => l.pa = pa

/-- R152: a load or line entry of core `k` places line `pa`, in the least recently used way of its set, or uses it; the line's set is its
number modulo the 32 lines of a bank (log 14). A dirty line it replaces is written back. -/
def State.cachePlace (s : State) (k pa : Nat) (h : Hint) (tenant : BitVec 16) : State :=
  let c := s.core k
  let banks := s.cacheBanks k
  let sameSet (l : CLine) : Bool := l.pa / 128 % 32 = pa / 128 % 32
  let fresh (b : Nat) (rest : List CLine) : CoreState :=
    CoreState.useLine { c with cache := { pa := pa, bank := b, dirty := false, owned := false } :: rest } pa h
  if h = .na || banks.isEmpty then s
  else if (s.cached? k pa).isSome then s.setCore k (c.useLine pa h)
  else
    let set := c.cache.filter sameSet
    match banks.find? fun b => !(set.any fun l => l.bank = b) with
    | some b => s.setCore k (fresh b c.cache)
    | none => match set.getLast? with
      | none => s
      | some v =>
        let s := (s.setCore k (fresh v.bank (c.cache.filter fun m => m.pa ≠ v.pa))).settleHome v.pa
        if v.dirty then s.llcAccess v.pa .none tenant true else s

/-! Views of a line (R226, R238). -/

/-- R238: a read at `a` of core `k`, or of a unit of no core, is served at the LLC home with no recall: its page has C = 0, and the core
itself holds no newer bytes of the line (log 11). -/
def State.readsHome (s : State) (k : Option Nat) (cached : Bool) (a : Nat) : Bool :=
  !cached && isDev a && !(k.any fun k => (s.core k).holdsDirty (lineAddr a))

/-- R226, R238: the `n` bytes at `a`, in one line, as a read of core `k` finds them. -/
def State.viewBytes (s : State) (k : Option Nat) (cached : Bool) (a n : Nat) : List Byte :=
  if s.readsHome k cached a then (s.rdHome a n).map (·.1) else s.rdBytes a n

/-- R157, R238: some of the words that the read finds is poisoned. -/
def State.viewPoison (s : State) (k : Option Nat) (cached : Bool) (a n : Nat) : Bool :=
  if s.readsHome k cached a then (s.rdHome a n).any (·.2) else s.poisoned a n

end Sys2Proof.Machine
end

