-- ==== Sys2Proof/Machine/Xlate.lean ====
section
/-!
DEFINITION. Address translation (R215 to R218), the local-memory windows (R27, R28) with the bank roles (R150), and the regions of a
pure task (R283).
-/

namespace Sys2Proof.Machine

/-- What an access needs of a page. -/
inductive Acc where
  | r | w | x | rw
deriving DecidableEq, Repr

def Acc.reads : Acc → Bool
  | .r | .rw => true
  | _ => false

def Acc.writes : Acc → Bool
  | .w | .rw => true
  | _ => false

/-- A number for what is needed, as a stalled slot's walk records it. -/
def Acc.code : Acc → Nat
  | .r => 0 | .w => 1 | .x => 2 | .rw => 3

def Acc.ofCode (n : Nat) : Acc :=
  match n with
  | 0 => .r | 1 => .w | 2 => .x | _ => .rw

/-- Where an address leads. -/
structure Phys where
  pa : Nat                               -- the bytes' physical address
  place : Place
  word : Nat                             -- in local memory: the bank address (for a mapped stash bank too); else 0
  leaf : Option Leaf                     -- the page, for device and host memory
  stash : Option (Nat × Nat)             -- a mapped stash bank of the own core: the bank, and the offset in it
deriving DecidableEq, Repr

/-- The result of a translation: a place, a fault with its ADDR and OPS, or a TLB miss. -/
inductive Xl where
  | ok (p : Phys)
  | fault (c : TrapCode) (addr ops : Word)
  | miss
deriving DecidableEq, Repr

/-- R218: operands bits 10:8 hold the level, bits 7:0 the reason. -/
def reasonOps (reason level : Nat) : Word := BitVec.ofNat 64 (level * 256 + reason)

/-- Bits of a page-table entry (R215). -/
def pteLeaf (e : Word) (level : Nat) (base : Nat) : Leaf :=
  { pbase := base, tgt := fld e 11 10, level := level, sealed_ := e.getLsbD 9, ver := e.getLsbD 8, c := e.getLsbD 6
    u := e.getLsbD 5, x := e.getLsbD 4, w := e.getLsbD 3, r := e.getLsbD 2, scnt := fld e 63 56 }

/-- A walk's end: a leaf with the range it covers, or a fault. -/
inductive Walk where
  | leaf (t : Tlb)
  | fault (c : TrapCode) (addr ops : Word)
deriving DecidableEq, Repr

/-- The index of `va` at `level` (R215). -/
def walkIndex (va : Word) (level : Nat) : Nat :=
  match level with
  | 1 => fld va 55 43
  | 2 => fld va 42 34
  | 3 => fld va 33 25
  | _ => fld va 24 16

/-- A leaf entry is checked (R215, R217). -/
def leafEnd (part : Nat) (va e : Word) (level : Nat) : Walk :=
  let size := if level = 3 then 2 ^ 25 else if e.getLsbD 7 then 2 ^ 21 else 2 ^ 16
  let base := fld e 55 12 * 4096
  let tgt := fld e 11 10
  if base % size ≠ 0 || tgt = 3 || (tgt = 0 && devEnd < base + size) then .fault .translation va (reasonOps 3 level)
  else .leaf { part := part, vbase := (va.toNat / size) * size, size := size, leaf := pteLeaf e level base }

/-- R217: one level of a walk; `left` levels are to be read. A table beyond device memory reads as zero (log 12). DESIGN CHOICE (log 76): ADDR
of a POISON met in an entry is the entry's address (R217) for the walk of a line entry too, for whose faults R60 gives another. -/
def State.walkFrom (s : State) (part : Nat) (va : Word) : Nat → Nat → Walk
  | 0, _ => .fault .translation va (reasonOps 3 4)
  | left + 1, table =>
    let level := 4 - left
    let ea := table + 8 * walkIndex va level
    if isDev ea && s.poisoned ea 8 then .fault .poison (BitVec.ofNat 64 ea) (reasonOps 0 level)
    else
      let e := if isDev ea then s.rdWord ea else 0
      if !e.getLsbD 0 then .fault .translation va (reasonOps 2 level)
      else if e.getLsbD 1 then
        if level = 4 || fld e 11 2 ≠ 0 || fld e 63 56 ≠ 0 then .fault .translation va (reasonOps 3 level)
        else s.walkFrom part va left (fld e 55 12 * 4096)
      else if level ≤ 2 then .fault .translation va (reasonOps 3 level)
      else leafEnd part va e level

/-- R217: the walk of `va` for partition `p` from the L1 table that the PTBASE value `root` names. -/
def State.walkAt (s : State) (root : Word) (p : Nat) (va : Word) : Walk := s.walkFrom p va 4 (fld root 55 16 * 65536)

/-- R101, R216: the PTBASE that a walk of partition `p` begun now uses. -/
def State.rootOf (s : State) (p : Nat) : Word := ((s.part? p).map fun v => (v.ctlAt s.dclk).1).getD 0

/-- R215 to R217: a walk of `va` for partition `p`, begun now. -/
def State.walk (s : State) (p : Nat) (va : Word) : Walk :=
  match s.part? p with
  | none => .fault .translation va (reasonOps 2 1)
  | some _ => s.walkAt (s.rootOf p) p va

/-- R217: the addresses of the entries that a walk reads. -/
def State.walkReads (s : State) (va : Word) : Nat → Nat → List Nat
  | 0, _ => []
  | left + 1, table =>
    let ea := table + 8 * walkIndex va (4 - left)
    if !isDev ea then []
    else
      let e := s.rdWord ea
      ea :: if !s.poisoned ea 8 && e.getLsbD 0 && e.getLsbD 1 then s.walkReads va left (fld e 55 12 * 4096) else []

/-- R209, R217: a walk from `root` reads its entries through the LLC with hint 0; its lines carry tenant 0 (log 15). -/
def State.walked (s : State) (root va : Word) : State :=
  (s.walkReads va 4 (fld root 55 16 * 65536)).foldl (init := s) fun s ea =>
    (s.cleanCopies (lineAddr ea) none).llcAccess (lineAddr ea) .none 0 false

/-- R239: an entry that the walk reads lies in a page that is in a flip, so that the walk waits. -/
def State.walkBusy (s : State) (root va : Word) : Bool := (s.walkReads va 4 (fld root 55 16 * 65536)).any s.pageBusy

def tlbFind (l : List Tlb) (p : Nat) (va : Word) : Option Tlb :=
  l.find? fun t => t.part = p && t.vbase ≤ va.toNat && va.toNat < t.vbase + t.size

/-- The TLB entry that covers `va`, in the octet's TLB or the die's (R218). -/
def State.tlb? (s : State) (k p : Nat) (va : Word) : Option Tlb :=
  match tlbFind (s.oct (octetOf k)).tlb p va with
  | some t => some t
  | none => tlbFind (s.die (stackOf k)).tlb p va

/-- The entry `t` as the most recently used of `n` at most. -/
def tlbFront (n : Nat) (t : Tlb) (l : List Tlb) : List Tlb :=
  (t :: l.filter fun u => !(u.part = t.part && u.vbase = t.vbase)).take n

/-- R218: a successful walk places its leaf in both TLBs that core `k` uses (64 and 16,384 entries). -/
def State.tlbPlace (s : State) (k : Nat) (t : Tlb) : State :=
  (s.modOct (octetOf k) fun o => { o with tlb := tlbFront 64 t o.tlb }).modDie (stackOf k) fun d => { d with tlb := tlbFront 16384 t d.tlb }

/-- R218: an access of core `k` uses the TLB entry that covers `va`: it becomes the most recently used of the octet's TLB, or of the
die's, from which the octet's takes it. -/
def State.tlbUse (s : State) (k p : Nat) (va : Word) : State :=
  match tlbFind (s.oct (octetOf k)).tlb p va with
  | some t => s.modOct (octetOf k) fun o => { o with tlb := tlbFront 64 t o.tlb }
  | none => match tlbFind (s.die (stackOf k)).tlb p va with
    | some t => s.tlbPlace k t
    | none => s

/-- R217: R, W, X, U and SEALED of a leaf. -/
def leafCheck (lv : Level) (acc : Acc) (va : Word) (l : Leaf) : Option (TrapCode × Word × Word) :=
  if (acc.reads && !l.r) || (acc.writes && !l.w) || (acc = .x && !l.x) || (lv = .u && !l.u) then
    some (.protection, va, reasonOps 4 l.level)
  else if acc.writes && l.sealed_ then some (.protection, va, reasonOps 5 l.level)
  else none

/-- The place that a leaf gives `va`. -/
def leafPhys (va : Word) (t : Tlb) : Phys :=
  let a := t.leaf.pbase + (va.toNat - t.vbase)
  match t.leaf.tgt with
  | 0 => { pa := a, place := .dev, word := 0, leaf := some t.leaf, stash := none }
  | 1 => { pa := hostBase + a, place := .hostC, word := 0, leaf := some t.leaf, stash := none }
  | _ => { pa := hostBase + a, place := .hostP, word := 0, leaf := some t.leaf, stash := none }

/-- R150: a local-memory address, met by an access of core `k`; `foreign` for an access from another core. -/
def State.bankCheck (s : State) (a : Nat) (va : Word) (foreign : Bool) : Xl :=
  let k := lmCore a
  let b := lmBank a
  let place : Place := if foreign then .otherLm else .ownLm
  let plain : Xl := .ok { pa := a, place := place, word := a, leaf := none, stash := none }
  let refuse : Xl := .fault .protection va (reasonOps 9 0)
  match s.role k b with
  | 0 | 3 => plain
  | 2 =>
    let bank := look (s.core k).stash b { base := 0, hint := .none, lines := [] }
    if foreign || bank.base = 0 then refuse
    else
      let ln := (lmOff a % 0x1000) / 128
      let pa := match get? bank.lines ln with
        | some l => l.1 + a % 128
        | none => a
      .ok { pa := pa, place := .ownLm, word := a, leaf := none, stash := some (b, lmOff a % 0x1000) }
  | _ => refuse

/-- R27, R28, R150: an address in the local-memory region. -/
def State.window (s : State) (k p : Nat) (va : Word) : Xl :=
  let v := va.toNat
  if v < lmEnd then
    let t := (v - lmBase) / 0x20000
    if t = k then s.bankCheck v va false
    else if s.corePart t = some p then s.bankCheck v va true
    else .fault .protection va (reasonOps 8 0)
  else if 0x00FFFF0000000000 ≤ v && v < 0x00FFFF0000020000 then
    s.bankCheck (lmAddr k (v - 0x00FFFF0000000000)) va false
  else .fault .translation va (reasonOps 11 0)

/-- Whether `va` lies in the local-memory region (R27). -/
def inWindows (va : Word) : Bool := fld va 63 48 = 0x00FF

/-- R217: the translation of a data access or a line entry of core `k` for partition `p` at level `lv`. -/
def State.xlate (s : State) (k p : Nat) (lv : Level) (acc : Acc) (va : Word) : Xl :=
  if fld va 63 56 ≠ 0 then .fault .translation va (reasonOps 1 0)
  else if inWindows va then
    if acc = .x then .fault .translation va (reasonOps 11 0) else s.window k p va
  else
    match s.tlb? k p va with
    | none => .miss
    | some t => match leafCheck lv acc va t.leaf with
      | some (c, a, o) => .fault c a o
      | none => .ok (leafPhys va t)

/-- R217: a walk's end for an access: its leaf is placed in core `k`'s TLBs only where the access may use it. -/
def State.endWalk (s : State) (k : Nat) (lv : Level) (acc : Acc) (va : Word) : Walk → Except (TrapCode × Word × Word) (Phys × State)
  | .fault c a o => .error (c, a, o)
  | .leaf t => match leafCheck lv acc va t.leaf with
    | some f => .error f
    | none => .ok (leafPhys va t, s.tlbPlace k t)

/-- The same for an engine, a descriptor read or an access checked at level S: a miss walks at once (R217, R418). -/
def State.xlateNow (s : State) (k p : Nat) (lv : Level) (acc : Acc) (va : Word) : Xl × State :=
  match s.xlate k p lv acc va with
  | .miss =>
    let w := s.walk p va
    let s := (s.meetFlip (s.walkBusy (s.rootOf p) va)).walked (s.rootOf p) va
    match s.endWalk k lv acc va w with
    | .error (c, a, o) => (.fault c a o, s)
    | .ok (q, s) => (.ok q, s)
  | .ok q => (.ok q, if q.leaf.isSome then s.tlbUse k p va else s)
  | r => (r, s)

/-! Pure tasks (R283). -/

/-- The TLB entry that covers `va`, or the leaf that a walk begun now would find. -/
def State.leafOf (s : State) (k p : Nat) (va : Word) : Option Tlb :=
  match s.tlb? k p va with
  | some t => some t
  | none => match s.walk p va with
    | .leaf t => some t
    | .fault .. => none

/-- R218: the translation of `va` for core `k` with no check of what an access needs: a TLB entry, used, or a walk, whose leaf is placed. -/
def State.leafNow (s : State) (k p : Nat) (va : Word) : Option Tlb × State :=
  if fld va 63 56 ≠ 0 || inWindows va then (none, s)
  else match s.tlb? k p va with
    | some t => (some t, s.tlbUse k p va)
    | none =>
      let w := s.walk p va
      let s := (s.meetFlip (s.walkBusy (s.rootOf p) va)).walked (s.rootOf p) va
      match w with
      | .leaf t => (some t, s.tlbPlace k t)
      | .fault .. => (none, s)

/-- R283: every byte from `pos` to `last` (exclusive) lies where a pure task may read (or write): in a region, or, for a read, in a sealed
page or, where `code`, an executable one. -/
def State.pureCover (s : State) (i : Nat) (write code : Bool) : Nat → Nat → Nat → Bool
  | 0, pos, last => decide (last ≤ pos)
  | fuel + 1, pos, last =>
    if last ≤ pos then true
    else
      let t := (s.slot i).task
      match t.regions.find? fun r => r.write = write && r.base ≤ pos && pos < r.base + r.bytes with
      | some r => s.pureCover i write code fuel (r.base + r.bytes) last
      | none =>
        if write then false
        else match s.leafOf (i / 8) t.part (BitVec.ofNat 64 pos) with
          | none => false
          | some e => (e.leaf.sealed_ || (code && e.leaf.x)) && s.pureCover i write code fuel (e.vbase + e.size) last

/-- R283: whether slot `i`, in pure mode, may access `n` bytes at `va`. -/
def State.pureCheck (s : State) (i : Nat) (write : Bool) (va : Word) (n : Nat) : Bool :=
  let v := va.toNat
  let own (a : Nat) : Bool := decide (a ≤ v) && decide (v + n ≤ a + 0x20000)
  own 0x00FFFF0000000000 || own (lmAddr (i / 8) 0) ||
  (!inWindows va && fld va 63 56 = 0 && s.pureCover i write true ((s.slot i).task.regions.length + n / 65536 + 2) v (v + n))

end Sys2Proof.Machine
end

