-- ==== Sys2Proof/Machine/Fetch.lean ====
section
/-!
DEFINITION. Entering an instruction line, and reading the head at the PC (R41 to R49, R58 to R60).
-/

namespace Sys2Proof.Machine

/-- R43: the next PC of a head in a line of `h` heads. -/
def nextPc (pc : Word) (h : Nat) : Word :=
  if fld pc 5 0 < h then pc + 1 else BitVec.ofNat 64 ((fld pc 63 6 + 1) * 64 + 1)

/-- R44: the target of a branch at `pc`. -/
def branchTarget (pc : Word) (off : BitVec 11) (hd : BitVec 5) : Word :=
  ((pc >>> 6) + off.signExtend 64) <<< 6 ||| hd.setWidth 64

/-- The byte address of the line of `pc` (R42). -/
def lineVa (pc : Word) : Word := pc &&& ~~~ (0x3F : Word)

/-- R49: the line becomes the most recently entered of the core's 64. -/
def CoreState.placeLine (c : CoreState) (pa : Nat) : CoreState :=
  { c with lineBuf := (pa :: c.lineBuf.filter (· ≠ pa)).take 64 }

/-- A trap found on entering a line: the line's address is the record's address (R60). -/
def State.lineTrap (s : State) (i : Nat) (c : TrapCode) (ops : Word) : State :=
  s.trapAt i c (lineVa (s.slot i).pc) ops

/-- R47, R160, R231: an outstanding access of the slot shares a byte with the `n` bytes at `pa`. -/
def Slot.touchesAt (sl : Slot) (pa n : Nat) : Bool :=
  sl.pend.any fun a => a.parts.any fun p => decide (p.pa < pa + n) && decide (pa < p.pa + p.n)

/-- R45 to R49: slot `i` enters the line of its PC, after its own earlier accesses to it (R231). The flag says that the slot then holds its copy.
DESIGN CHOICE (log 76): an entry that hits the line buffer reads the line's bytes as they are now, and takes POISON where an error has met them
since the line was placed, which the spec leaves open. -/
def State.enterLine (s : State) (i : Nat) : State × Bool :=
  let sl := s.slot i
  let k := i / 8
  let va := lineVa sl.pc
  match s.xlate k sl.task.part sl.lv .x va with
  | .miss => (s.stallFor i (.walk va Acc.x.code (s.rootOf sl.task.part)), false)
  | .fault c _ o => (s.lineTrap i c o, false)
  | .ok p =>
    let cached := match p.leaf with
      | some l => l.c && l.tgt = 0
      | none => false
    if sl.touchesAt p.pa 64 then (s.stallHead i, false)
    else if (s.core k).lineBuf.contains p.pa then
      if s.viewPoison (some k) cached p.pa 64 then (s.lineTrap i .poison 0, false)
      else
        let bytes := s.viewBytes (some k) cached p.pa 64
        (((s.tlbUse k sl.task.part va).modCore k fun c => c.placeLine p.pa).modSlot i fun sl => { sl with line := some bytes }, true)
    else (s.stallFor i (.line p.pa cached (p.place ≠ .hostP)), false)

/-- What the head at the PC of slot `i` is. -/
inductive Head where
  | ok (i : Instr) (npc : Word)
  | trap (c : TrapCode) (ops : Word)
deriving DecidableEq, Repr

/-- R60: the operands that record a malformed line. -/
def lineFaultOps (line : List Byte) (f : LineFault) : Word :=
  let (reason, k) := match f with
    | .headerBits => (1, 0)
    | .noHeads => (2, 0)
    | .tailOverflow k => (3, k)
    | .unused k => (4, k)
  BitVec.ofNat 64 ((halfword line 0).toNat + k * 2 ^ 16 + reason * 2 ^ 21)

/-- R60: the operands that record a head that is no instruction. -/
def encOps (e : Enc) : Word :=
  BitVec.ofNat 64 (e.head.toNat + e.t1.toNat * 2 ^ 16 + e.t2.toNat * 2 ^ 32 + e.t3.toNat * 2 ^ 48)

/-- R41, R42, R51, R58: the head at `pc` of a line. -/
def headAt (line : List Byte) (pc : Word) : Head :=
  match lineCheck line with
  | some f => .trap .illegalLine (lineFaultOps line f)
  | none =>
    let h := lineHeads line
    let k := fld pc 5 0
    if k = 0 || h < k then .trap .badPc (BitVec.ofNat 64 ((halfword line 0).toNat + h * 2 ^ 16))
    else
      let e := lineEnc line k
      match decode e with
      | .ok i => .ok i (nextPc pc h)
      | .error .illegalOp => .trap .illegalOp (encOps e)
      | .error .illegalLen => .trap .illegalLen (encOps e)

/-- The head at the PC of a slot that holds its line. -/
def Slot.head (sl : Slot) : Head :=
  match sl.line with
  | some l => headAt l sl.pc
  | none => .trap .badPc 0

/-- R60, R73: the ADDR of a fault of the head at the slot's PC: of the branch that leads to it in its own line, else of what entered the
line. -/
def Slot.origin (sl : Slot) : Word := sl.via.getD sl.from_

/-- R60: the head's trap, taken. -/
def State.headTrap (s : State) (i : Nat) (c : TrapCode) (ops : Word) : State :=
  s.trapAt i c (s.slot i).origin ops

/-- R109: a scalar instruction, or a short-mode vector instruction, uses an invalid format word. -/
def State.badWord (s : State) (i : Nat) (ins : Instr) (word : BitVec 16) (pos : Nat) : State :=
  let e := (encode ins).getD ⟨0, 0, 0, 0⟩
  s.trapAt i .illegalOp (s.slot i).origin
    (BitVec.ofNat 64 (e.head.toNat + e.t1.toNat * 2 ^ 16 + word.toNat * 2 ^ 32 + 2 ^ 48 + pos * 2 ^ 49))

end Sys2Proof.Machine
end

