-- ==== Sys2Proof/Machine/Num.lean ====
section
/-!
DEFINITION. Numbers (ch. 6): exact values, the element formats, format words, rounding, encoding and decoding, and the draws of
stochastic rounding.
-/

namespace Sys2Proof.Machine

/-- An exact value: NaN, an infinity, or (-1)^neg * n / d * 2^e with d positive. A zero keeps its sign. -/
inductive Val where
  | nan
  | inf (neg : Bool)
  | fin (neg : Bool) (n d : Nat) (e : Int)
deriving DecidableEq, Repr

def Val.zero (neg : Bool) : Val := .fin neg 0 1 0

def Val.isNan : Val → Bool
  | .nan => true
  | _ => false

/-- The numerator and denominator of the magnitude. -/
def ratio (n d : Nat) (e : Int) : Nat × Nat :=
  if 0 ≤ e then (n * 2 ^ e.toNat, d) else (n, d * 2 ^ (-e).toNat)

def Val.neg : Val → Val
  | .nan => .nan
  | .inf s => .inf (!s)
  | .fin s n d e => .fin (!s) n d e

def Val.abs : Val → Val
  | .nan => .nan
  | .inf _ => .inf false
  | .fin _ n d e => .fin false n d e

/-- The signed numerators of two finite values over one denominator. -/
def common (s t : Bool) (n d : Nat) (e : Int) (m c : Nat) (f : Int) : Int × Int × Nat × Int :=
  let g := min e f
  let a : Int := (n * c * 2 ^ (e - g).toNat : Nat)
  let b : Int := (m * d * 2 ^ (f - g).toNat : Nat)
  (if s then -a else a, if t then -b else b, d * c, g)

/-- The exact sum; ∞ - ∞ is NaN; an exact zero sum of opposite signs is +0 (R115). -/
def Val.add : Val → Val → Val
  | .nan, _ => .nan
  | _, .nan => .nan
  | .inf s, .inf t => if s = t then .inf s else .nan
  | .inf s, .fin .. => .inf s
  | .fin .., .inf t => .inf t
  | .fin s n d e, .fin t m c f =>
    if n = 0 && m = 0 then .zero (s && t)
    else
      let (a, b, den, g) := common s t n d e m c f
      let r := a + b
      if r = 0 then .zero false else .fin (decide (r < 0)) r.natAbs den g

/-- The exact product; ∞ * 0 is NaN. -/
def Val.mul : Val → Val → Val
  | .nan, _ => .nan
  | _, .nan => .nan
  | .inf s, .inf t => .inf (s != t)
  | .inf s, .fin t m _ _ => if m = 0 then .nan else .inf (s != t)
  | .fin s n _ _, .inf t => if n = 0 then .nan else .inf (s != t)
  | .fin s n d e, .fin t m c f => .fin (s != t) (n * m) (d * c) (e + f)

/-- R112: an element times a scale, exactly: a zero scale of either sign gives a finite element a zero of the element's own sign. -/
def Val.scale (v sc : Val) : Val :=
  match v, sc with
  | .fin s .., .fin _ m .. => if m = 0 then .zero s else v.mul sc
  | _, _ => v.mul sc

/-- The exact quotient; a zero divisor gives ±∞ for a non-zero dividend and NaN for 0 (R141). DESIGN CHOICE (log 65): R141 does not say
which sign that infinity has where the zero is FP32 -0: the exclusive OR of the two signs, as R115 gives a quotient of zero. -/
def Val.div : Val → Val → Val
  | .nan, _ => .nan
  | _, .nan => .nan
  | .inf _, .inf _ => .nan
  | .inf s, .fin t .. => .inf (s != t)
  | .fin s .., .inf t => .zero (s != t)
  | .fin s n d e, .fin t m c f =>
    if m = 0 then (if n = 0 then .nan else .inf (s != t)) else .fin (s != t) (n * c) (d * m) (e - f)

/-- Whether a < b, for values that are not NaN; -0 is not below +0. -/
def Val.lt : Val → Val → Bool
  | .nan, _ => false
  | _, .nan => false
  | .inf s, .inf t => s && !t
  | .inf s, .fin .. => s
  | .fin .., .inf t => !t
  | .fin s n d e, .fin t m c f => let (a, b, _, _) := common s t n d e m c f; decide (a < b)

def Val.eq (a b : Val) : Bool := !a.isNan && !b.isNan && !a.lt b && !b.lt a

/-- Whether a ≤ b: false where either is NaN. -/
def Val.le (a b : Val) : Bool := !a.isNan && !b.isNan && !b.lt a

/-- The sign as an order: -0 lies below +0 (R135). -/
def Val.sign : Val → Bool
  | .nan => false
  | .inf s => s
  | .fin s .. => s

/-- R135: VMIN and VMAX of two values, -0 below +0; a single NaN yields the other. -/
def Val.min (a b : Val) : Val :=
  if a.isNan then b else if b.isNan then a
  else if a.lt b then a else if b.lt a then b else if a.sign then a else b

def Val.max (a b : Val) : Val :=
  if a.isNan then b else if b.isNan then a
  else if a.lt b then b else if b.lt a then a else if a.sign then b else a

def Val.ofInt (i : Int) : Val := .fin (decide (i < 0)) i.natAbs 1 0

/-! Rounding (R115, R116). -/

/-- R115: the smaller neighbour `q` of the magnitude `n / d`, or the larger: q + 1. -/
def roundUp (rm : Nat) (neg : Bool) (u : Nat) (n d : Nat) : Nat :=
  let q := n / d
  let r := n % d
  let up : Bool := match rm with
    | 0 => decide (d < 2 * r) || (decide (2 * r = d) && decide (q % 2 = 1))
    | 1 => false
    | 2 => !neg && decide (0 < r)
    | _ => decide (u < r * 2 ^ 32 / d)
  if up then q + 1 else q

/-- R116: the generator's next state, which is the draw. -/
def nextDraw (seed : BitVec 32) : BitVec 32 :=
  let s := if seed = 0 then 1 else seed
  let s := s ^^^ (s <<< 13)
  let s := s ^^^ (s >>> 17)
  s ^^^ (s <<< 5)

/-- `n` draws from the state `seed`: the draws and the state after them. -/
def draws (n : Nat) (seed : BitVec 32) : List (BitVec 32) × BitVec 32 :=
  match n with
  | 0 => ([], seed)
  | k + 1 =>
    let u := nextDraw seed
    let r := draws k u
    (u :: r.1, r.2)

/-! Floating formats (R104, R107). -/

/-- A floating format: exponent and mantissa bits, bias, whether it has infinities, whether it has NaN codes, and its largest mantissa
at the largest exponent that holds numbers. -/
structure FloatFmt where
  eb : Nat
  mb : Nat
  bias : Nat
  hasInf : Bool
  hasNan : Bool
deriving DecidableEq, Repr

def fp32 : FloatFmt := { eb := 8, mb := 23, bias := 127, hasInf := true, hasNan := true }
def bf16 : FloatFmt := { eb := 8, mb := 7, bias := 127, hasInf := true, hasNan := true }
def fp16 : FloatFmt := { eb := 5, mb := 10, bias := 15, hasInf := true, hasNan := true }
def e4m3 : FloatFmt := { eb := 4, mb := 3, bias := 7, hasInf := false, hasNan := true }
def e5m2 : FloatFmt := { eb := 5, mb := 2, bias := 15, hasInf := true, hasNan := true }
def e2m1 : FloatFmt := { eb := 2, mb := 1, bias := 1, hasInf := false, hasNan := false }
def e8m10 : FloatFmt := { eb := 8, mb := 10, bias := 127, hasInf := true, hasNan := true }

def FloatFmt.width (f : FloatFmt) : Nat := 1 + f.eb + f.mb

/-- The code (without sign) of the largest finite magnitude. -/
def FloatFmt.maxCode (f : FloatFmt) : Nat :=
  if f.hasInf then (2 ^ f.eb - 1) * 2 ^ f.mb - 1
  else if f.hasNan then 2 ^ (f.eb + f.mb) - 2
  else 2 ^ (f.eb + f.mb) - 1

/-- R106: the canonical NaN; a format without NaN gives 0 (R117). -/
def FloatFmt.nanCode (f : FloatFmt) : Nat :=
  if f.hasInf then (2 ^ f.eb - 1) * 2 ^ f.mb + 2 ^ (f.mb - 1)
  else if f.hasNan then 2 ^ (f.eb + f.mb) - 1
  else 0

def FloatFmt.infCode (f : FloatFmt) : Nat :=
  if f.hasInf then (2 ^ f.eb - 1) * 2 ^ f.mb else f.maxCode

/-- The exact value of a code (R104). -/
def FloatFmt.decode (f : FloatFmt) (code : Nat) : Val :=
  let s : Bool := code.testBit (f.eb + f.mb)
  let e := (code >>> f.mb) % 2 ^ f.eb
  let m := code % 2 ^ f.mb
  if f.hasInf && e = 2 ^ f.eb - 1 then (if m = 0 then .inf s else .nan)
  else if !f.hasInf && f.hasNan && code % 2 ^ (f.eb + f.mb) = 2 ^ (f.eb + f.mb) - 1 then .nan
  else if e = 0 then .fin s m 1 (1 - (f.bias : Int) - (f.mb : Int))
  else .fin s (2 ^ f.mb + m) 1 ((e : Int) - (f.bias : Int) - (f.mb : Int))

/-- Floor of log2 of n / d, both positive. -/
def log2Ratio (n d : Nat) : Int :=
  let g : Int := (Nat.log2 n : Int) - (Nat.log2 d : Int)
  -- 2^g ≤ n/d fails by at most one
  let ok : Bool := if 0 ≤ g then decide (d * 2 ^ g.toNat ≤ n) else decide (d ≤ n * 2 ^ (-g).toNat)
  if ok then g else g - 1

/-- R115 to R117: the code of a value, rounded by `rm` with the draw `u`. -/
def FloatFmt.encode (f : FloatFmt) (rm : Nat) (u : Nat) (v : Val) : Nat :=
  match v with
  | .nan => f.nanCode
  | .inf s => f.infCode + (if s then 2 ^ (f.eb + f.mb) else 0)
  | .fin s n d e =>
    let sgn := if s then 2 ^ (f.eb + f.mb) else 0
    if n = 0 then sgn
    else
      let (a, b) := ratio n d e
      let emin : Int := 1 - (f.bias : Int)
      let x := max (log2Ratio a b) emin
      -- the quantum is 2^(x - mb)
      let q := x - (f.mb : Int)
      let (p, r) := if 0 ≤ q then (a, b * 2 ^ q.toNat) else (a * 2 ^ (-q).toNat, b)
      let m := roundUp rm s u p r
      let code := (x - emin).toNat * 2 ^ f.mb + m
      if code ≤ f.maxCode then sgn + code
      else if !f.hasInf then sgn + f.maxCode
      else match rm with
        | 1 => sgn + f.maxCode
        | 2 => if s then sgn + f.maxCode else f.infCode
        | _ => sgn + f.infCode

/-- R115, R117: the value rounded to an integer. -/
def Val.toInt (rm u : Nat) : Val → Option Int
  | .nan => none
  | .inf _ => none
  | .fin s n d e =>
    let (a, b) := ratio n d e
    let q : Int := roundUp rm s u a b
    some (if s then -q else q)

/-- R117: the value as an integer between `lo` and `hi`. -/
def Val.saturate (rm u : Nat) (lo hi : Int) (v : Val) : Int :=
  match v with
  | .nan => 0
  | .inf s => if s then lo else hi
  | _ => match v.toInt rm u with
    | some i => Max.max lo (Min.min hi i)
    | none => 0

/-! Element formats and format words (R104, R108, R109). -/

/-- R104: the codes of the element formats. -/
inductive Elem where
  | fp32 | bf16 | fp16 | e4m3 | e5m2 | e2m1 | int8 | int4 | tab8 | tab4
deriving DecidableEq, Repr

def Elem.ofCode (n : Nat) : Option Elem :=
  match n with
  | 1 => some .fp32 | 2 => some .bf16 | 3 => some .fp16 | 4 => some .e4m3 | 5 => some .e5m2 | 6 => some .e2m1
  | 7 => some .int8 | 8 => some .int4 | 9 => some .tab8 | 10 => some .tab4 | _ => none

def Elem.width : Elem → Nat
  | .fp32 => 32
  | .bf16 | .fp16 => 16
  | .e4m3 | .e5m2 | .int8 | .tab8 => 8
  | .e2m1 | .int4 | .tab4 => 4

def Elem.isTab : Elem → Bool
  | .tab8 | .tab4 => true
  | _ => false

/-- A format word, taken apart (R108). -/
structure Fmt where
  elem : Elem
  sk : Nat
  bs : Nat       -- elements in a block
  nz : Bool
  rm : Nat
  dt : Nat
deriving DecidableEq, Repr

/-- R109: a format word used where an element is needed; none if it is invalid. -/
def Fmt.parse (w : BitVec 16) : Option Fmt :=
  match Elem.ofCode (fld w 4 0) with
  | none => none
  | some e =>
    let sk := fld w 6 5
    let bs := fld w 8 7
    if fld w 15 13 ≠ 0 then none
    else if (sk = 1 || sk = 2) && (e = .fp32 || e = .bf16 || e = .fp16) then none
    else if (sk = 0 || sk = 3) && bs ≠ 0 then none
    else some { elem := e, sk := sk, bs := 16 * 2 ^ bs, nz := w.getLsbD 9, rm := fld w 11 10, dt := fld w 12 12 }

/-- A decode table (R113): an entry that is not listed is 0. -/
abbrev Table := AMap (BitVec 32)

def Table.entry (t : Table) (c : Nat) : BitVec 32 := look t c 0

/-- R113: an entry's value. -/
def entryVal (e : BitVec 32) : Val :=
  if e.getLsbD 31 then .nan else e8m10.decode (fld e 18 0)

/-- R104, R105, R113: the exact value of an element's code. -/
def Fmt.decode (f : Fmt) (t : Table) (code : Nat) : Val :=
  match f.elem with
  | .fp32 => Machine.fp32.decode code
  | .bf16 => Machine.bf16.decode code
  | .fp16 => Machine.fp16.decode code
  | .e4m3 => Machine.e4m3.decode code
  | .e5m2 => Machine.e5m2.decode code
  | .e2m1 => Machine.e2m1.decode code
  | .int8 => .ofInt (BitVec.ofNat 8 code).toInt
  | .int4 => .ofInt (BitVec.ofNat 4 code).toInt
  | .tab8 => entryVal (Table.entry t code)
  | .tab4 => entryVal (Table.entry t code)

/-- R114: the magnitude that the search compares. -/
def tabMag (t : Table) (i : Nat) : Val :=
  if (Table.entry t i).getLsbD 31 then .inf false else (entryVal (Table.entry t i)).abs

/-- R114: the largest index whose magnitude is at most `a`, by halving. -/
def tabSearch (t : Table) (a : Val) : Nat → Nat → Nat → Nat
  | 0, lo, _ => lo
  | fuel + 1, lo, hi =>
    if lo < hi then
      let mid := (lo + hi + 1) / 2
      if (tabMag t mid).le a then tabSearch t a fuel mid hi else tabSearch t a fuel lo (mid - 1)
    else lo

/-- |a - b| for magnitudes: ∞ when just one is infinite, 0 when both are. -/
def magDist (a b : Val) : Val :=
  match a, b with
  | .inf _, .inf _ => .zero false
  | _, _ => (a.add b.neg).abs

/-- R114: encoding into TAB8 (top = 127) or TAB4 (top = 7). -/
def tabEncode (t : Table) (top : Nat) (v : Val) : Nat :=
  match v with
  | .nan => ((List.range (2 * top + 2)).find? fun i => (Table.entry t i).getLsbD 31).getD 0
  | _ =>
    let a := v.abs
    let c := tabSearch t a 8 0 top
    let c :=
      if c < top && !(Table.entry t (c + 1)).getLsbD 31 then
        let d0 := magDist (tabMag t c) a
        let d1 := magDist (tabMag t (c + 1)) a
        if d1.lt d0 || (d1.eq d0 && (c + 1) % 2 = 0) then c + 1 else c
      else c
    let c := if (Table.entry t c).getLsbD 31 then 0 else c
    c + if v.sign then top + 1 else 0

/-- R106, R114 to R117: the code of a value in the format `f`, rounded by its RM with the draw `u`. -/
def Fmt.encode (f : Fmt) (t : Table) (u : Nat) (v : Val) : Nat :=
  match f.elem with
  | .fp32 => Machine.fp32.encode f.rm u v
  | .bf16 => Machine.bf16.encode f.rm u v
  | .fp16 => Machine.fp16.encode f.rm u v
  | .e4m3 => Machine.e4m3.encode f.rm u v
  | .e5m2 => Machine.e5m2.encode f.rm u v
  | .e2m1 => Machine.e2m1.encode f.rm u v
  | .int8 => (BitVec.ofInt 8 (v.saturate f.rm u (-128) 127)).toNat
  | .int4 => (BitVec.ofInt 4 (v.saturate f.rm u (-8) 7)).toNat
  | .tab8 => tabEncode t 127 v
  | .tab4 => tabEncode t 7 v

/-- R116: whether producing an element in this format takes a draw. -/
def Fmt.drawing (f : Fmt) : Bool := f.rm = 3 && !f.elem.isTab

/-! Block scales (R110, R112). -/

/-- R110: the value of a stored UE8M4 field. -/
def ue8m4 (x : Nat) : Val :=
  let e := (x / 16) % 256
  let m := x % 16
  if e = 255 then .nan
  else if e = 0 then .fin false m 1 (-131)
  else .fin false (16 + m) 1 ((e : Int) - 131)

/-- R110: the value of an E8M0 byte. -/
def e8m0 (e : Nat) : Val :=
  if e = 255 then .nan
  else if e = 0 then .fin false 1 1 (-127)
  else .fin false 1 1 ((e : Int) - 127)

/-- The scale field that a register's bits 63:32 hold, by scale kind (R141). -/
def scaleField (sk : Nat) (w : Word) : Val :=
  match sk with
  | 0 => .fin false 1 1 0
  | 1 => e8m0 (fld w 39 32)
  | 2 => ue8m4 (fld w 43 32)
  | _ => fp32.decode (fld w 63 32)

/-- R118: a NaN taken as +0 in NaN-as-zero mode, with how many were counted. -/
def nanAsZero (nz : Bool) (v : Val) : Val × Nat :=
  if nz && v.isNan then (.zero false, 1) else (v, 0)

/-- R122: the class mask of an element's code. -/
def Fmt.classOf (f : Fmt) (t : Table) (code : Nat) : Nat :=
  let float (g : FloatFmt) (c : Nat) : Nat :=
    let sub : Bool := decide ((c >>> g.mb) % 2 ^ g.eb = 0)
    match g.decode c with
    | .nan => 256
    | .inf s => if s then 1 else 128
    | .fin s n _ _ =>
      if n = 0 then (if s then 8 else 16)
      else if sub then (if s then 4 else 32)
      else if s then 2 else 64
  let int (i : Int) : Nat := if i < 0 then 2 else if i = 0 then 16 else 64
  match f.elem with
  | .fp32 => float Machine.fp32 code
  | .bf16 => float Machine.bf16 code
  | .fp16 => float Machine.fp16 code
  | .e4m3 => float Machine.e4m3 code
  | .e5m2 => float Machine.e5m2 code
  | .e2m1 => float Machine.e2m1 code
  | .int8 => int (BitVec.ofNat 8 code).toInt
  | .int4 => int (BitVec.ofNat 4 code).toInt
  | .tab8 | .tab4 =>
    let e := Table.entry t code
    if e.getLsbD 31 then 256 + 512 else float e8m10 (fld e 18 0)

end Sys2Proof.Machine
end

