-- ==== Sys2Proof/Machine/CtlRegs.lean ====
section
/-!
DEFINITION. The control registers (R87 to R90 and the chapters' maps): reading, writing, levels and purity; the duties and the start of
a task on a slot.
-/

namespace Sys2Proof.Machine

/-- R116: `n` draws of core `k`'s generator. Draws in the core cycle of a SETC of RSEED go on from the state before it, and the SETC's
value stands afterwards. -/
def State.takeDraws (s : State) (k n : Nat) : List (BitVec 32) × State :=
  let c := s.core k
  match c.seedOld with
  | some (t, old) =>
    if t = s.dclk then
      let r := draws n old
      (r.1, s.setCore k { c with seedOld := some (t, r.2) })
    else
      let r := draws n c.rseed
      (r.1, s.setCore k { c with rseed := r.2 })
  | none =>
    let r := draws n c.rseed
    (r.1, s.setCore k { c with rseed := r.2 })

/-! Starting a task (R20, R87, R119). -/

/-- R119: the decode tables that the shadow words use. -/
def dtuseOf (ws : List (BitVec 16)) : BitVec 2 :=
  ws.foldl (init := 0) fun d w =>
    if fld w 4 0 = 9 || fld w 4 0 = 10 then d ||| (if w.getLsbD 12 then 2 else 1) else d

/-- R20, R63: the task `t` starts on the idle slot `i` at `pc`, with x1 and x2 as given and every other register zero. R60 gives ADDR 0 for a
fault met on entering the first line after dispatch, a wake-up start and a gang resume; DESIGN CHOICE (log 61): it is 0 also after an event
opens (R307) and after CPC starts slot 7 (R352). -/
def State.startTask (s : State) (i : Nat) (t : TaskInfo) (lv : Level) (pc x1 x2 : Word) : State :=
  s.modSlot i fun sl =>
    { Slot.idle sl.dutyCode with
      st := .ready, pc := pc, lv := lv, task := t
      regs := { Regs.zero with x := (Regs.zero.x.set 1 x1).set 2 x2 }
      intake := sl.intake }

/-! The open event (R307). -/

/-- The event that slot `i` has open. -/
def State.openEvent (s : State) (i : Nat) : Option NEvent :=
  let t := (s.slot i).task
  match t.evt, s.part? t.part with
  | some n, some p => match get? p.newt.agents t.agent with
    | some a => a.events.find? fun e => e.num = n
    | none => none
  | _, _ => none

def State.agent? (s : State) (p a : Nat) : Option Agent := (s.part? p).bind fun v => get? v.newt.agents a

/-- R310, R419: the pool units in use: one for each granule copy, and one for each 64 checkpoint records. -/
def NewtPart.used (n : NewtPart) : Nat :=
  let evs := n.agents.flatMap fun a => a.2.events
  let copies := (evs.map fun e => e.copies.length).sum
  let recs := (evs.filter fun e => match e.st with
    | .opened _ | .processed => true
    | _ => false).length
  copies + (recs + 63) / 64

/-! Reading (R87). -/

/-- R89: BLK of a slot. -/
def Slot.blk (sl : Slot) : Word :=
  let mk (cause obj : Nat) : Word := BitVec.ofNat 64 (cause * 2 ^ 60 + obj % 2 ^ 56)
  let st := if sl.st = .stopped then sl.saved else sl.st
  if st ≠ .parked then 0
  else match sl.park with
    | .none => 0
    | .park => mk 1 0
    | .wfm => mk 2 0
    | .feFull va => mk 3 va.toNat
    | .feEmpty va => mk 4 va.toNat
    | .bar g gid _ => mk 5 (g.toNat + 4 * gid.toNat)
    | .pop p => mk 6 p
    | .push p => mk 7 p

/-- R331, R339: PFULL: an access waits for a pool unit. -/
def NewtPart.pfull (n : NewtPart) : Bool := !n.pwait.isEmpty

/-- R331: GVTST as a slot on stack `st` reads it. -/
def NewtPart.gvtst (n : NewtPart) (st : Nat) : Word :=
  let b (x : Bool) (k : Nat) : Nat := if x then 2 ^ k else 0
  let col := (look n.ps st NewtPS.zero).colour
  BitVec.ofNat 64 (n.round.toNat * 2 ^ 32 + b (decide (n.w < n.w0)) 25 + b n.pfull 24 + b n.pend 16 + b n.act 15 + b col 14
    + (if n.pool = 0 then 0 else Nat.min 127 (n.used * 128 / n.pool)))

/-- The value of control register `n` in slot `i` (R87, R119, R132, R149, R198, R203, R216, R300, R331, R352, R370). -/
def State.readCr (s : State) (i : Nat) (n : BitVec 10) : Word :=
  let sl := s.slot i
  let t := sl.task
  let c := s.core (i / 8)
  let p := s.part? t.part
  match n.toNat with
  | 0x000 => BitVec.ofNat 64 i
  | 0x001 => t.task
  | 0x002 => t.ntask
  | 0x003 => BitVec.ofNat 64 (t.part % 16)
  | 0x004 => t.tenant.setWidth 64
  | 0x005 => BitVec.ofNat 64 sl.lv.num
  | 0x006 => t.grp
  | 0x007 => BitVec.ofNat 64 ((if c.ah then 2 ^ 16 else 0) +
      ((List.range 6).map fun j => (c.duties.getD j 0).toNat * 4 ^ j).sum)
  | 0x008 => sl.blk
  | 0x009 => sl.ctl.fewait
  | 0x00A => BitVec.ofNat 64 s.dclk
  | 0x00B => c.rseed.setWidth 64
  | 0x00C => boolWord (sl.vbusy ≠ 0)
  | 0x00D => sl.ctl.nancnt.setWidth 64
  | 0x010 => t.kfa.setWidth 64
  | 0x011 => t.kfb.setWidth 64
  | 0x012 => t.kfo.setWidth 64
  | 0x013 => t.ksa
  | 0x014 => t.ksb
  | 0x018 => match s.openEvent i with
    | some e => e.msg.ts
    | none => allOnes
  | 0x019 => if t.evt.isSome then BitVec.ofNat 64 t.agent else allOnes
  | 0x01A => if t.evt.isSome then ((s.agent? t.part t.agent).map (·.lvt)).getD allOnes else allOnes
  | 0x01B => (p.map (·.newt.gvt)).getD 0
  | 0x020 => sl.ctl.epc
  | 0x021 => sl.ctl.est.setWidth 64
  | 0x022 => (p.map fun v => (v.ctlAt s.dclk).2.1).getD 0
  | 0x023 => (p.map fun v => (v.ctlAt s.dclk).2.2).getD 0
  | 0x040 => t.dtuse.setWidth 64
  | 0x041 => sl.ctl.vctl.setWidth 64
  | 0x042 => c.brole
  | 0x043 => sl.ctl.uictl.setWidth 64
  | 0x044 => sl.ctl.uivec
  | 0x045 => sl.ctl.uipc
  | 0x046 => BitVec.ofNat 64 (sl.mboxRsv * 256 + sl.mbox.length)
  | 0x047 => (p.map fun v => (v.ctlAt s.dclk).1).getD 0
  | 0x048 => (p.map fun v => BitVec.ofNat 64 (v.newt.cap * 2 ^ 32 + v.newt.next)).getD 0
  | 0x049 => (p.map fun v => v.newt.gvtst (stackOf (i / 8))).getD 0
  | 0x04A => (p.map (·.newt.w)).getD 0
  | 0x04B => BitVec.ofNat 64 ((if (s.slot (8 * (i / 8) + 7)).live then 2 ^ 63 else 0) + c.net.cpc.toNat % 2 ^ 63)
  | 0x04C => boolWord sl.ctl.dbgSs
  | 0x04D => sl.ctl.utvec
  | 0x04E => sl.ctl.dlcnt.setWidth 64
  | _ => 0

/-- R87, R90: the level that reads a register: EPC at S, and at U in a delegated handler; TVEC, TDELEG and PTBASE at S. -/
def Slot.mayRead (sl : Slot) (n : BitVec 10) : Bool :=
  match n.toNat with
  | 0x020 => sl.lv ≠ .u || sl.dlg
  | 0x022 | 0x023 | 0x047 => sl.lv ≠ .u
  | _ => true

/-- R87, R90: the level that writes a register. A register without a write level is read-only: the write is ignored. -/
def Slot.mayWrite (sl : Slot) (n : BitVec 10) : Bool :=
  match n.toNat with
  | 0x020 => sl.lv ≠ .u || sl.dlg
  | 0x007 | 0x022 | 0x023 | 0x04B | 0x04C => sl.lv ≠ .u
  | 0x047 => sl.lv = .m
  | _ => true

/-- R90: registers that a pure task may not read. -/
def pureHidden (n : BitVec 10) : Bool := n.toNat = 0x00A || n.toNat = 0x00B || n.toNat = 0x01A

/-! Writing (R65, R66, R90, R101, R352). -/

/-- R65, R66: a write of DUTY: a code applies to an idle slot at once, to another when it is idle; AH at the core's next barrier. A code line
that waits in the wake queue starts, on a slot that this makes a task slot, when the core cycle ends (log 62). -/
def State.writeDuty (s : State) (k : Nat) (v : Word) : State :=
  let d : Vector (BitVec 2) 6 := Vector.ofFn fun j => BitVec.ofNat 2 (fld v (2 * j.val + 1) (2 * j.val))
  let s := s.modCore k fun c => { c with duties := d, ah := v.getLsbD 16 }
  (List.range 6).foldl (init := s) fun s j =>
    if (s.slot (8 * k + j)).live then s else s.modSlot (8 * k + j) fun sl => { sl with dutyCode := d.getD j 0 }

/-- R352: a write of CPC by slot `i`: it starts the communication slot, or is ignored while the slot holds a task. -/
def State.writeCpc (s : State) (i : Nat) (v : Word) : State :=
  let k := i / 8
  let j := 8 * k + 7
  if (s.slot j).live then s
  else
    let pc : Word := v &&& (allOnes >>> 1)
    let w := (s.slot i).task
    (s.modCore k fun c => { c with net := { c.net with cpc := pc } }).startTask j
      { TaskInfo.empty with ntask := 1, part := w.part, tenant := w.tenant } .u pc 0 0

/-- The RW fields of control register `n` take the value `v` (R90, R101); a register that is only read ignores it. PTBASE, TVEC and TDELEG
stand for the walks and the traps of later core cycles (R101, R216). -/
def State.writeCr (s : State) (i : Nat) (n : BitVec 10) (v : Word) : State :=
  let ctl (f : Ctl → Ctl) : State := s.modSlot i fun sl => { sl with ctl := f sl.ctl }
  let part (f : Part → Part) : State := s.modPart (s.slot i).task.part fun p => { f p with ctlOld := some (s.dclk, p.ctlAt s.dclk) }
  match n.toNat with
  | 0x007 => s.writeDuty (i / 8) v
  | 0x009 => ctl fun c => { c with fewait := v }
  | 0x00B => s.modCore (i / 8) fun c => { c with seedOld := some (s.dclk, c.rseed), rseed := v.setWidth 32 }
  | 0x00D => ctl fun c => { c with nancnt := v.setWidth 32 }
  | 0x020 => ctl fun c => { c with epc := v }
  | 0x022 => part fun p => { p with tvec := v }
  | 0x023 => part fun p => { p with tdeleg := v &&& 0x7FFFE }
  | 0x041 => ctl fun c => { c with vctl := (v.setWidth 16 &&& 0xEE00) ||| (c.vctl &&& 1) }
  | 0x045 => ctl fun c => { c with uipc := v }
  | 0x047 => part fun p => { p with ptbase := v &&& 0x00FFFFFFFFFF0000 }
  | 0x04B => s.writeCpc i v
  | 0x04C => ctl fun c => { c with dbgSs := v.getLsbD 0 }
  | 0x04D => ctl fun c => { c with utvec := v }
  | _ => s

/-! The instructions. -/

/-- R101: GETC. -/
def execGetc (d : Reg) (n : BitVec 10) (s : State) : Out := .next <|
  let i := s.cur
  if !(s.slot i).mayRead n then s.trapAt i .privilege
  else s.withRegs i [] [d] fun s =>
    if (s.slot i).task.pure && pureHidden n then s.trapAt i .purity
    else s.writeDone i [] d (s.readCr i n)

/-- R101: SETC. The write lands at the end of the issue cycle; the old value goes to D. -/
def execSetc (d a : Reg) (n : BitVec 10) (s : State) : Out := .next <|
  let i := s.cur
  if !(s.slot i).mayWrite n then s.trapAt i .privilege
  else s.withRegs i [a] [d] fun s =>
    if (s.slot i).task.pure && n.toNat = 0x00B then s.trapAt i .purity
    else
      let v := s.rv a
      let old := s.readCr i n
      (((s.popPorts i [a]).writeCr i n v).writeReg i d old).complete i

/-- R65: the happening of a DUTY write. -/
def execDutyWrite (k sl : Nat) (v : Word) (s : State) : Out :=
  let i := 8 * k + sl
  if sl < 8 && (s.slot i).live then
    if (s.slot i).lv = .u then .next (s.trapAt i .privilege) else .next (s.writeDuty k v)
  else .refused (.notEnabled "DUTY_WRITE")

/-- R352: the happening of a CPC write. -/
def execCpcWrite (k sl : Nat) (v : Word) (s : State) : Out :=
  let i := 8 * k + sl
  if sl < 8 && (s.slot i).live then
    if (s.slot i).lv = .u then .next (s.trapAt i .privilege) else .next (s.writeCpc i v)
  else .refused (.notEnabled "CPC_WRITE")

/-- R90: the happening of another register's write. -/
def execRegisterWrite (k sl : Nat) (n : BitVec 10) (v : Word) (s : State) : Out :=
  let i := 8 * k + sl
  if sl < 8 && (s.slot i).live && crAssigned n && n.toNat ≠ 0x007 && n.toNat ≠ 0x04B then
    if !(s.slot i).mayWrite n then .next (s.trapAt i .privilege)
    else if (s.slot i).task.pure && n.toNat = 0x00B then .next (s.trapAt i .purity)
    else .next (s.writeCr i n v)
  else .refused (.notEnabled "REGISTER_WRITE")

end Sys2Proof.Machine
end

