-- ==== Sys2Proof/Machine/Operands.lean ====
section
/-!
DEFINITION. The operand forms of the instructions: sizes, effective addresses and pairs of registers.
-/

namespace Sys2Proof.Machine

/-- R22: the bytes of a size code. -/
def sizeBytes : Size → Nat
  | .b => 1 | .h => 2 | .w => 4 | .d => 8

/-- R241: the bytes of a size code of the atomics. -/
def size2Bytes : Size2 → Nat
  | .w => 4 | .d => 8

/-- R159: the effective address: a base register and the sign-extended imm16. -/
def State.ea (s : State) (a : Reg) (imm : BitVec 16) : Word := s.rv a + imm.signExtend 64

/-- R159: the address of an indexed access. -/
def State.eaX (s : State) (a b : Reg) (imm : BitVec 16) (n : Nat) : Word :=
  s.ea a imm + s.rv b * BitVec.ofNat 64 n

/-- R245: the second register of an even pair. -/
def Reg.next : Reg → Reg
  | .x n => .x (n + 1)
  | .y n => .y (n + 1)

/-- The same of a bound destination. -/
def Dst.next : Dst → Dst
  | .x n => .x (n + 1)
  | .y n => .y (n + 1)
  | .sx n => .sx (n + 1)

/-- R163: the addresses of the lanes of a strided vector access. -/
def laneAddrs (base stride : Word) (lanes : Nat) : List Word :=
  (List.range lanes).map fun j => base + BitVec.ofNat 64 j * stride

end Sys2Proof.Machine
end

