-- ==== Sys2Proof/Machine/Integer.lean ====
section
/-!
DEFINITION. The integer, mask and bit-field instructions (R92 to R102), every one of fixed latency.
-/

namespace Sys2Proof.Machine

/-- The shift count: bits 5:0 (R93). -/
def shiftBy (b : Word) : Nat := b.toNat % 64

/-- Bits 127:64 of a product (R93). -/
def mulHigh (a b : Int) : Word := BitVec.ofInt 64 (a * b / 2 ^ 64)

/-- R94: the signed quotient, toward zero; all ones for a zero divisor. -/
def divSigned (a b : Word) : Word := if b = 0 then allOnes else BitVec.ofInt 64 (a.toInt.tdiv b.toInt)

/-- R94: the signed remainder, with the sign of a; a for a zero divisor. -/
def remSigned (a b : Word) : Word := if b = 0 then a else BitVec.ofInt 64 (a.toInt.tmod b.toInt)

def divUnsigned (a b : Word) : Word := if b = 0 then allOnes else a / b

def remUnsigned (a b : Word) : Word := if b = 0 then a else a % b

/-- An instruction of one source. -/
def State.unary (s : State) (d a : Reg) (f : Word → Word) : State := s.compute [a] d fun s => f (s.rv a)

/-- An instruction of two sources. -/
def State.binary (s : State) (d a b : Reg) (f : Word → Word → Word) : State := s.compute [a, b] d fun s => f (s.rv a) (s.rv b)

/-- R93: ADD: a + b. -/
def execAdd (d a b : Reg) (s : State) : Out := .next (s.binary d a b fun a b => a + b)

/-- R93: SUB: a - b. -/
def execSub (d a b : Reg) (s : State) : Out := .next (s.binary d a b fun a b => a - b)

/-- R93: MUL: the low 64 bits of the product. -/
def execMul (d a b : Reg) (s : State) : Out := .next (s.binary d a b fun a b => a * b)

/-- R93: MULH: the high half of the signed product. -/
def execMulh (d a b : Reg) (s : State) : Out := .next (s.binary d a b fun a b => mulHigh a.toInt b.toInt)

/-- R93: MULHN: the high half of the unsigned product. -/
def execMulhn (d a b : Reg) (s : State) : Out := .next (s.binary d a b fun a b => mulHigh a.toNat b.toNat)

/-- R93: DIV (R94). -/
def execDiv (d a b : Reg) (s : State) : Out := .next (s.binary d a b fun a b => divSigned a b)

/-- R93: DIVN (R94). -/
def execDivn (d a b : Reg) (s : State) : Out := .next (s.binary d a b fun a b => divUnsigned a b)

/-- R93: REM (R94). -/
def execRem (d a b : Reg) (s : State) : Out := .next (s.binary d a b fun a b => remSigned a b)

/-- R93: REMN (R94). -/
def execRemn (d a b : Reg) (s : State) : Out := .next (s.binary d a b fun a b => remUnsigned a b)

/-- R93: AND. -/
def execAnd (d a b : Reg) (s : State) : Out := .next (s.binary d a b fun a b => a &&& b)

/-- R93: OR. -/
def execOr (d a b : Reg) (s : State) : Out := .next (s.binary d a b fun a b => a ||| b)

/-- R93: XOR. -/
def execXor (d a b : Reg) (s : State) : Out := .next (s.binary d a b fun a b => a ^^^ b)

/-- R93: ANDN: a AND NOT b. -/
def execAndn (d a b : Reg) (s : State) : Out := .next (s.binary d a b fun a b => a &&& ~~~b)

/-- R93: SHL: by b[5:0]. -/
def execShl (d a b : Reg) (s : State) : Out := .next (s.binary d a b fun a b => a <<< shiftBy b)

/-- R93: SHRA: arithmetic, by b[5:0]. -/
def execShra (d a b : Reg) (s : State) : Out := .next (s.binary d a b fun a b => a.sshiftRight (shiftBy b))

/-- R93: SHRL: logical, by b[5:0]. -/
def execShrl (d a b : Reg) (s : State) : Out := .next (s.binary d a b fun a b => a >>> shiftBy b)

/-- R93: ROTL: by b[5:0]. -/
def execRotl (d a b : Reg) (s : State) : Out := .next (s.binary d a b fun a b => a.rotateLeft (shiftBy b))

/-- R93: MIN, signed. -/
def execMin (d a b : Reg) (s : State) : Out := .next (s.binary d a b fun a b => if a.slt b then a else b)

/-- R93: MAX, signed. -/
def execMax (d a b : Reg) (s : State) : Out := .next (s.binary d a b fun a b => if a.slt b then b else a)

/-- R93: MINN, unsigned. -/
def execMinn (d a b : Reg) (s : State) : Out := .next (s.binary d a b fun a b => if a < b then a else b)

/-- R93: MAXN, unsigned. -/
def execMaxn (d a b : Reg) (s : State) : Out := .next (s.binary d a b fun a b => if a < b then b else a)

/-- R93: SLT, signed. -/
def execSlt (d a b : Reg) (s : State) : Out := .next (s.binary d a b fun a b => boolWord (a.slt b))

/-- R93: SLTN, unsigned. -/
def execSltn (d a b : Reg) (s : State) : Out := .next (s.binary d a b fun a b => boolWord (a < b))

/-- R93: SEQ. -/
def execSeq (d a b : Reg) (s : State) : Out := .next (s.binary d a b fun a b => boolWord (a == b))

/-- R95: ADDI. -/
def execAddi (d a : Reg) (imm : BitVec 10) (s : State) : Out := .next (s.unary d a fun a => let i : Word := imm.signExtend 64; a + i)

/-- R95: ANDI. -/
def execAndi (d a : Reg) (imm : BitVec 10) (s : State) : Out := .next (s.unary d a fun a => let i : Word := imm.signExtend 64; a &&& i)

/-- R95: ORI. -/
def execOri (d a : Reg) (imm : BitVec 10) (s : State) : Out := .next (s.unary d a fun a => let i : Word := imm.signExtend 64; a ||| i)

/-- R95: XORI. -/
def execXori (d a : Reg) (imm : BitVec 10) (s : State) : Out := .next (s.unary d a fun a => let i : Word := imm.signExtend 64; a ^^^ i)

/-- R95: SLTI, signed. -/
def execSlti (d a : Reg) (imm : BitVec 10) (s : State) : Out := .next (s.unary d a fun a => let i : Word := imm.signExtend 64; boolWord (a.slt i))

/-- R95: SHLI. -/
def execShli (d a : Reg) (sh : BitVec 6) (s : State) : Out := .next (s.unary d a fun a => let n := sh.toNat; a <<< n)

/-- R95: SHRAI, arithmetic. -/
def execShrai (d a : Reg) (sh : BitVec 6) (s : State) : Out := .next (s.unary d a fun a => let n := sh.toNat; a.sshiftRight n)

/-- R95: SHRLI, logical. -/
def execShrli (d a : Reg) (sh : BitVec 6) (s : State) : Out := .next (s.unary d a fun a => let n := sh.toNat; a >>> n)

/-- R96: LI. -/
def execLi (d : Reg) (imm : BitVec 26) (s : State) : Out := .next (s.compute [] d fun _ => imm.signExtend 64)

/-- R96: LIH. -/
def execLih (d a : Reg) (imm : BitVec 26) (s : State) : Out := .next (s.unary d a fun a => (a <<< 26) ||| imm.setWidth 64)

/-- R97: ADDPC: the PC of a target. -/
def execAddpc (d : Reg) (off : BitVec 11) (hd : BitVec 5) (s : State) : Out :=
  .next (s.compute [] d fun s => branchTarget (s.slot s.cur).pc off hd)

/-- Leading zero bits of the low `n` bits. -/
def leadingZeros (a : Word) : Nat → Nat
  | 0 => 0
  | n + 1 => if a.getLsbD n then 0 else leadingZeros a n + 1

/-- Trailing zero bits from bit `k` on, of `n` bits. -/
def trailingZeros (a : Word) : Nat → Nat → Nat
  | 0, _ => 0
  | n + 1, k => if a.getLsbD k then 0 else trailingZeros a n (k + 1) + 1

/-- R98: CLZ. -/
def execClz (d a : Reg) (s : State) : Out := .next (s.unary d a fun a => BitVec.ofNat 64 (leadingZeros a 64))

/-- R98: CTZ. -/
def execCtz (d a : Reg) (s : State) : Out := .next (s.unary d a fun a => BitVec.ofNat 64 (trailingZeros a 64 0))

/-- The one bits of a word. -/
def popCount (a : Word) : Nat := ((List.range 64).filter fun k => a.getLsbD k).length

/-- R98: POPC. -/
def execPopc (d a : Reg) (s : State) : Out := .next (s.unary d a fun a => BitVec.ofNat 64 (popCount a))

/-- R99: SEL. -/
def execSel (d a b c : Reg) (s : State) : Out :=
  .next (s.compute [a, b, c] d fun s => if s.rv c ≠ 0 then s.rv a else s.rv b)

/-- R100: BFX: the field of w = wm1 + 1 bits from bit lo. -/
def execBfx (d a : Reg) (wm1 lo : BitVec 6) (sx : Bool) (s : State) : Out :=
  .next (s.unary d a fun a =>
    let w := wm1.toNat + 1
    let f := fld a (lo.toNat + wm1.toNat) lo.toNat
    if sx then sextNat w f else BitVec.ofNat 64 f)

/-- R100: BFI: the low w = wm1 + 1 bits of a at bit lo of b. -/
def execBfi (d a b : Reg) (wm1 lo : BitVec 6) (s : State) : Out :=
  .next (s.binary d a b fun a b =>
    let m : Word := BitVec.ofNat 64 ((2 ^ (wm1.toNat + 1) - 1) <<< lo.toNat)
    (b &&& ~~~m) ||| ((a <<< lo.toNat) &&& m))

/-- R98: EXTS. -/
def execExts (d a : Reg) (sz : Size) (s : State) : Out :=
  .next (s.unary d a fun a => sextNat (8 * sizeBytes sz) (a.toNat % 2 ^ (8 * sizeBytes sz)))

/-- R98: EXTZ. -/
def execExtz (d a : Reg) (sz : Size) (s : State) : Out :=
  .next (s.unary d a fun a => BitVec.ofNat 64 (a.toNat % 2 ^ (8 * sizeBytes sz)))

/-- R102: the operations of MLOG. -/
def logEval : LogOp → BitVec 16 → BitVec 16 → BitVec 16
  | .and, a, b => a &&& b
  | .or, a, b => a ||| b
  | .xor, a, b => a ^^^ b
  | .andn, a, b => a &&& ~~~b
  | .not, a, _ => ~~~a

/-- R102: MLOG. -/
def execMlog (md ma mb : BitVec 3) (op : LogOp) (s : State) : Out :=
  .next ((s.setMreg s.cur md (logEval op (s.mreg s.cur ma) (s.mreg s.cur mb))).complete s.cur)

/-- R102: MGET writes the register of its A field. -/
def execMget (md : BitVec 3) (a : Reg) (s : State) : Out :=
  .next (s.compute [] a fun s => (s.mreg s.cur md).setWidth 64)

/-- R102: MSET. -/
def execMset (md : BitVec 3) (a : Reg) (s : State) : Out :=
  .next (s.withRegs s.cur [a] [] fun s =>
    ((s.popPorts s.cur [a]).setMreg s.cur md ((s.rv a).setWidth 16)).complete s.cur)

end Sys2Proof.Machine
end

