-- ==== Sys2Proof/Machine/Control.lean ====
section
/-!
DEFINITION. Control flow, traps and returns, parking and waking, and the issue table (R67 to R78).
-/

namespace Sys2Proof.Machine

/-- R72: NOP. -/
def execNop (s : State) : Out := .next (s.complete s.cur)

/-- The target that a branch of the current slot names (R44). -/
def State.target (s : State) (off : BitVec 11) (hd : BitVec 5) : Word := branchTarget (s.slot s.cur).pc off hd

/-- R73, R60: a branch of slot `i` is taken; a fault met at the target has the branch's PC in the record's address field, in its own line
too. DEDUCED (log 61): JX, JLX and LOOP, for which R74 and R75 name no address, as B. -/
def State.branch (s : State) (i : Nat) (target : Word) : State := s.finishTo i target (some (s.slot i).pc)

/-- R73: B. -/
def execB (off : BitVec 11) (hd : BitVec 5) (s : State) : Out := .next (s.branch s.cur (s.target off hd))

/-- R73: BL: the link is the next PC. -/
def execBl (d : Reg) (off : BitVec 11) (hd : BitVec 5) (s : State) : Out :=
  .next (s.withRegs s.cur [] [d] fun s => (s.writeReg s.cur d (s.slot s.cur).npc).branch s.cur (s.target off hd))

/-- A branch taken when `c` holds. -/
def State.branchIf (s : State) (srcs : List Reg) (c : Bool) (off : BitVec 11) (hd : BitVec 5) : State :=
  let u := s.popPorts s.cur srcs
  if c then u.branch s.cur (s.target off hd) else u.finishTo s.cur (s.slot s.cur).npc

/-- R73: BC. -/
def execBc (a b : Reg) (off : BitVec 11) (hd : BitVec 5) (c : Cond) (s : State) : Out :=
  .next (s.withRegs s.cur [a, b] [] fun s => s.branchIf [a, b] (condHolds c (s.rv a) (s.rv b)) off hd)

/-- R73: BCZ. -/
def execBcz (a : Reg) (off : BitVec 11) (hd : BitVec 5) (c : Cond) (s : State) : Out :=
  .next (s.withRegs s.cur [a] [] fun s => s.branchIf [a] (condHolds c (s.rv a) 0) off hd)

/-- R74: JX. -/
def execJx (a : Reg) (s : State) : Out :=
  .next (s.withRegs s.cur [a] [] fun s => (s.popPorts s.cur [a]).branch s.cur (s.rv a))

/-- R74: JLX: the target is read before the link is written. -/
def execJlx (d a : Reg) (s : State) : Out :=
  .next (s.withRegs s.cur [a] [d] fun s =>
    ((s.popPorts s.cur [a]).writeReg s.cur d (s.slot s.cur).npc).branch s.cur (s.rv a))

/-- R75: LOOP. -/
def execLoop (a : Reg) (off : BitVec 11) (hd : BitVec 5) (s : State) : Out :=
  let v := s.rv a - 1
  let u := s.writeReg s.cur a v
  .next (if v ≠ 0 then u.branch s.cur (s.target off hd) else u.finishTo s.cur (s.slot s.cur).npc)

/-- The trap code with a number (R366). -/
def trapOfNum (n : Nat) : TrapCode :=
  match n with
  | 1 => .illegalOp | 2 => .illegalLen | 3 => .illegalLine | 4 => .badPc | 5 => .privilege | 6 => .portRights | 7 => .misalign
  | 8 => .translation | 9 => .protection | 10 => .poison | 11 => .feTimeout | 12 => .coproc | 13 => .tokenUnderflow
  | 14 => .purity | 15 => .deadlock | 16 => .trapInsn | 17 => .sstep | _ => .cancelled

/-- R76: HALT; in a trap handler the task faults out with the trap's code. -/
def execHalt (s : State) : Out :=
  let sl := s.slot s.cur
  .next (s.endTask s.cur (if sl.inh then .fault (trapOfNum (fld (sl.trap.getD 0 0) 7 0)) else .halt))

/-- R76: TRAP: EPC is the next PC. -/
def execTrap (imm : BitVec 10) (s : State) : Out :=
  let sl := s.slot s.cur
  .next (s.takeTrap s.cur
    { code := .trapInsn, pc := sl.pc, ops := imm.setWidth 64, epc := sl.npc, task := sl.task.task })

/-- R76: ERET. -/
def execEret (s : State) : Out :=
  .next (if (s.slot s.cur).inh then s.returnTrap s.cur else s.trapAt s.cur .privilege)

/-- R77: PARK. -/
def execPark (s : State) : Out :=
  if (s.slot s.cur).wp then .next ((s.modSlot s.cur fun sl => { sl with wp := false }).complete s.cur)
  else .next (s.parkOn s.cur .park)

/-- R77: WP of slot `j` is set; a slot parked by PARK goes on, with WP clear. -/
def State.wakeSlot (s : State) (j : Nat) : State :=
  let sl := s.slot j
  if sl.st = .parked && sl.park = .park then s.complete j
  else s.modSlot j fun sl => { sl with wp := true }

/-- R77: WAKE. -/
def execWake (d a : Reg) (s : State) : Out :=
  let i := s.cur
  .next (s.withRegs i [a] [d] fun s =>
    let v := s.rv a
    let j := 8 * (i / 8) + fld v 2 0
    let st := (s.slot j).st
    if fld v 63 3 ≠ 0 || st = .idle || st = .drain || st = .stopped then s.writeDone i [a] d 6
    else ((((s.popPorts i [a]).wakeSlot j).writeReg i d 0).complete i))

/-! The issue table (R67 to R69, R78). -/

/-- R67: an entry whose no-grant bit is set must have slot 0. -/
def entryOk (e : Byte) : Bool := !(e.getLsbD 7 && fld e 6 4 ≠ 0) && !(e.getLsbD 3 && fld e 2 0 ≠ 0)

/-- R68: the handler slots of core `k`, ascending. -/
def State.handlers (s : State) (k : Nat) : List Nat := (List.range 8).filter fun j => s.duty (8 * k + j) = .handler

/-- R67, R68: entry `e` of the issue table as it grants. -/
def State.effEntry (s : State) (k e : Nat) : Byte :=
  let c := s.core k
  let hs := s.handlers k
  if c.ahEff && e % 8 = 0 && !hs.isEmpty then BitVec.ofNat 8 (17 * hs.getD (e / 8 % hs.length) 0)
  else c.tblA.getD e 0

/-- Eight entries as a word. -/
def tableWord (f : Nat → Byte) (w : Nat) : Word := bytesWord ((List.range 8).map fun j => f (8 * w + j))

/-- R78: ISSUESET: the first after an activation starts from the active image (R69). -/
def execIssueset (d a : Reg) (w : BitVec 2) (s : State) : Out :=
  let i := s.cur
  .next (s.needS fun s => s.withRegs i [a] [d] fun s =>
    let v := s.rv a
    let es := wordBytes v
    if !es.all entryOk then s.writeDone i [a] d 6
    else
      let s := (s.popPorts i [a]).modCore (i / 8) fun c =>
        let base := if c.pendOn then c.tblP else c.tblA
        { c with
          tblP := (List.range 8).foldl (init := base) fun t j => t.setIfInBounds (8 * w.toNat + j) (es.getD j 0)
          pendOn := true, wantTbl := true }
      (s.writeReg i d 0).complete i)

/-- R78: ISSUEGET; the pending image reads as the active one from an activation to the next ISSUESET, also where one came between the last
barrier and the activation (log 71). -/
def execIssueget (d : Reg) (pend : Bool) (w : BitVec 2) (s : State) : Out :=
  .next (s.compute [] d fun s =>
    let k := s.cur / 8
    let c := s.core k
    if pend then tableWord (fun e => (if c.pendOn then c.tblP else c.tblA).getD e 0) w.toNat
    else tableWord (s.effEntry k) w.toNat)

/-- R69: the image and the AH of the core's barrier take effect together, at the frame boundary after it. -/
def execIssueTableActivate (k : Nat) (s : State) : Out :=
  let c := s.core k
  match c.barrier with
  | some (img, ah) =>
    if s.dclk % 32 = 0 && !s.sched.begun then
      .next (s.setCore k { c with tblA := img, pendOn := false, ahEff := ah, barrier := none })
    else .refused (.notEnabled "ISSUE_TABLE_ACTIVATE")
  | none => .refused (.notEnabled "ISSUE_TABLE_ACTIVATE")

/-- R69: every slot of the core is IDLE, or PARKED with an empty vector latch. -/
def State.coreQuiet (s : State) (k : Nat) : Bool :=
  (coreSlots k).all fun i =>
    let sl := s.slot i
    sl.st = .idle || (sl.st = .parked && sl.latch.isNone)

/-! The port happenings (R85, R308). -/

/-- R85: slot `sl` reads port `p` (0 to 2 for y28 to y30) into `d`. -/
def execPortPop (k sl : Nat) (p : BitVec 2) (d : Reg) (s : State) : Out :=
  let i := 8 * k + sl
  let src : Reg := .y (BitVec.ofNat 5 (28 + p.toNat))
  if sl < 8 && p.toNat < 3 && (s.slot i).st = .ready then
    .next (s.withRegs i [src] [d] fun s => (s.popPorts i [src]).writeReg i d (s.reg i src))
  else .refused (.notEnabled "PORT_POP")

/-- R85: slot `sl` writes `v` to port `p`. -/
def execPortPush (k sl : Nat) (p : BitVec 2) (v : Word) (s : State) : Out :=
  let i := 8 * k + sl
  let dst : Reg := .y (BitVec.ofNat 5 (28 + p.toNat))
  if sl < 8 && p.toNat < 3 && (s.slot i).st = .ready then
    .next (s.withRegs i [] [dst] fun s => s.writeReg i dst v)
  else .refused (.notEnabled "PORT_PUSH")

/-- R308: slot `sl` reads y31 into `d`. -/
def execEventPortPop (k sl : Nat) (d : Reg) (s : State) : Out :=
  let i := 8 * k + sl
  if sl < 8 && (s.slot i).st = .ready then
    .next (s.withRegs i [.y 31] [d] fun s => s.writeReg i d (s.reg i (.y 31)))
  else .refused (.notEnabled "EVENT_PORT_POP")

end Sys2Proof.Machine
end

