-- ==== Sys2Proof/Machine/Memory.lean ====
section
/-!
DEFINITION. Loads and stores, full/empty words, bank roles and stash banks (R149 to R167): the checks of an access, issuing it, and its
effect when it is performed. The atomics and the vector loads and stores use the same operations.
-/

namespace Sys2Proof.Machine

/-! The checks of R159. -/

/-- What an instruction needs of the addresses it names. -/
structure Need where
  acc : Acc
  align : Nat
  fe : Bool := false        -- a full/empty instruction
  data : Bool := true       -- it touches the word's data
  impure : Bool := false    -- a pure task may not issue it
  home : Bool := false      -- performed as one step at the home, after a recall of held copies (R162, R244)
  atomic : Bool := false    -- an atomic (R240)
  casS : Bool := false      -- ACAS or ACAS2 at scope .s
  passed : Bool := false    -- its purity was checked when it issued (R147, R283)
deriving DecidableEq, Repr

/-- What the checks of a piece of an access give: its place, a trap, or a happening to wait for. -/
inductive Chk where
  | ok (p : Phys)
  | trap (c : TrapCode) (addr ops : Word)
  | wait (r : Req)
deriving DecidableEq, Repr

/-- The event whose rollback state the task's writes go to (R310). -/
def State.eventOf (s : State) (t : TaskInfo) : Option NEvent :=
  match t.evt, s.agent? t.part t.agent with
  | some n, some a => a.events.find? fun e => e.num = n
  | _, _ => none

/-- The address of the 4 KiB granule of `a`. -/
def granuleOf (a : Nat) : Nat := a / 4096 * 4096

/-- R310: a write of the task to this granule of a VER page must wait for its copy. -/
def State.needsCopy (s : State) (t : TaskInfo) (pa : Nat) : Bool :=
  match s.eventOf t with
  | some e => !(e.copies.any fun g => g.pa = granuleOf pa)
  | none => false

/-! Newt's records (R301, R304, R310, R315, R419). -/

def EvSt.isAnti : EvSt → Bool
  | .anti => true
  | _ => false

def EvSt.isPlaced : EvSt → Bool
  | .placed _ => true
  | _ => false

def EvSt.isWaiting : EvSt → Bool
  | .unprocessed | .placed _ => true
  | _ => false

def EvSt.isOpen : EvSt → Bool
  | .opened _ => true
  | _ => false

def EvSt.isDone : EvSt → Bool
  | .processed => true
  | _ => false

/-- Processed or open: what a rollback can undo. -/
def EvSt.undoable (e : EvSt) : Bool := e.isOpen || e.isDone

def AgentSt.num : AgentSt → Nat
  | .idle => 1 | .ready => 2 | .opened => 3 | .rollback => 4

/-- R301: the live word `j` of agent `a`'s record. The place of a checkpoint record is Newt's choice: a free value (log 9), in the pool, which
lies beyond the records of the agents, so that no place is 0. -/
def NewtPart.agentWord (n : NewtPart) (id : Nat) (a : Agent) (j : Nat) : Word :=
  let chain : Nat := match (a.events.filter (·.st.undoable)).getLast? with
    | some e => max 64 ((n.size - 4096 * n.pool + 64 * ((Config.freeWord e.num).toNat % (64 * n.pool))) % 2 ^ 64)
    | none => 0
  let unc := (a.events.filter (·.st.isDone)).length
  let pend := (a.events.filter fun e => e.st.isWaiting || e.st.isAnti).length
  match j with
  | 0 => a.lvt
  | 1 => BitVec.ofNat 64 (a.lastf.toNat * 2 ^ 56 + (if a.flt then 2 ^ 48 else 0) + a.st.num * 2 ^ 40 + a.home * 2 ^ 32 + id)
  | 2 => a.htab
  | 3 => a.sbase
  | 4 => a.sbytes
  | 5 => a.cbase
  | 6 => BitVec.ofNat 64 (a.ccur * 2 ^ 32 + a.ccom)
  | 7 => BitVec.ofNat 64 a.eq
  | 8 => BitVec.ofNat 64 a.ol
  | 9 => BitVec.ofNat 64 chain
  | 10 => a.nproc
  | 11 => BitVec.ofNat 64 (a.nanti * 2 ^ 32 + a.nroll)
  | 12 => BitVec.ofNat 64 (a.tenant.toNat * 2 ^ 48 + a.olcap * 2 ^ 40 + a.eqcap * 2 ^ 32 + a.nseq)
  | 13 => BitVec.ofNat 64 (unc * 2 ^ 32 + pend)
  | 14 => BitVec.ofNat 64 a.ccap
  | _ => 0

/-- R304: the 64 bytes of a message. -/
def EvMsg.bytes (m : EvMsg) : List Byte :=
  let b (x : Bool) (k : Nat) : Nat := if x then 2 ^ k else 0
  natBytes 8 m.ts.toNat ++ natBytes 8 (m.sel.toNat * 2 ^ 32 + b m.ext 26 + b m.col 25 + b m.sign 24 + m.rcv % 2 ^ 24)
    ++ natBytes 8 (m.seq % 2 ^ 32 * 2 ^ 32 + m.snd % 2 ^ 32) ++ natBytes 8 m.stime.toNat ++ m.pay.take 32

/-- R315: the bytes of an output log entry. -/
def LogEntry.bytes : LogEntry → List Byte
  | .send _ m => m.bytes
  | .irrev _ ts idx ring ag pay =>
    natBytes 8 ts.toNat ++ natBytes 8 (idx % 2 ^ 32 * 2 ^ 32 + ring % 256 * 2 ^ 24 + ag % 2 ^ 24) ++ pay.take 48

def LogEntry.place : LogEntry → Nat
  | .send p _ => p
  | .irrev p .. => p

def State.modNewt (s : State) (p : Nat) (f : NewtPart → NewtPart) : State := s.modPart p fun v => { v with newt := f v.newt }

/-- R301, R419: the record of agent `a` of partition `p` stands in the Newt store as it is. -/
def State.putAcr (s : State) (p a : Nat) : State :=
  match s.part? p with
  | none => s
  | some v => match get? v.newt.agents a with
    | some g => s.unitWrite (v.newt.store + 256 * a) (wordsBytes ((List.range 32).map (v.newt.agentWord a g))) g.tenant
    | none => s

/-- The agent `a` of partition `p` is changed by `f`, and its record with it. -/
def State.modAgent (s : State) (p a : Nat) (f : Agent → Agent) : State :=
  (s.modNewt p fun n => match get? n.agents a with
    | some v => { n with agents := put n.agents a (f v) }
    | none => n).putAcr p a

/-- The event with entry number `e` of agent `a` is changed by `f`. -/
def State.modEvent (s : State) (p a e : Nat) (f : NEvent → NEvent) : State :=
  s.modAgent p a fun v => { v with events := v.events.map fun x => if x.num = e then f x else x }

/-- A place of a queue or log that is not in use: the lowest. DESIGN CHOICE (log 33). -/
def freePlace (used : List Nat) : Nat := ((List.range (used.length + 1)).find? fun j => !used.contains j).getD 0

/-- The output log places of agent `a` that are in use: those of its events, and of committed records not yet delivered. -/
def NewtPart.logPlaces (n : NewtPart) (a : Nat) : List Nat :=
  let own (x : (Word × Nat × Nat) × LogEntry) : Option Nat := match x.2 with
    | .irrev p _ _ _ ag _ => if ag = a then some p else none
    | .send .. => none
  ((get? n.agents a).elim [] fun g => (g.events.flatMap (·.log)).map (·.place)) ++ n.rings.flatMap fun r => r.2.recs.filterMap own

/-- R304, R419: a message stands in place `place` of agent `a`'s input queue. -/
def State.putEvent (s : State) (p a place : Nat) (m : EvMsg) : State :=
  match (s.part? p).bind fun v => (get? v.newt.agents a).map fun g => (v.newt.store + g.eq + 64 * place, g.tenant) with
  | some (pa, t) => s.unitWrite pa m.bytes t
  | none => s

/-- R315, R419: an entry joins the output log of the event `e` of agent `a`, in its place of the log. -/
def State.putLog (s : State) (p a e : Nat) (l : LogEntry) : State :=
  let s := s.modEvent p a e fun v => { v with log := v.log ++ [l] }
  match (s.part? p).bind fun v => (get? v.newt.agents a).map fun g => (v.newt.store + g.ol + 64 * l.place, g.tenant) with
  | some (pa, t) => s.unitWrite pa l.bytes t
  | none => s

/-- R154, R310: a pool unit for the granule of `pa` is recorded against the task's open event, and the granule's dirty lines are recalled;
none when no unit is free (R339). -/
def State.reserveCopy (s : State) (t : TaskInfo) (pa : Nat) : Option State :=
  match t.evt, s.part? t.part with
  | some e, some p =>
    if p.newt.used < p.newt.pool then
      let g := granuleOf pa
      let s := (linesOf g 4096).foldl (init := s) fun s l => s.cleanCopies l none
      some ((s.modEvent t.part t.agent e fun v => { v with copies := v.copies ++ [{ pa := g, taken := false, old := [], bad := [] }] }).modNewt
        t.part fun n => { n with pwait := n.pwait.filter (· ≠ (t.agent, e)), told := false })
    else none
  | _, _ => some s

/-- R154, R157: a write of the task to `pa` is about to be performed: the copy that waits for it takes the granule's contents, with their
poison, as they stand. -/
def State.takeCopy (s : State) (t : TaskInfo) (pa : Nat) : State :=
  let g := granuleOf pa
  match if isLm pa then none else s.eventOf t with
  | some e =>
    if e.copies.any fun c => c.pa = g && !c.taken then
      s.modEvent t.part t.agent e.num fun v => { v with copies := v.copies.map fun c =>
        if c.pa = g && !c.taken then
          { c with taken := true, old := s.rdBytes g 4096, bad := ((List.range 512).map (8 * ·)).filter fun o => s.mm.poison.contains (g + o) }
        else c }
    else s
  | none => s

/-! The checks. -/

/-- R310: the page of `va`, as the slot's translation gives it, is a VER page. -/
def State.verPage (s : State) (k p : Nat) (va : Word) : Bool :=
  match s.leafOf k p va with
  | some t => t.leaf.ver
  | none => false

/-- R153, R154: a byte of a mapped stash bank that slot `i` touches: its line present, owned for a write, and its VER granule copied. -/
def State.stashCheck (s : State) (i : Nat) (acc : Acc) (p : Phys) (b off : Nat) : Chk :=
  let k := i / 8
  let t := (s.slot i).task
  let bank := look (s.core k).stash b { base := 0, hint := .none, lines := [] }
  match get? bank.lines (off / 128) with
  | none => .wait (.stash b off acc.code)
  | some (pa, owned, _) =>
    if !acc.writes then .ok p
    else if !owned then .wait (.own pa (some (b, off)))
    else if s.verPage k t.part (bank.base + BitVec.ofNat 64 off) && s.needsCopy t pa then .wait (.granule pa)
    else .ok p

/-- R159: the checks of `n` bytes at `va`, in their order. -/
def State.checkPiece (s : State) (i : Nat) (q : Need) (va : Word) (n : Nat) : Chk :=
  let sl := s.slot i
  let k := i / 8
  if sl.task.pure && !q.passed && (q.impure || !s.pureCheck i q.acc.writes va n) then .trap .purity va 0
  else if va.toNat % q.align ≠ 0 then .trap .misalign va 0
  else match s.xlate k sl.task.part sl.lv q.acc va with
    | .miss => .wait (.walk va q.acc.code (s.rootOf sl.task.part))
    | .fault c a o => .trap c a o
    | .ok p => match p.stash, p.leaf with
      | some (b, off), _ => if q.data then s.stashCheck i q.acc p b off else .ok p
      | none, none => .ok p
      | none, some l =>
        if q.fe then .trap .protection va (reasonOps 9 0)
        else if q.atomic && p.place = .hostP && !q.casS then .trap .protection va (reasonOps 6 l.level)
        else
          let toOwn : Bool := q.acc.writes && !q.home && l.c && l.tgt = 0 && match s.cached? k (lineAddr p.pa) with
            | some c => !c.owned
            | none => false
          if toOwn then .wait (.own (lineAddr p.pa) none)
          else if q.acc.writes && l.ver && s.needsCopy sl.task p.pa then .wait (.granule p.pa)
          else .ok p

/-- The checks of every piece, ascending; the first that fails stands. -/
def State.checkAll (s : State) (i : Nat) (q : Need) : List (Word × Nat) → Except Chk (List Phys)
  | [] => .ok []
  | (va, n) :: t => match s.checkPiece i q va n with
    | .ok p => match s.checkAll i q t with
      | .ok ps => .ok (p :: ps)
      | .error c => .error c
    | c => .error c

/-- R218: the TLB entries that an access used become the most recently used. -/
def State.touchTlb (s : State) (i : Nat) (vas : List Word) : State :=
  vas.foldl (init := s) fun s va => if inWindows va then s else s.tlbUse (i / 8) (s.slot i).task.part va

/-! What a slot waits for: each gives the state after it, or the trap it finds. -/

/-- A trap that a walk or fill finds: code, ADDR and OPS. -/
abbrev FoundTrap := TrapCode × Word × Word

/-- R153: the line of byte `off` of stash bank `b` of core `k` is translated and filled from its home. A line of a TGT 2 page, which no
bank may hold (R214), is refused with PROTECTION (log 59). -/
def State.doFill (s : State) (k : Nat) (t : TaskInfo) (lv : Level) (b off acc : Nat) : Option FoundTrap × State :=
  match get? (s.core k).stash b with
  | none => (none, s)
  | some v =>
    let va := v.base + BitVec.ofNat 64 off
    match s.xlateNow k t.part lv (Acc.ofCode acc) va with
    | (.ok p, s) =>
      if p.place = .hostP then (some (.protection, va, reasonOps 9 0), s)
      else
        let pa := lineAddr p.pa
        let lo := lmAddr k (0x1000 * b + off / 128 * 128)
        let s := ((s.cleanCopies pa none).llcAccess pa v.hint t.tenant false).modMm fun m => { m with
          poison := m.poison.filter fun w => !(decide (lo ≤ w) && decide (w < lo + 128)) }
        (none, s.modCore k fun c => c.modStash b fun v => { v with lines := put v.lines (off / 128) (pa, false, false) })
    | (.fault c a o, s) => (some (c, a, o), s)
    | (.miss, s) => (none, s)

/-- R217: the page behind byte `off` of stash bank `b` of core `k` refuses a write of the task; the translation is made. -/
def State.stashWriteFault (s : State) (k : Nat) (t : TaskInfo) (lv : Level) (b off : Nat) : Option FoundTrap × State :=
  let bank := look (s.core k).stash b { base := 0, hint := .none, lines := [] }
  match s.xlateNow k t.part lv .w (bank.base + BitVec.ofNat 64 off) with
  | (.fault c a o, s) => (some (c, a, o), s)
  | (_, s) => (none, s)

/-- R152, R153: the directory grants core `k` the ownership of its cache-role line `pa`, or of the stash line of a byte; every other copy
is gone. -/
def State.doOwn (s : State) (k : Nat) (t : TaskInfo) (lv : Level) (pa : Nat) (stash : Option (Nat × Nat)) :
    Option FoundTrap × State :=
  match stash with
  | some (b, off) => match s.stashWriteFault k t lv b off with
    | (some f, s) => (some f, s)
    | (none, s) => (none, (s.dropCopies pa (some { core := k, stash := some (b, off / 128) })).modCore k fun c => c.modStash b fun v => { v with
        lines := mapVals (fun n l => if n = off / 128 && l.1 = pa then (pa, true, l.2.2) else l) v.lines })
  | none => (none, (s.dropCopies pa (some { core := k })).modCore k fun c => { c with
      cache := c.cache.map fun l => if l.pa = pa then { l with owned := true } else l })

/-- R153: the line of byte `off` of stash bank `b` is present, and owned where `write`: a line that has left the bank is filled again. The
address of the byte is the answer. -/
def State.holdStash (s : State) (k : Nat) (t : TaskInfo) (lv : Level) (b off : Nat) (write : Bool) :
    Except FoundTrap Nat × State :=
  let line? (s : State) : Option (Nat × Bool × Bool) := (get? (s.core k).stash b).bind fun v => get? v.lines (off / 128)
  match if (line? s).isSome then (none, s) else s.doFill k t lv b off (if write then Acc.w else Acc.r).code with
  | (some f, s) => (.error f, s)
  | (none, s) => match line? s with
    | none => (.error (.protection, (get? (s.core k).stash b).elim 0 (·.base) + BitVec.ofNat 64 off, reasonOps 9 0), s)
    | some (pa, owned, _) =>
      if write && !owned then match s.doOwn k t lv pa (some (b, off)) with
        | (some f, s) => (.error f, s)
        | (none, s) => (.ok (pa + off % 128), s)
      else (.ok (pa + off % 128), s)

/-! Performing an access (R160, R226). -/

/-- The local-memory word behind a piece of the own core's stash, or of a bank. -/
def Piece.bankAddr (p : Piece) (k : Nat) : Option Nat :=
  match p.stash with
  | some (b, off) => some (lmAddr k (0x1000 * b + off))
  | none => if isLm p.pa then some p.pa else none

/-- Whether an access touches the data of its word. -/
def AccKind.hasData : AccKind → Bool
  | .feset .. | .feget .. | .stashwb => false
  | _ => true

/-- R150: a piece meets the banks as they are when it is performed: the test of the role, and, where it touches the data, a stash line
present and owned for a write. -/
def State.locate (s : State) (i : Nat) (a : Access) (p : Piece) : Except FoundTrap Piece × State :=
  let k := i / 8
  match if a.kind = .stashwb then none else p.bankAddr k with
  | none => (.ok p, s)
  | some w => match s.bankCheck w p.va (lmCore w ≠ k) with
    | .fault c ad o => (.error (c, ad, o), s)
    | .miss => (.ok p, s)
    | .ok q => match if a.kind.hasData then q.stash else none with
      | none => (.ok { p with pa := q.pa, stash := q.stash }, s)
      | some (b, off) => match s.holdStash k (s.slot i).task (s.slot i).lv b off a.write with
        | (.error f, s) => (.error f, s)
        | (.ok pa, s) => (.ok { p with pa := pa, stash := some (b, off) }, s)

/-- R157: a word of the piece, as the core finds it, is poisoned. -/
def State.piecePoison (s : State) (k : Nat) (p : Piece) : Bool :=
  if p.stash.isSome || isLm p.pa then s.poisoned p.pa p.n else s.viewPoison (some k) p.cached p.pa p.n

/-- The holder through which core `k` reaches a piece's line, where it does not go to the home: its stash line, or its cache-role line. -/
def State.holderOf (s : State) (k : Nat) (p : Piece) : Option Holder :=
  match p.stash with
  | some (b, off) => some { core := k, stash := some (b, off / 128) }
  | none => if p.cached && (s.cached? k (lineAddr p.pa)).isSome then some { core := k } else none

/-- R210: an access acts at the LLC home of its line; one of a TGT 2 page goes past it (R214). -/
def State.atHome (s : State) (a : Access) (p : Piece) (tenant : BitVec 16) (write : Bool) : State :=
  if p.place = .hostP then s else s.llcAccess (lineAddr p.pa) a.hint tenant write

/-- R152, R210, R226, R238: core `k` reads a piece: the bytes, and the lines that the read recalls, places and uses. -/
def State.readPiece (s : State) (k : Nat) (tenant : BitVec 16) (a : Access) (p : Piece) : List Byte × State :=
  if isLm p.pa then (s.rdBytes p.pa p.n, s)
  else
    let l := lineAddr p.pa
    let bs := if p.stash.isSome then s.rdBytes p.pa p.n else s.viewBytes (some k) p.cached p.pa p.n
    (bs, match s.holderOf k p with
      | some h => if h.stash.isSome then s else s.modCore k fun c => c.useLine l a.hint
      | none =>
        let s := (if p.cached then s.cleanCopies l none else s).atHome a p tenant false
        if p.cached then s.cachePlace k l a.hint tenant else s)

/-- A store of core `k` at one piece: on its own copy of the line, or at the home. -/
def State.storePiece (s : State) (k : Nat) (tenant : BitVec 16) (a : Access) (p : Piece) (bs : List Byte) : State :=
  if isLm p.pa then s.wrBytes p.pa bs
  else match s.holderOf k p with
    | some h => (s.wrBytes p.pa bs false (some h)).dirtyOwn h (lineAddr p.pa) a.hint
    | none => (s.wrBytes p.pa bs).atHome a p tenant true

/-- The pieces of a store with their bytes. -/
def splitBytes : List Piece → List Byte → List (Piece × List Byte)
  | [], _ => []
  | p :: t, bs => (p, bs.take p.n) :: splitBytes t (bs.drop p.n)

/-- A step at the home: held copies are recalled first (R162, R244); one through the own stash is the line's. -/
def State.stepPiece (s : State) (k : Nat) (tenant : BitVec 16) (a : Access) (p : Piece) (new : Option (List Byte)) : State :=
  match new with
  | some bs =>
    if isLm p.pa then s.wrBytes p.pa bs
    else if p.stash.isSome then s.storePiece k tenant a p bs
    else (s.wrBytes p.pa bs).atHome a p tenant true
  | none => if isLm p.pa || p.stash.isSome then s else (s.dropCopies (lineAddr p.pa) none).atHome a p tenant false

/-- R244: the operations, on `n`-byte values. -/
def atomEval (op : AtomOp) (n old b : Nat) : Nat :=
  let sg (v : Nat) : Int := Int.bmod v (2 ^ (8 * n))
  match op with
  | .add => (old + b) % 2 ^ (8 * n)
  | .and => Nat.land old b
  | .or => Nat.lor old b
  | .xor => Nat.xor old b
  | .min => if sg old ≤ sg b then old else b
  | .max => if sg b ≤ sg old then old else b
  | .minn => Nat.min old b
  | .maxn => Nat.max old b
  | .swp => b

/-- A raised trap joins those the slot has to take (R371); a cancelled task takes none. -/
def State.raise (s : State) (i : Nat) (t : Late) : State :=
  if (s.slot i).exit = .cancelled then s else s.modSlot i fun sl => { sl with late := sl.late ++ [t] }

/-- Whether an access reads its word, so that poison stops it (R157). -/
def AccKind.reads : AccKind → Bool
  | .load .. | .vload .. | .nibble .. | .rmw .. | .cas .. | .cas2 .. => true
  | _ => false

/-- A register write of the slot's task; a cancelled task's is discarded (R103). -/
def State.land (s : State) (i : Nat) (d : Dst) (v : Word) : State :=
  if (s.slot i).exit = .cancelled then s else s.writeDst i d v

/-- R246: the register write of an atomic; that of a task that a cancellation or a trap has stopped is discarded. -/
def State.landStep (s : State) (i : Nat) (d : Dst) (v : Word) : State :=
  match (s.slot i).exit with
  | .cancelled | .fault _ => s
  | _ => s.writeDst i d v

/-! Full/empty words (R155). -/

/-- R151, R155, R156: a full/empty access leaves its word without effect, and its slot takes a trap exactly at its next turn. -/
def State.feFault (s : State) (i : Nat) (a : Access) (c : TrapCode) (addr ops : Word) : State :=
  let s := s.modMm fun m => { m with feq := m.feq.filter fun q => !(q.2.1 = i && q.2.2 = a.id) }
  let s := (s.dropCnt i a.kind.cnt).modSlot i fun sl => { sl with pend := sl.pend.filter fun b => b.id ≠ a.id }
  if (s.slot i).exit ≠ .none then s
  else s.modSlot i fun sl => { sl with
    st := .stall, park := .none, hold := .none, found := some { req := .own 0 none, code := c, addr := addr, ops := ops } }

/-- R155: the access is served: it leaves the word, its counter falls and its slot goes on. -/
def State.endFe (s : State) (i : Nat) (a : Access) : State :=
  let s := s.modMm fun m => { m with feq := m.feq.filter fun q => !(q.2.1 = i && q.2.2 = a.id) }
  ((s.dropCnt i a.kind.cnt).modSlot i fun sl => { sl with pend := sl.pend.filter fun b => b.id ≠ a.id }).complete i

/-- R150, R155: the access of slot `i` is served at its word: the test of the bank's role, the data in the bank or in the stash line, the
word's state; and the slot goes on. -/
def State.serveFe (s : State) (i : Nat) (a : Access) : State :=
  let k := lmCore a.word
  let p : Piece := { pa := a.word, n := 8, va := a.va, place := .ownLm, cached := false, ver := false, stash := none }
  match s.locate i a p with
  | (.error (c, ad, o), s) => s.feFault i a c ad o
  | (.ok p, s) => match a.kind with
    | .ldf d empties =>
      if s.poisoned p.pa 8 then s.feFault i a .poison a.va 0
      else
        let s := s.writeDst i d (s.rdWord p.pa)
        (if empties then s.setFullBit a.word false else s).endFe i a
    | .stf v =>
      (((s.takeCopy (s.slot i).task p.pa).storePiece k (s.slot i).task.tenant a p (wordBytes v)).setFullBit a.word true).endFe i a
    | _ => s

/-- The oldest waiting access that word `w` can serve in its present state. -/
def State.nextFe (s : State) (w : Nat) : Option (Nat × Access) :=
  let full := s.fullWord w
  s.mm.feq.findSome? fun q =>
    if q.1 = w then
      match (s.slot q.2.1).pend.find? fun a => a.id = q.2.2 with
      | some a => match a.kind with
        | .ldf .. => if full then some (q.2.1, a) else none
        | .stf _ => if full then none else some (q.2.1, a)
        | _ => none
      | none => none
    else none

/-- R155: waiters of word `w` are served until none can be. -/
def State.serveWord (s : State) (w : Nat) : State :=
  let rec go : Nat → State → State
    | 0, s => s
    | n + 1, s => match s.nextFe w with
      | some (i, a) => go n (s.serveFe i a)
      | none => s
  go s.mm.feq.length s

/-- R62, R155: the waiters of a word that has changed are served in the core cycle of the change: after its turns where a turn changed it,
so that no slot that is served issues in that core cycle. -/
def State.wakeWord (s : State) (w : Nat) : State :=
  if s.sched.inTurn then s.modSched fun c => { c with serve := insertNat w c.serve } else s.serveWord w

/-- The waiters of the words that turns changed are served. -/
def State.serveLate (s : State) : State :=
  s.sched.serve.foldl (init := s.modSched fun c => { c with serve := [] }) State.serveWord

/-- R155: word `w` becomes FULL or EMPTY, and its waiters are served. -/
def State.setFull (s : State) (w : Nat) (full : Bool) : State := (s.setFullBit w full).wakeWord w

/-- R155: the local-memory words wholly or partly written by an engine become FULL. -/
def State.fillWords (s : State) (ws : List Nat) : State :=
  ws.foldl (fun s w => if isLm w then s.setFull w true else s) s

/-! The effects (R161 to R165, R244, R245). -/

/-- R165: STASHWB writes the dirty lines of bank `b` of core `k` back, with the bank's hint. -/
def State.writeBackBank (s : State) (k b : Nat) (tenant : BitVec 16) : State :=
  match get? (s.core k).stash b with
  | none => s
  | some v => v.lines.foldl (init := s) fun s l =>
      if l.2.2.2 then
        ((s.llcAccess l.2.1 v.hint tenant true).modCore k fun c => c.modStash b fun v => { v with
          lines := put v.lines l.1 (l.2.1, false, false) }).settleHome l.2.1
      else s

/-- R161: what a load writes when its last piece is performed. -/
def State.finishLoad (s : State) (i : Nat) (a : Access) : State :=
  let bs := a.got.flatten
  match a.kind with
  | .load d sx => s.land i d (if sx then sextNat (8 * bs.length) (bytesNat bs) else BitVec.ofNat 64 (bytesNat bs))
  | .vload vd => if (s.slot i).exit = .cancelled then s else s.setVreg i vd (BitVec.ofNat 256 (bytesNat bs))
  | _ => s

/-- R162 to R165, R244, R245: an access of one step at the place `p`. -/
def State.stepEffect (s : State) (i : Nat) (a : Access) (p : Piece) : State :=
  let k := i / 8
  let tenant := (s.slot i).task.tenant
  let s := if a.write then s.takeCopy (s.slot i).task p.pa else s
  let old := bytesNat (s.rdBytes p.pa p.n)
  match a.kind with
  | .nibble hi v =>
    let b := s.mm.bytes.byte p.pa
    let b : Byte := if hi then (v ++ b.extractLsb' 0 4).cast rfl else (b.extractLsb' 4 4 ++ v).cast rfl
    s.stepPiece k tenant a p (some [b])
  | .rmw op d b =>
    (s.stepPiece k tenant a p (some (natBytes p.n (atomEval op p.n old (b.toNat % 2 ^ (8 * p.n)))))).landStep i d (BitVec.ofNat 64 old)
  | .cas d b exp new =>
    let (c, s) := if p.place = .hostP then s.choose else (0, s)
    if c ≠ 0 then s.landStep i d 4
    else
      let s := s.stepPiece k tenant a p (if old = exp then some (natBytes p.n new) else none)
      (s.landStep i b (BitVec.ofNat 64 old)).landStep i d (if old = exp then 0 else 1)
  | .cas2 d b exp new =>
    let (c, s) := if p.place = .hostP then s.choose else (0, s)
    if c ≠ 0 then s.landStep i d 4
    else
      let s := s.stepPiece k tenant a p (if old = exp then some (natBytes p.n new) else none)
      ((s.landStep i b (BitVec.ofNat 64 old)).landStep i b.next (BitVec.ofNat 64 (old / 2 ^ 64))).landStep i d (if old = exp then 0 else 1)
  | .feset full => s.setFull a.word full
  | .feget d => s.land i d (boolWord (s.fullWord a.word))
  | .stashwb => a.parts.foldl (init := s) fun s p => s.writeBackBank k p.pa tenant
  | _ => s

/-- The access leaves the slot: a held head completes, and the counter falls. -/
def State.closeAccess (s : State) (i : Nat) (a : Access) : State :=
  let s := s.modSlot i fun sl => { sl with pend := sl.pend.filter fun b => b.id ≠ a.id }
  let s := if (s.slot i).hold = .access a.id then s.complete i else s
  s.decCnt i a.kind.cnt

/-- The access leaves the slot with the trap `t`: a held head takes it, and no SSTEP (R372). -/
def State.failAccess (s : State) (i : Nat) (a : Access) (t : Late) : State :=
  let s := s.modSlot i fun sl => { sl with pend := sl.pend.filter fun b => b.id ≠ a.id }
  let s := if (s.slot i).hold = .access a.id then s.goTo i (s.slot i).npc else s
  (s.decCnt i a.kind.cnt).raise i t

/-- R225: an access whose pieces are ordered each on its own. -/
def AccKind.splits : AccKind → Bool
  | .load .. | .vload .. | .store .. => true
  | _ => false

/-- The bytes of piece `j` of a store. -/
def Access.dataOf (a : Access) (j : Nat) : List Byte :=
  match a.kind with
  | .store data => (data.drop ((a.parts.take j).map (·.n)).sum).take ((a.parts[j]?).elim 0 (·.n))
  | _ => []

/-- Piece `j` of a load or a store, at the place `p`: the access as it then stands, and the state. -/
def State.movePiece (s : State) (i : Nat) (a : Access) (j : Nat) (p : Piece) : Access × State :=
  let tenant := (s.slot i).task.tenant
  let a' := { a with left := a.left.filter (· ≠ j) }
  match a.kind with
  | .store _ => (a', (s.takeCopy (s.slot i).task p.pa).storePiece (i / 8) tenant a p (a.dataOf j))
  | _ =>
    let r := s.readPiece (i / 8) tenant a p
    ({ a' with got := a.got.set j r.1 }, r.2)

/-- Piece `j` of an outstanding access of slot `i` is performed; with the last piece the access is. R150: the test of the banks; R157:
POISON of an access performed before the slot's next turn is exact. -/
def State.performPiece (s : State) (i : Nat) (a : Access) (j : Nat) : State :=
  let p := a.parts.getD j { pa := 0, n := 0, va := 0, place := .dev, cached := false, ver := false, stash := none }
  match s.locate i a p with
  | (.error (c, ad, o), s) => s.failAccess i a (.access c a.pc ad o)
  | (.ok p, s) =>
    if a.kind.reads && s.piecePoison (i / 8) p then s.failAccess i a (.poison a.pc p.va (s.dclk < a.issued + 8))
    else if !a.kind.splits then (s.stepEffect i a p).closeAccess i a
    else
      let (a, s) := s.movePiece i a j p
      if a.left.isEmpty then (s.finishLoad i a).closeAccess i a
      else s.modSlot i fun sl => { sl with pend := sl.pend.map fun b => if b.id = a.id then a else b }

/-! Issuing an access. -/

/-- Two pieces share a byte. -/
def Piece.meets (p q : Piece) : Bool := decide (p.pa < q.pa + q.n) && decide (q.pa < p.pa + p.n)

/-- A piece of the access that is not yet performed shares a byte with `p`. -/
def Access.leftAt (a : Access) (p : Piece) : Bool := a.left.any fun j => (a.parts[j]?).any p.meets

/-- R160: an outstanding access of the slot shares a byte with one of the pieces. -/
def Slot.pendAt (sl : Slot) (ps : List Piece) : Bool := sl.pend.any fun a => ps.any a.leftAt

/-- R160: the access is performed in its issue cycle: it lies in the own core's banks, a present stash line or a held line of the
cache role, and no earlier access to the same location is outstanding. -/
def State.immediate (s : State) (i : Nat) (a : Access) : Bool :=
  !(s.slot i).pendAt a.parts && a.parts.all fun p =>
    p.stash.isSome || (if isLm p.pa then lmCore p.pa = i / 8 else !a.home && (s.holderOf (i / 8) p).isSome)

/-- What an instruction asks for. -/
structure Issue where
  kind : AccKind
  need : Need
  pieces : List (Word × Nat)
  hint : Hint
  release : Bool := false
  acquire : Bool := false
deriving DecidableEq, Repr

/-- R225: the aligned pieces of at most 8 bytes of the `n` bytes at `va`, which lead to `p`; ACAS2's 16 bytes stay one piece. -/
def piecesOf (whole : Bool) (p : Phys) (va : Word) (n : Nat) : List Piece :=
  let one (o m : Nat) : Piece :=
    { pa := p.pa + o, n := m, va := va + BitVec.ofNat 64 o, place := p.place
      cached := match p.leaf with
        | some l => l.c && l.tgt = 0
        | none => false
      ver := match p.leaf with
        | some l => l.ver
        | none => false
      stash := p.stash.map fun b => (b.1, b.2 + o) }
  if whole || n ≤ 8 then [one 0 n] else (List.range (n / 8)).map fun j => one (8 * j) 8

/-- The access that an instruction of slot `i` makes at the places `ps`. -/
def State.mkAccess (s : State) (i id : Nat) (q : Issue) (ps : List Phys) : Access :=
  let parts := (ps.zip q.pieces).flatMap fun x => piecesOf (!q.kind.splits) x.1 x.2.1 x.2.2
  { id := id, kind := q.kind, parts := parts, left := List.range parts.length, got := parts.map fun _ => []
    va := (q.pieces.headD (0, 0)).1, home := q.need.home, write := q.need.acc.writes, word := (ps.head?).elim 0 (·.word), hint := q.hint
    scopeS := q.need.casS, hold := q.acquire, pc := (s.slot i).pc, issued := s.dclk, queued := false, leaving := false }

/-- R157: the address of the first piece of a read, as the core finds it, that is poisoned. -/
def State.poisonAt (s : State) (i : Nat) (a : Access) : Option Word :=
  if a.kind.reads then (a.parts.find? (s.piecePoison (i / 8))).map (·.va) else none

/-- R160: an access that is performed whole in its issue cycle. -/
def State.effect (s : State) (i : Nat) (a : Access) : State :=
  if a.kind.splits then
    let r := (List.range a.parts.length).foldl (init := (a, s)) fun r j => match a.parts[j]? with
      | some p => r.2.movePiece i r.1 j p
      | none => r
    r.2.finishLoad i r.1
  else match a.parts.head? with
    | some p => s.stepEffect i a p
    | none => s

/-- R160, R86, R229: the current head asks for `q`; `srcs` are its register sources. -/
def State.issueAccess (s : State) (i : Nat) (srcs : List Reg) (q : Issue) : State :=
  let sl := s.slot i
  if 15 ≤ sl.cnt.get q.kind.cnt then s.stallHead i
  else match s.checkAll i q.need q.pieces with
    | .error (.trap c a o) => s.trapAt i c a o
    | .error (.wait r) => s.stallFor i r
    | .error (.ok _) => s
    | .ok ps =>
      if q.release && !sl.pend.isEmpty then s.stallHead i
      else
        let (id, s) := s.newId
        let s := s.touchTlb i (q.pieces.map (·.1))
        let a := s.mkAccess i id q ps
        if s.immediate i a then
          match s.poisonAt i a with
          | some va => s.trapAt i .poison va
          | none => ((s.popPorts i srcs).effect i a).complete i
        else
          let s := ((s.popPorts i srcs).incCnt i a.kind.cnt).modSlot i fun sl => { sl with pend := sl.pend ++ [a] }
          if q.acquire then s.holdFor i (.access id) else if a.kind.reads then s.completeRead i else s.complete i

/-! The scalar loads and stores (R161, R162). -/

def State.scalarLoad (s : State) (srcs : List Reg) (d : Reg) (va : Word) (n : Nat) (sx : Bool) (h : Hint) : State :=
  s.issueAccess s.cur srcs
    { kind := .load ((s.slot s.cur).bind d) sx, need := { acc := .r, align := n }, pieces := [(va, n)], hint := h }

def State.scalarStore (s : State) (srcs : List Reg) (v va : Word) (n : Nat) (h : Hint) : State :=
  s.issueAccess s.cur srcs
    { kind := .store (natBytes n v.toNat), need := { acc := .w, align := n }, pieces := [(va, n)], hint := h }

/-- R161: LD. -/
def execLd (d a : Reg) (imm : BitVec 16) (sz : Size) (h : Hint) (s : State) : Out :=
  .next (s.withRegs s.cur [a] [d] fun s => s.scalarLoad [a] d (s.ea a imm) (sizeBytes sz) false h)

/-- R161: LDS. -/
def execLds (d a : Reg) (imm : BitVec 16) (sz : Size) (h : Hint) (s : State) : Out :=
  .next (s.withRegs s.cur [a] [d] fun s => s.scalarLoad [a] d (s.ea a imm) (sizeBytes sz) true h)

/-- R161: ST. -/
def execSt (a b : Reg) (imm : BitVec 16) (sz : Size) (h : Hint) (s : State) : Out :=
  .next (s.withRegs s.cur [a, b] [] fun s => s.scalarStore [a, b] (s.rv b) (s.ea a imm) (sizeBytes sz) h)

/-- R162: STN. -/
def execStn (a b : Reg) (imm : BitVec 16) (hi : Bool) (h : Hint) (s : State) : Out :=
  .next (s.withRegs s.cur [a, b] [] fun s => s.issueAccess s.cur [a, b]
    { kind := .nibble hi ((s.rv b).setWidth 4), need := { acc := .w, align := 1, home := true }, pieces := [(s.ea a imm, 1)]
      hint := h })

/-- R161: LDX. -/
def execLdx (d a b : Reg) (imm : BitVec 16) (sz : Size) (h : Hint) (s : State) : Out :=
  .next (s.withRegs s.cur [a, b] [d] fun s => s.scalarLoad [a, b] d (s.eaX a b imm (sizeBytes sz)) (sizeBytes sz) false h)

/-- R161: STX. -/
def execStx (a b c : Reg) (imm : BitVec 16) (sz : Size) (h : Hint) (s : State) : Out :=
  .next (s.withRegs s.cur [a, b, c] [] fun s =>
    s.scalarStore [a, b, c] (s.rv c) (s.eaX a b imm (sizeBytes sz)) (sizeBytes sz) h)

/-! Full/empty instructions (R155, R156, R164). -/

/-- R155, R156: an LDF, LDFE or STF of slot `i` reaches its word. In the right state it is served, then the other waiters are; in the wrong
state, or behind a waiter that is to be served, it waits there. -/
def State.reachWord (s : State) (i : Nat) (a : Access) : State :=
  let wants := match a.kind with
    | .stf _ => false
    | _ => true
  if s.fullWord a.word = wants && (s.nextFe a.word).isNone then (s.serveFe i a).wakeWord a.word
  else
    let s := s.modMm fun m => { m with feq := m.feq ++ [(a.word, i, a.id)] }
    let s := s.modSlot i fun sl => { sl with pend := sl.pend.map fun b => if b.id = a.id then { b with queued := true } else b }
    s.parkOn i (if wants then .feFull a.va else .feEmpty a.va)

/-- R164: LDF, LDFE and STF: the slot issues nothing more until the access is served. -/
def State.issueFe (s : State) (i : Nat) (srcs : List Reg) (kind : AccKind) (acc : Acc) (va : Word) : State :=
  let sl := s.slot i
  let q : Issue := { kind := kind, need := { acc := acc, align := 8, fe := true }, pieces := [(va, 8)], hint := .none }
  if 15 ≤ sl.cnt.get kind.cnt then s.stallHead i
  else match s.checkAll i q.need q.pieces with
    | .error (.trap c a o) => s.trapAt i c a o
    | .error (.wait r) => s.stallFor i r
    | .error (.ok _) => s
    | .ok ps =>
      let (id, s) := s.newId
      let a := s.mkAccess i id q ps
      let w := a.word
      if (acc.writes && !sl.pend.isEmpty) || (lmCore w = i / 8 && sl.pendAt a.parts) then s.stallHead i
      else
        if lmCore w = i / 8 && !acc.writes && s.fullWord w && a.parts.any (s.piecePoison (i / 8)) then s.trapAt i .poison va
        else
          let s := ((s.popPorts i srcs).incCnt i kind.cnt).modSlot i fun sl => { sl with pend := sl.pend ++ [a] }
          let s := s.holdFor i (.access id)
          if lmCore w = i / 8 then s.reachWord i a else s

/-- R164: LDF. -/
def execLdf (d a : Reg) (imm : BitVec 16) (s : State) : Out :=
  .next (s.withRegs s.cur [a] [d] fun s =>
    s.issueFe s.cur [a] (.ldf ((s.slot s.cur).bind d) false) .r (s.ea a imm))

/-- R164: LDFE. -/
def execLdfe (d a : Reg) (imm : BitVec 16) (s : State) : Out :=
  .next (s.withRegs s.cur [a] [d] fun s =>
    s.issueFe s.cur [a] (.ldf ((s.slot s.cur).bind d) true) .r (s.ea a imm))

/-- R164: STF. -/
def execStf (a b : Reg) (imm : BitVec 16) (s : State) : Out :=
  .next (s.withRegs s.cur [a, b] [] fun s => s.issueFe s.cur [a, b] (.stf (s.rv b)) .w (s.ea a imm))

/-- R164: FESET; FESET.full is a release. -/
def execFeset (a : Reg) (imm : BitVec 16) (full : Bool) (s : State) : Out :=
  .next (s.withRegs s.cur [a] [] fun s => s.issueAccess s.cur [a]
    { kind := .feset full, need := { acc := .w, align := 8, fe := true, data := false }, pieces := [(s.ea a imm, 8)], hint := .none
      release := full })

/-- R164: FEGET. -/
def execFeget (d a : Reg) (imm : BitVec 16) (s : State) : Out :=
  .next (s.withRegs s.cur [a] [d] fun s => s.issueAccess s.cur [a]
    { kind := .feget ((s.slot s.cur).bind d), need := { acc := .r, align := 8, fe := true, data := false }
      pieces := [(s.ea a imm, 8)], hint := .none })

/-! Bank roles and stash banks (R151, R153, R165). -/

/-- R153: bank `b` of core `k` leaves its mapping: dirty lines go to their homes, and the bank keeps the bytes of its lines. -/
def State.unmapStash (s : State) (k b : Nat) (tenant : BitVec 16) : State :=
  match get? (s.core k).stash b with
  | none => s
  | some v =>
    let s := v.lines.foldl (init := s.writeBackBank k b tenant) fun s l => s.keepStashLine k b l.1 l.2.1
    s.modCore k fun c => { c with stash := del c.stash b }

/-- R151: bank `b` of core `k` changes its role to `new`. -/
def State.changeRole (s : State) (k b new : Nat) (tenant : BitVec 16) : State :=
  let lo := lmAddr k (0x1000 * b)
  let s := s.unmapStash k b tenant
  let s := if s.role k b = 1 then
      let gone := (s.core k).cache.filter fun l => l.bank = b
      let s := gone.foldl (init := s) fun s l => if l.dirty then s.llcAccess l.pa .none tenant true else s
      (s.modCore k fun c => { c with cache := c.cache.filter fun l => l.bank ≠ b }).settleHomes
    else s
  let s := s.modCore k fun c => { c with
    brole := (c.brole &&& ~~~((3 : Word) <<< (2 * b))) ||| (BitVec.ofNat 64 new <<< (2 * b)) }
  if new = 1 then
    let inBank (w : Nat) : Bool := decide (lo ≤ w) && decide (w < lo + 0x1000)
    let waiters := s.mm.feq.filter fun q => inBank q.1
    let s := waiters.foldl (init := s) fun s q =>
      match (s.slot q.2.1).pend.find? fun a => a.id = q.2.2 with
      | some a => s.feFault q.2.1 a .protection a.va (reasonOps 9 0)
      | none => s
    s.modMm fun m => { m with
      bytes := m.bytes.clear lo (lo + 0x1000)
      poison := m.poison.filter fun w => !inBank w
      full := m.full.filter fun w => !inBank w }
  else s

/-- R165: BANKROLE. -/
def execBankrole (d a b : Reg) (s : State) : Out :=
  let i := s.cur
  let k := i / 8
  .next (s.withRegs i [a, b] [d] fun s => s.needImpure fun s =>
    let old := (s.core k).brole
    let new := s.rv a
    let mask := s.rv b
    let tenant := (s.slot i).task.tenant
    let s := s.popPorts i [a, b]
    let s := (List.range 32).foldl (init := s) fun s j =>
      let r := fld new (2 * j + 1) (2 * j)
      if mask.getLsbD j && r ≠ s.role k j then s.changeRole k j r tenant else s
    (s.writeReg i d old).complete i)

/-- R165: STASHMAP. -/
def execStashmap (d a : Reg) (bank : BitVec 5) (h : Hint) (s : State) : Out :=
  let i := s.cur
  let k := i / 8
  .next (s.withRegs i [a] [d] fun s => s.needImpure fun s =>
    let base := s.rv a
    if s.role k bank.toNat ≠ 2 then s.writeDone i [a] d 6
    else if base ≠ 0 && fld base 11 0 ≠ 0 then s.trapAt i .misalign base
    else if fld base 63 56 ≠ 0 || inWindows base then s.writeDone i [a] d 6
    else
      let s := (s.popPorts i [a]).unmapStash k bank.toNat (s.slot i).task.tenant
      let s := if base = 0 then s
        else s.modCore k fun c => { c with stash := put c.stash bank.toNat { base := base, hint := h, lines := [] } }
      (s.writeReg i d 0).complete i)

/-- R165: STASHWB: performed at once where no line is DIRTY. -/
def execStashwb (a : Reg) (s : State) : Out :=
  let i := s.cur
  let k := i / 8
  .next (s.withRegs i [a] [] fun s =>
    if 15 ≤ (s.slot i).cnt.st then s.stallHead i
    else s.needImpure fun s =>
      let mask := s.rv a
      let dirty := (s.core k).stash.filter fun b =>
        mask.getLsbD b.1 && s.role k b.1 = 2 && b.2.lines.any fun l => l.2.2.2
      let s := s.popPorts i [a]
      if dirty.isEmpty then s.complete i
      else
        let (id, s) := s.newId
        let bank (b : Nat) : Piece := { pa := b, n := 0, va := 0, place := .ownLm, cached := false, ver := false, stash := none }
        let acc : Access :=
          { id := id, kind := .stashwb, parts := dirty.map fun b => bank b.1, left := [], got := [], va := 0, home := false, write := false
            word := 0, hint := .none, scopeS := false, hold := false, pc := (s.slot i).pc, issued := s.dclk, queued := false
            leaving := false }
        ((s.incCnt i .st).modSlot i fun sl => { sl with pend := sl.pend ++ [acc] }).complete i)

/-! Counters (R166). -/

/-- R166: WAIT. -/
def execWait (l st c t : BitVec 4) (s : State) : Out :=
  let i := s.cur
  let lim : Counters := { ld := l.toNat, st := st.toNat, cp := c.toNat, tl := t.toNat }
  .next (if (s.slot i).cnt.le lim then s.complete i
    else s.modSlot i fun sl => { sl with st := .waiting, waitFor := lim, hold := .none })

/-- R166: CNTGET. -/
def execCntget (d : Reg) (s : State) : Out :=
  .next (s.compute [] d fun s =>
    let c := (s.slot s.cur).cnt
    BitVec.ofNat 64 (c.ld * 4096 + c.st * 256 + c.cp * 16 + c.tl))

/-! The happenings. -/

/-- R160, R163, R239: piece `j` of the access can be performed: no earlier access of the slot, and no lower lane of its own, has still to be
performed at its bytes, and its page is in no flip. -/
def State.mayMove (s : State) (a : Access) (earlier : List Access) (j : Nat) : Bool :=
  match a.parts[j]? with
  | some p => !(earlier.any fun b => b.leftAt p) && !(Access.leftAt { a with left := a.left.filter (· < j) } p) && !s.pageBusy p.pa
  | none => false

/-- The outstanding access `id` of slot `i`, with the pieces of it that can be performed now. STASHWB names its banks, not bytes. -/
def State.firstOf (s : State) (i id : Nat) : Option (Access × List Nat) :=
  let l := (s.slot i).pend
  match l.find? fun a => a.id = id with
  | none => none
  | some a =>
    if a.kind = .stashwb then some (a, [0])
    else match a.left.filter (s.mayMove a (l.takeWhile fun b => b.id ≠ id)) with
      | [] => none
      | js => some (a, js)

/-- R225: one piece of the access, of those that can be, is performed. -/
def State.performAccess (s : State) (i : Nat) (a : Access) (js : List Nat) : State :=
  match js with
  | [j] => s.performPiece i a j
  | _ => let (c, s) := s.choose
         s.performPiece i a (js.getD (c % js.length) 0)

def AccKind.isStore : AccKind → Bool
  | .store .. | .nibble .. | .stashwb => true
  | _ => false

def AccKind.isFeKind : AccKind → Bool
  | .ldf .. | .stf .. | .feset .. | .feget .. => true
  | _ => false

/-- R161: an outstanding load or atomic is performed, or one piece of it (R225); with its last piece its value is written. -/
def execLoadPerformed (k sl id : Nat) (s : State) : Out :=
  let i := 8 * k + sl
  match s.firstOf i id with
  | some (a, js) =>
    if !a.kind.isStore && !a.kind.isFeKind then .next (s.performAccess i a js) else .refused (.notEnabled "LOAD_PERFORMED")
  | none => .refused (.notEnabled "LOAD_PERFORMED")

/-- R160: an outstanding store is performed, or one piece of it (R225). -/
def execStorePerformed (k sl id : Nat) (s : State) : Out :=
  let i := 8 * k + sl
  match s.firstOf i id with
  | some (a, js) => if a.kind.isStore then .next (s.performAccess i a js) else .refused (.notEnabled "STORE_PERFORMED")
  | none => .refused (.notEnabled "STORE_PERFORMED")

/-- R156: the operands of FE_TIMEOUT: the limit that the wait began with, and the BLK cause. -/
def Slot.feOps (sl : Slot) : Word :=
  (sl.feLimit &&& 0xFFFFFFFF) ||| (match sl.park with
    | .feFull _ => 3 * 2 ^ 32
    | _ => 4 * 2 ^ 32)

/-- R156: a full/empty access, or the withdrawal of one, reaches the word of another core. -/
def execFeRemoteArrival (k sl id : Nat) (s : State) : Out :=
  let i := 8 * k + sl
  match s.firstOf i id with
  | none => .refused (.notEnabled "FE_REMOTE_ARRIVAL")
  | some (a, js) =>
    if a.queued && a.leaving then .next (s.feFault i a .feTimeout a.va (s.slot i).feOps)
    else if !a.kind.isFeKind || a.queued then .refused (.notEnabled "FE_REMOTE_ARRIVAL")
    else if a.isFe then
      match s.bankCheck a.word a.va (lmCore a.word ≠ k) with
      | .fault c ad o => .next (s.feFault i a c ad o)
      | _ => .next (s.reachWord i a)
    else .next (s.performAccess i a js)

/-! What a slot waits for arrives. -/

/-- R49, R152, R214: an instruction line arrives from the LLC (past it from a TGT 2 page); the cache role places it where C = 1. -/
def State.doLine (s : State) (k : Nat) (tenant : BitVec 16) (pa : Nat) (cached llc : Bool) : State :=
  let l := lineAddr pa
  let s := if cached && (s.cached? k l).isSome then s
    else
      let s := if cached then s.cleanCopies l none else s
      if llc then s.llcAccess l .none tenant false else s
  (if cached then s.cachePlace k l .none tenant else s).modCore k fun c => c.placeLine pa

/-- The slot's wait ends: its head is tried again, or takes the trap that was found, at its next turn. -/
def State.endReq (i : Nat) (r : Req) (e : Option FoundTrap × State) : State :=
  match e with
  | (none, s) => s.modSlot i fun sl => { sl with req := none }
  | (some (c, a, o), s) => s.modSlot i fun sl => { sl with req := none, found := some { req := r, code := c, addr := a, ops := o } }

/-- R101, R217: the page walk that a slot waits for, begun with the PTBASE value `root`, ends. -/
def execTlbWalkComplete (k sl : Nat) (s : State) : Out :=
  let i := 8 * k + sl
  match (s.slot i).req with
  | some (.walk va c root) =>
    if s.walkBusy root va then .refused (.notEnabled "TLB_WALK_COMPLETE")
    else
      let w := s.walkAt root (s.slot i).task.part va
      let s := s.walked root va
      .next (State.endReq i (.walk va c root) (match s.endWalk k (s.slot i).lv (Acc.ofCode c) va w with
        | .ok (_, s) => (none, s)
        | .error f => (some f, s)))
  | _ => .refused (.notEnabled "TLB_WALK_COMPLETE")

/-- R49: the line that a slot waits for arrives from the LLC. -/
def execLineFill (k sl : Nat) (s : State) : Out :=
  let i := 8 * k + sl
  match (s.slot i).req with
  | some (.line pa c l) =>
    if s.pageBusy pa then .refused (.notEnabled "LINE_FILL")
    else .next (State.endReq i (.line pa c l) (none, s.doLine k (s.slot i).task.tenant pa c l))
  | _ => .refused (.notEnabled "LINE_FILL")

/-- R239: the page behind byte `off` of a stash bank is in a flip, so that a fill of its line waits. -/
def State.stashBusy (s : State) (k p b off : Nat) : Bool :=
  let va : Word := (get? (s.core k).stash b).elim 0 (·.base) + BitVec.ofNat 64 off
  match s.leafOf k p va with
  | some t => s.pageBusy (leafPhys va t).pa
  | none => false

/-- R153: the stash line that a slot waits for arrives. -/
def execStashFill (k sl : Nat) (s : State) : Out :=
  let i := 8 * k + sl
  match (s.slot i).req with
  | some (.stash b off acc) =>
    if s.stashBusy k (s.slot i).task.part b off then .refused (.notEnabled "STASH_FILL")
    else .next (State.endReq i (.stash b off acc) (s.doFill k (s.slot i).task (s.slot i).lv b off acc))
  | _ => .refused (.notEnabled "STASH_FILL")

/-- R152, R153: the ownership that a slot waits for is granted. -/
def execOwnershipGrant (k sl : Nat) (s : State) : Out :=
  let i := 8 * k + sl
  match (s.slot i).req with
  | some (.own pa st) =>
    if s.pageBusy pa then .refused (.notEnabled "OWNERSHIP_GRANT")
    else .next (State.endReq i (.own pa st) (s.doOwn k (s.slot i).task (s.slot i).lv pa st))
  | _ => .refused (.notEnabled "OWNERSHIP_GRANT")

end Sys2Proof.Machine
end

