-- ==== Sys2Proof/Machine/Engine.lean ====
section
/-!
DEFINITION. How engines and units read and write memory (R150, R155, R157, R192, R193, R418), the granule copies of Newt (R310), and the
event log through which the module interrupts the host (R388).
-/

namespace Sys2Proof.Machine

/-! The event log (R388). -/

/-- R388: an entry is written to the event log and MSI-X vector `vec` is raised. -/
def State.hostEvent (s : State) (vec cause part num : Nat) : State :=
  s.modHost fun h => { h with
    log := put h.log (h.nlog % 240)
      (BitVec.ofNat 64 (vec % 256 + cause % 256 * 2 ^ 8 + part % 16 * 2 ^ 16 + num % 4096 * 2 ^ 20), BitVec.ofNat 64 s.dclk)
    nlog := h.nlog + 1
    msix := h.msix ++ [vec] }

/-! Engine accesses. -/

/-- On whose behalf a unit moves bytes: the core whose requests it serves (none for a unit of no core), the partition and level of
its checks, the task for the granule copies, and its hint; and whether its request can wait at a word whose page is in a flip (R239). What a
unit of the base die does then waits whole (`State.meetFlip`). -/
structure Eng where
  core : Option Nat
  part : Nat
  lv : Level
  ti : TaskInfo
  hint : Hint
  waits : Bool := false
deriving DecidableEq, Repr

/-- R418: a unit that acts for no slot is checked at level S. -/
def Eng.sys (p : Nat) (tenant : BitVec 16 := 0) : Eng :=
  { core := none, part := p, lv := .s, ti := { TaskInfo.empty with part := p, tenant := tenant }, hint := .none }

/-- Why an engine access does not go on: a refused word (no trap), a fault, or a wait: for a full rollback pool, or for the flip of a
page (R239). -/
inductive EngErr where
  | refused
  | fault (c : TrapCode) (addr ops : Word)
  | poolFull
  | busy
deriving DecidableEq, Repr

/-- Where an engine's address leads: a local-memory address or a page. A unit of no core has no TLB: it walks (log 15). -/
def State.engXlate (s : State) (e : Eng) (acc : Acc) (va : Word) : Except EngErr (Nat × Option Leaf) × State :=
  let v := va.toNat
  if fld va 63 56 ≠ 0 then (.error (.fault .translation va (reasonOps 1 0)), s)
  else if inWindows va then
    if v < lmEnd then
      let t := (v - lmBase) / 0x20000
      if e.core = some t || s.corePart t = some e.part then (.ok (v, none), s) else (.error .refused, s)
    else match e.core with
      | some k =>
        if 0x00FFFF0000000000 ≤ v && v < 0x00FFFF0000020000 then (.ok (lmAddr k (v - 0x00FFFF0000000000), none), s)
        else (.error (.fault .translation va (reasonOps 11 0)), s)
      | none => (.error (.fault .translation va (reasonOps 11 0)), s)
  else
    match e.core with
    | some k => match s.xlateNow k e.part e.lv acc va with
      | (.ok p, s) => (.ok (p.pa, p.leaf), s)
      | (.fault c a o, s) => (.error (.fault c a o), s)
      | (.miss, s) => (.error .refused, s)
    | none =>
      let w := s.walk e.part va
      let s := (s.meetFlip (s.walkBusy (s.rootOf e.part) va)).walked (s.rootOf e.part) va
      match w with
      | .fault c a o => (.error (.fault c a o), s)
      | .leaf t => match leafCheck e.lv acc va t.leaf with
        | some (c, a, o) => (.error (.fault c a o), s)
        | none => (.ok ((leafPhys va t).pa, some t.leaf), s)

/-- Where an engine's word lies: the bytes, their page, the local-memory word it fills (0 for none), and the stash line that holds it. -/
structure EngPlace where
  pa : Nat
  leaf : Option Leaf
  word : Nat := 0
  holder : Option Holder := none
deriving DecidableEq, Repr

/-- R150: the bytes behind a local-memory address, for an engine: a plain bank, or the device line behind a mapped stash bank; for a write,
with the tests of its page (R217). -/
def State.engBank (s : State) (e : Eng) (acc : Acc) (a : Nat) : Except EngErr EngPlace × State :=
  let k := lmCore a
  let b := lmBank a
  let w := a / 8 * 8
  match s.role k b with
  | 0 | 3 => (.ok { pa := a, leaf := none, word := w }, s)
  | 2 =>
    let bank := look (s.core k).stash b { base := 0, hint := .none, lines := [] }
    let ln := lmOff a % 0x1000 / 128
    if bank.base = 0 || (acc.reads && e.core ≠ some k) then (.error .refused, s)
    else
      let page (s : State) : Except EngErr (Nat × Option Leaf) × State :=
        s.engXlate { e with core := some k } acc (bank.base + BitVec.ofNat 64 (a % 0x1000))
      match get? bank.lines ln with
      | some l =>
        let h : Holder := { core := k, stash := some (b, ln) }
        if acc.writes then match page s with
          | (.error x, s) => (.error x, s)
          | (.ok (_, f), s) => (.ok { pa := l.1 + a % 128, leaf := f, word := w, holder := some h }, s)
        else (.ok { pa := l.1 + a % 128, leaf := none, word := w, holder := some h }, s)
      | none => match page s with
        | (.error x, s) => (.error x, s)
        | (.ok (pa, f), s) => (.ok { pa := pa, leaf := f, word := w }, s)
  | _ => (.error .refused, s)

/-- The place of an engine's word; it waits while its page is in a flip (R239). -/
def State.engPlace (s : State) (e : Eng) (acc : Acc) (va : Word) : Except EngErr EngPlace × State :=
  let r : Except EngErr EngPlace × State := match s.engXlate e acc va with
    | (.error x, s) => (.error x, s)
    | (.ok (a, l), s) => if isLm a then s.engBank e acc a else (.ok { pa := a, leaf := l }, s)
  match r with
  | (.ok p, s) =>
    if !s.pageBusy p.pa then (.ok p, s)
    else if e.waits then (.error .busy, s)
    else (.ok p, s.meetFlip true)
  | x => x

/-- The page's C bit, for a place in device memory (R152, R238). -/
def EngPlace.cached (p : EngPlace) : Bool :=
  match p.leaf with
  | some l => l.c
  | none => true

/-- An engine's access acts at the LLC home of its line; one of a TGT 2 page goes past it, and one of a bank's own bytes reaches none. -/
def State.engHome (s : State) (e : Eng) (p : EngPlace) (write : Bool) : State :=
  match p.leaf with
  | some f => if f.tgt = 2 then s else s.llcAccess (lineAddr p.pa) e.hint e.ti.tenant write
  | none => s

/-- The pieces of `n` bytes at `va` that lie in one 8-byte word each. -/
def splitWords (va : Word) : Nat → Nat → List (Word × Nat)
  | 0, _ => []
  | fuel + 1, n =>
    if n = 0 then []
    else
      let m := min n (8 - va.toNat % 8)
      (va, m) :: splitWords (va + BitVec.ofNat 64 m) fuel (n - m)

/-- `n` bytes split at the word boundaries. -/
def wordPieces (va : Word) (n : Nat) : List (Word × Nat) := splitWords va (n / 8 + 2) n

/-- A byte that an engine moves, with the poison of its word. -/
abbrev EByte := Byte × Bool

/-- R226, R238: an engine reads one piece. -/
def State.engReadWord (s : State) (e : Eng) (va : Word) (n : Nat) : Except EngErr (List EByte) × State :=
  match s.engPlace e .r va with
  | (.error x, s) => (.error x, s)
  | (.ok p, s) =>
    let bs := s.viewBytes e.core p.cached p.pa n
    let bad := s.viewPoison e.core p.cached p.pa n
    let s := if p.holder.isSome || isLm p.pa then s
      else (if p.cached then s.cleanCopies (lineAddr p.pa) none else s).engHome e p false
    (.ok (bs.map fun b => (b, bad)), s)

/-- An engine reads `n` bytes; the first refused or faulting word ends the read. -/
def State.engRead (s : State) (e : Eng) (va : Word) (n : Nat) : Except EngErr (List EByte) × State :=
  (wordPieces va n).foldl (init := (.ok [], s)) fun r p =>
    match r with
    | (.error x, s) => (.error x, s)
    | (.ok bs, s) => match s.engReadWord e p.1 p.2 with
      | (.ok cs, s) => (.ok (bs ++ cs), s)
      | (.error x, s) => (.error x, s)

/-- The same, where poison is a fault (R193). -/
def State.engReadClean (s : State) (e : Eng) (va : Word) (n : Nat) : Except EngErr (List Byte) × State :=
  (wordPieces va n).foldl (init := (.ok [], s)) fun r p =>
    match r with
    | (.error x, s) => (.error x, s)
    | (.ok bs, s) => match s.engReadWord e p.1 p.2 with
      | (.ok cs, s) => if cs.any (·.2) then (.error (.fault .poison p.1 0), s) else (.ok (bs ++ cs.map (·.1)), s)
      | (.error x, s) => (.error x, s)

/-- R155, R157, R192: an engine writes one piece: the bytes, the poison they carry, and the word's FULL bit. R150: into a mapped stash
bank it goes into the line where the bank holds it. -/
def State.engWriteWord (s : State) (e : Eng) (va : Word) (bs : List EByte) : Except EngErr Unit × State :=
  match s.engPlace e .w va with
  | (.error x, s) => (.error x, s)
  | (.ok p, s) =>
    let ver := match p.leaf with
      | some f => f.ver
      | none => false
    match if ver && s.needsCopy e.ti p.pa then s.reserveCopy e.ti p.pa else some s with
    | none => (.error .poolFull, s)
    | some s =>
      let s := if ver then s.takeCopy e.ti p.pa else s
      let s := s.wrBytes p.pa (bs.map (·.1)) (bs.any (·.2)) p.holder
      let s := match p.holder with
        | some h => s.dirtyOwn h (lineAddr p.pa)
        | none => s.engHome e p true
      (.ok (), if p.word ≠ 0 then s.setFull p.word true else s)

/-- What the writes of one chunk gave: whether a word was refused, or the error that stopped the chunk before any of it. -/
abbrev EngDone := Except EngErr Bool

/-- Bytes cut at the word boundaries of their address. -/
def cutWords (va : Word) : Nat → List EByte → List (Word × List EByte)
  | 0, _ => []
  | fuel + 1, bs =>
    if bs.isEmpty then []
    else
      let m := 8 - va.toNat % 8
      (va, bs.take m) :: cutWords (va + BitVec.ofNat 64 m) fuel (bs.drop m)

/-- R193: the first fault, or wait for a flip, that a chunk's destination meets; its walks are made (R217). -/
def State.engFault (s : State) (e : Eng) (va : Word) (n : Nat) : Option EngErr × State :=
  (wordPieces va n).foldl (init := (none, s)) fun r p =>
    match r with
    | (some x, s) => (some x, s)
    | (none, s) => match s.engPlace e .w p.1 with
      | (.error (.fault c a o), s) => (some (.fault c a o), s)
      | (.error .busy, s) => (some .busy, s)
      | (_, s) => (none, s)

/-- R192, R193, R239: an engine writes a chunk: no word of it where one faults or waits for a flip; the allowed words where some are
refused. -/
def State.engWrite (s : State) (e : Eng) (va : Word) (bs : List EByte) : EngDone × State :=
  match s.engFault e va bs.length with
  | (some x, s) => (.error x, s)
  | (none, s) =>
    (cutWords va (bs.length / 8 + 2) bs).foldl (init := (.ok false, s)) fun r p =>
      match r with
      | (.error x, s) => (.error x, s)
      | (.ok ref, s) => match s.engWriteWord e p.1 p.2 with
        | (.ok _, s) => (.ok ref, s)
        | (.error .refused, s) => (.ok true, s)
        | (.error x, s) => (.error x, s)

def cleanBytes (bs : List Byte) : List EByte := bs.map fun b => (b, false)

/-- A unit's write whose faults and refusals drop it (R256, R273). -/
def State.engDrop (s : State) (e : Eng) (va : Word) (bs : List Byte) : State := (s.engWrite e va (cleanBytes bs)).2

/-- R418: an aligned read of a unit that acts for no slot, with a tenant (log 15): the bytes, or the trap code that it meets. -/
def State.sysRead (s : State) (p : Nat) (va : Word) (n : Nat) (tenant : BitVec 16 := 0) : Except TrapCode (List Byte) × State :=
  match s.engReadClean (Eng.sys p tenant) va n with
  | (.ok bs, s) => (.ok bs, s)
  | (.error (.fault c _ _), s) => (.error c, s)
  | (.error _, s) => (.error .protection, s)

/-! Reading a descriptor as loads (R418). -/

/-- The pieces of `n` bytes at `va` that lie in one 64-byte block each. -/
def splitBlocks (va : Word) : Nat → Nat → List (Word × Nat)
  | 0, _ => []
  | fuel + 1, n =>
    if n = 0 then []
    else
      let m := min n (64 - va.toNat % 64)
      (va, m) :: splitBlocks (va + BitVec.ofNat 64 m) fuel (n - m)

/-- R159, R418: the current head reads `n` bytes at `va` as a load of the slot does, with exact faults, after its earlier accesses to
the same bytes (R160) and no page of it in a flip (R239); where `release`, after every earlier access of the slot is performed. -/
def State.loadThen (s : State) (i : Nat) (va : Word) (n align : Nat) (release : Bool) (go : State → List Byte → State) : State :=
  let q : Need := { acc := .r, align := 1 }
  let pieces := splitBlocks va (n / 64 + 2) n
  if va.toNat % align ≠ 0 then s.trapAt i .misalign va
  else match s.checkAll i q pieces with
    | .error (.trap c a o) => s.trapAt i c a o
    | .error (.wait r) => s.stallFor i r
    | .error (.ok _) => s
    | .ok ps =>
      let a := s.mkAccess i 0 { kind := .load (.x 0) false, need := q, pieces := pieces, hint := .none } ps
      if (release && !(s.slot i).pend.isEmpty) || (s.slot i).pendAt a.parts || a.parts.any fun p => s.pageBusy p.pa then s.stallHead i
      else match s.poisonAt i a with
        | some v => s.trapAt i .poison v
        | none =>
          let r := a.parts.foldl (init := ([], s.touchTlb i (pieces.map (·.1)))) fun r p =>
            let x := r.2.readPiece (i / 8) (s.slot i).task.tenant a p
            (r.1 ++ x.1, x.2)
          go r.2 r.1

end Sys2Proof.Machine
end

