-- ==== Sys2Proof/Machine/Shake.lean ====
section
/-!
DEFINITION. SHAKE256 (R189, R287), the function whose first 16 bytes are a digest. The spec names it; its steps are those of FIPS 202
(log 36).
-/

namespace Sys2Proof.Machine

/-- The sponge's 200 bytes as 25 words, five rows of five. -/
abbrev Sponge := List Word

/-- A row turned by `n` places. -/
def turnRow (n : Nat) (row : List Word) : List Word := row.drop n ++ row.take n

def xorRow (p q : List Word) : List Word := List.zipWith (· ^^^ ·) p q

def Sponge.rows (a : Sponge) : List (List Word) := (List.range 5).map fun y => (a.drop (5 * y)).take 5

/-- Each word takes the parity of the column before it and, turned by one bit, of the column after it. -/
def Sponge.mixColumns (a : Sponge) : Sponge :=
  let par := a.rows.foldl xorRow (List.replicate 5 0)
  let mix := xorRow (turnRow 4 par) ((turnRow 1 par).map (·.rotateLeft 1))
  a.rows.flatMap (xorRow mix)

/-- The word at (x, y) moves to (y, 2x + 3y): the 24 words other than (0, 0) lie on one such path from (1, 0), and the one that leaves the
path's place `t` is turned by 1 + 2 + … + (t + 1) bits. -/
def Sponge.moveWords (a : Sponge) : Sponge :=
  let rec go : Nat → Nat → Nat → Word → Sponge → Sponge
    | 0, _, _, _, b => b
    | n + 1, x, y, w, b =>
      let t := 24 - n
      let y' := (2 * x + 3 * y) % 5
      let j := 5 * y' + y
      go n y y' (b.getD j 0) (b.set j (w.rotateLeft (t * (t + 1) / 2 % 64)))
  go 24 1 0 (a.getD 1 0) a

/-- In each row a word takes the third word where the second has a 0. -/
def Sponge.mixRows (a : Sponge) : Sponge :=
  a.rows.flatMap fun r => xorRow r (List.zipWith (fun p q => q &&& ~~~p) (turnRow 1 r) (turnRow 2 r))

/-- The next state of the 8-bit shift register that gives the rounds' constants. -/
def rcStep (r : Nat) : Nat := if r < 128 then 2 * r else Nat.xor (2 * r - 256) 0x71

/-- A round's constant has the register's bit 0 of seven states at bits 2^j - 1; the constant, and the register after them. -/
def rcWord : Nat → Nat → Nat → Nat → Word × Nat
  | 0, _, r, w => (BitVec.ofNat 64 w, r)
  | n + 1, j, r, w => rcWord n (j + 1) (rcStep r) (if r % 2 = 1 then w + 2 ^ (2 ^ j - 1) else w)

/-- `n` rounds with the register at `r`. -/
def Sponge.rounds : Nat → Nat → Sponge → Sponge
  | 0, _, a => a
  | n + 1, r, a =>
    let (rc, r') := rcWord 7 0 r 0
    Sponge.rounds n r' (match a.mixColumns.moveWords.mixRows with
      | w :: t => (w ^^^ rc) :: t
      | [] => [])

/-- A block of 136 bytes is taken in. -/
def Sponge.absorb (a : Sponge) (blk : List Byte) : Sponge :=
  Sponge.rounds 24 1 (xorRow a ((List.range 17).map (wordAt blk) ++ List.replicate 8 0))

/-- The message with its padding: whole blocks. -/
def shakePad (m : List Byte) : List Byte :=
  let free := 136 - m.length % 136
  if free = 1 then m ++ [0x9F] else m ++ 0x1F :: List.replicate (free - 2) 0 ++ [0x80]

def Sponge.absorbAll : Nat → Sponge → List Byte → Sponge
  | 0, a, _ => a
  | n + 1, a, m => Sponge.absorbAll n (a.absorb m) (m.drop 136)

/-- The first `n` bytes (at most 136) of SHAKE256 over `m`. -/
def shake256 (m : List Byte) (n : Nat) : List Byte :=
  let p := shakePad m
  (wordsBytes (Sponge.absorbAll (p.length / 136) (List.replicate 25 0) p)).take n

/-- R189: a digest: the first 16 bytes. -/
def digest16 (m : List Byte) : BitVec 128 := BitVec.ofNat 128 (bytesNat (shake256 m 16))

end Sys2Proof.Machine
end

