-- ==== Sys2Proof/Machine/PewCore.lean ====
section
/-!
DEFINITION. Pewter's own operations (R285 to R293): descriptor lists, digests, keys, probes, inserts and the copy that a hit makes.
-/

namespace Sys2Proof.Machine

def PewTenant.none : PewTenant :=
  { quota := 0, demoted := [], lookups := 0, hits := 0, inserts := 0, invalidated := 0, skipped := 0 }

def State.pewTenant (s : State) (t : BitVec 16) : PewTenant := look s.pw.tenants t.toNat PewTenant.none

def State.modTenant (s : State) (t : BitVec 16) (f : PewTenant → PewTenant) : State :=
  s.modPw fun w => { w with tenants := put w.tenants t.toNat (f (look w.tenants t.toNat PewTenant.none)) }

/-! Descriptor lists (R285). -/

/-- R285: a tile descriptor. -/
structure Desc where
  addr : Word
  bytes : Nat
  dv : Bool
  res : Bool
  sc : Nat
  dig : BitVec 128
deriving DecidableEq, Repr

/-- A descriptor with its LAST bit, where its reserved fields are zero. -/
def descOf (bs : List Byte) : Option (Desc × Bool) :=
  let w := wordAt bs 1
  if fld w 63 48 ≠ 0 || fld w 39 35 ≠ 0 then none
  else some ({ addr := wordAt bs 0, bytes := fld w 31 0, dv := w.getLsbD 32, res := w.getLsbD 34, sc := fld w 47 40
               dig := BitVec.ofNat 128 (bytesNat ((bs.drop 16).take 16)) }, w.getLsbD 33)

/-- R285: the descriptors from `va`, at most `fuel`, read as the unit `e` reads; none when the list is invalid. -/
def State.descsFrom (s : State) (e : Eng) (va : Word) : Nat → Option (List Desc) × State
  | 0 => (none, s)
  | fuel + 1 => match s.engReadClean e va 32 with
    | (.error _, s) => (none, s)
    | (.ok bs, s) => match descOf bs with
      | none => (none, s)
      | some (d, true) => (some [d], s)
      | some (d, false) =>
        let r := s.descsFrom e (va + 32) fuel
        (r.1.map (d :: ·), r.2)

/-- R285: the list at `arg`; `node` for a node's list, where RES descriptors are ignored whole. -/
def State.descList (s : State) (e : Eng) (arg : Word) (node : Bool) : Option (List Desc) × State :=
  if fld arg 4 0 ≠ 0 then (none, s)
  else match s.descsFrom e arg 16 with
    | (none, s) => (none, s)
    | (some l, s) => (if node || (l.filter (·.res)).length = 1 then some l else none, s)

/-- R283: the regions that a pure task may read and write. -/
def pureRegions (l : List Desc) (arg : Word) (result : Option (Word × Nat)) : List Region :=
  let tiles := l.filter fun d => !d.res
  let reads := tiles.map fun d => { base := d.addr.toNat, bytes := d.bytes, write := false, list := false }
  let list_ : Region := { base := arg.toNat, bytes := 32 * l.length, write := false, list := true }
  let writes := match result with
    | some (a, n) => [{ base := a.toNat, bytes := n, write := true, list := false }]
    | none => (l.filter (·.res)).map fun d => { base := d.addr.toNat, bytes := d.bytes, write := true, list := false }
  list_ :: reads ++ writes

/-! Digests and keys (R286, R287). -/

/-- The 64 KiB pages that `n` bytes at `va` touch, by an address in each; no bytes touch none. -/
def pagesOf (va : Word) (n : Nat) : List Word :=
  if n = 0 then []
  else (List.range ((va.toNat + n + 65535) / 65536 - va.toNat / 65536)).map fun j =>
    BitVec.ofNat 64 (max va.toNat (65536 * (va.toNat / 65536 + j)))

/-- R286: the page of `va` translates, for partition `p`, to a sealed leaf with the seal count `sc`. -/
def State.sealedAt (s : State) (p sc : Nat) (va : Word) : Bool × State :=
  if fld va 63 56 ≠ 0 || inWindows va then (false, s)
  else (match s.walk p va with
    | .leaf t => t.leaf.sealed_ && t.leaf.scnt = sc
    | .fault .. => false, s.walked (s.rootOf p) va)

/-- R286: the tile's digest; none when reading it faults. -/
def State.tileDigest (s : State) (e : Eng) (d : Desc) : Option (BitVec 128) × State :=
  let hash (s : State) : Option (BitVec 128) × State := match s.engReadClean e d.addr d.bytes with
    | (.ok bs, s) => (some (digest16 bs), s)
    | (.error _, s) => (none, s)
  if d.dv then
    let r := s.visit (fun s va => s.sealedAt e.part d.sc va) (pagesOf d.addr d.bytes)
    if r.1.all id then (some d.dig, r.2) else hash r.2
  else hash s

/-- R286: the digests of every argument tile, in list order; the first that faults ends it. -/
def State.tileDigests (s : State) (e : Eng) : List Desc → Option (List (BitVec 128)) × State
  | [] => (some [], s)
  | d :: t => match s.tileDigest e d with
    | (none, s) => (none, s)
    | (some x, s) =>
      let r := s.tileDigests e t
      (r.1.map (x :: ·), r.2)

/-- R287: the key. -/
def pewKey (tenant : BitVec 16) (code : BitVec 128) (kfa kfb kfo : BitVec 16) (digs : List (BitVec 128)) : BitVec 128 :=
  digest16 (natBytes 2 tenant.toNat ++ natBytes 16 code.toNat ++ natBytes 2 kfa.toNat ++ natBytes 2 kfb.toNat ++ natBytes 2 kfo.toNat
    ++ digs.flatMap fun d => natBytes 16 d.toNat)

/-! Entries (R288, R289). -/

/-- R287: the home instance of a key. -/
def keyHome (k : BitVec 128) : Nat := fld k 1 0

/-- R287: the set of a key. -/
def keySet (k : BitVec 128) : Nat := fld k 15 2

def State.pewAt (s : State) (st : Nat) : List PewEntry := (s.die st).pew.entries

def State.setPew (s : State) (st : Nat) (l : List PewEntry) : State := s.modDie st fun d => { d with pew := { entries := l } }

/-- R288: the entry that a probe matches. -/
def State.pewProbe (s : State) (t : BitVec 16) (k : BitVec 128) : Option PewEntry :=
  (s.pewAt (keyHome k)).find? fun e => e.key = k && e.tenant = t

/-- An entry is invalidated. -/
def State.pewDrop (s : State) (t : BitVec 16) (k : BitVec 128) : State :=
  s.setPew (keyHome k) ((s.pewAt (keyHome k)).filter fun e => !(e.key = k && e.tenant = t))

/-- The least recently used of some entries (R289: recency is LAST). -/
def pewOldest : List PewEntry → Option PewEntry
  | [] => none
  | e :: t => match pewOldest t with
    | none => some e
    | some f => if f.last < e.last then some f else some e

/-- R289: an entry is placed; the flag says that the insert is skipped. -/
def State.pewPlace (s : State) (e : PewEntry) : State × Bool :=
  let st := keyHome e.key
  let l := s.pewAt st
  let set := l.filter fun f => keySet f.key = keySet e.key
  let mine := l.filter fun f => f.tenant = e.tenant
  let place (l : List PewEntry) : State × Bool :=
    let (id, s) := s.newId
    ((s.setPew st (l ++ [{ e with id := id }])).modTenant e.tenant fun t => { t with inserts := satCount (t.inserts + 1) }, false)
  let without (v : PewEntry) : List PewEntry := l.filter fun f => !(f.key = v.key && f.tenant = v.tenant)
  if l.any fun f => f.key = e.key && f.tenant = e.tenant then place (without e)
  else if (s.pewTenant e.tenant).quota * 1024 ≤ mine.length then
    match pewOldest (set.filter fun f => f.tenant = e.tenant) with
    | some v => place (without v)
    | none => (s.modTenant e.tenant fun t => { t with skipped := satCount (t.skipped + 1) }, true)
  else if set.length < 16 then place l
  else match pewOldest set with
    | some v => place (without v)
    | none => place l

/-- R292 step 1: the physical pages of a result, all of device memory, watched from now on; none abandons the insert. -/
def State.watchResult (s : State) (e : Eng) (va : Word) (n : Nat) : Option (List Nat) × State :=
  let r := s.visit (fun s a => match s.engPlace e .r a with
    | (.ok p, s) => (match p.leaf with
      | some l => if p.word = 0 && l.tgt = 0 then some (p.pa / 65536) else none
      | none => none, s)
    | (.error _, s) => (none, s)) (pagesOf va n)
  if r.1.all (·.isSome) then
    let l := r.1.filterMap id
    (some l, r.2.modPw fun w => { w with watch := l.foldl (fun a p => insertNat p a) w.watch })
  else (none, r.2)

/-- How a step of the copy that a hit makes ended (R290, R293). -/
inductive HitCopy where
  | done
  | source          -- the entry is dropped
  | dest            -- the entry stays
  | wait (x : EngErr)
deriving DecidableEq, Repr

/-- R290: the next 128 bytes of an entry's result are copied to where they go. -/
def State.pewChunk (s : State) (e : Eng) (c : PewCopy) : HitCopy × State :=
  match s.engReadClean { e with part := c.part } (c.raddr + BitVec.ofNat 64 c.off) (min 128 (c.bytes - c.off)) with
  | (.error .busy, s) => (.wait .busy, s)
  | (.error _, s) => (.source, s)
  | (.ok bs, s) => match s.engWrite e (c.dst + BitVec.ofNat 64 c.off) (cleanBytes bs) with
    | (.ok false, s) => (.done, s)
    | (.ok true, s) => (.dest, s)
    | (.error .poolFull, s) => (.wait .poolFull, s)
    | (.error .busy, s) => (.wait .busy, s)
    | (.error _, s) => (.dest, s)

/-- The entry that a copy was made from is still valid (R290, R291). -/
def State.pewValid (s : State) (c : PewCopy) : Bool := (s.pewAt (keyHome c.key)).any fun e => e.id = c.entry

/-- R290: a hit counts, and its entry's LAST and HITS change. -/
def State.pewHit (s : State) (t : BitVec 16) (k : BitVec 128) : State :=
  (s.setPew (keyHome k) ((s.pewAt (keyHome k)).map fun e =>
    if e.key = k && e.tenant = t then { e with last := s.dclk, hits := min 0xFFFFFFFF (e.hits + 1) } else e)).modTenant t fun v =>
      { v with hits := satCount (v.hits + 1) }

/-- R297: a lookup counts. -/
def State.pewLookup (s : State) (t : BitVec 16) : State := s.modTenant t fun v => { v with lookups := satCount (v.lookups + 1) }

/-- R284: whether the tenant's demoted set holds a digest. -/
def State.isDemoted (s : State) (t : BitVec 16) (d : BitVec 128) : Bool := (s.pewTenant t).demoted.contains d

/-- R219, R223, R293: a TLBINV that drops a translation of partition `p` for `[lo, hi)` invalidates the entries whose result lies there and
spoils the inserts in progress. -/
def State.pewTlbinv (s : State) (p lo hi : Nat) : State :=
  let hit (part : Nat) (a : Word) (n : Nat) : Bool := part = p && 0 < n && decide (a.toNat < hi) && decide (lo < a.toNat + n)
  let gone := s.dies.flatMap fun d => d.2.pew.entries.filter fun e => hit e.part e.raddr e.rbytes
  let s := { s with dies := mapVals (fun _ d =>
    { d with pew := { entries := d.pew.entries.filter fun e => !hit e.part e.raddr e.rbytes } }) s.dies }
  let s := gone.foldl (init := s) fun s e => s.modTenant e.tenant fun v => { v with invalidated := satCount (v.invalidated + 1) }
  s.modPw fun w => { w with
    inserts := mapVals (fun _ i => if hit i.part i.raddr i.rbytes then { i with spoiled := true } else i) w.inserts }

end Sys2Proof.Machine
end

