-- ==== Sys2Proof/Machine/Queues.lean ====
section
/-!
DEFINITION. Work packets, queues, stride scheduling, dispatch, completion and groups (R247 to R267), with the placement of tasks (R32).
-/

namespace Sys2Proof.Machine

/-! The work packet (R247). -/

def Packet.word (p : Packet) (off : Nat) : Word := wordAt p.bytes (off / 8)

def Packet.n (p : Packet) : Nat := fld (p.word 0) 63 32

def Packet.sig (p : Packet) : Bool := (p.word 0).getLsbD 10

def Packet.cw (p : Packet) : Bool := (p.word 0).getLsbD 9

/-- PURE, forced to 0 in a run after PURITY (R284). -/
def Packet.pure (p : Packet) : Bool := (p.word 0).getLsbD 8 && !p.impure

def Packet.digest (p : Packet) : BitVec 128 := BitVec.ofNat 128 (bytesNat ((p.bytes.drop 0x30).take 16))

/-- R253: a reserved field is not zero, or KIND is not a launch, or a named address is misaligned. -/
def Packet.malformed (p : Packet) : Bool :=
  let w := p.word 0
  fld w 7 0 ≠ 1 || fld w 31 11 ≠ 0 || fld (p.word 0x18) 63 48 ≠ 0 || fld (p.word 0x48) 63 32 ≠ 0 || fld (p.word 0x60) 63 32 ≠ 0 ||
  p.word 0x68 ≠ 0 || p.word 0x70 ≠ 0 || p.word 0x78 ≠ 0 || (p.cw && fld (p.word 0x40) 2 0 ≠ 0) || (p.sig && fld (p.word 0x58) 5 0 ≠ 0)

/-- R257: group specification `g`. -/
def Packet.spec (p : Packet) (g : Nat) : Nat := fld (p.word 0x50) (16 * g + 15) (16 * g)

def specMode (sp : Nat) : Nat := sp / 2 ^ 12 % 4

/-- R257: the entries that a specification names in a launch of `n` tasks; none when it is invalid. -/
def specIds (sp n : Nat) : Option (List Nat) :=
  let id := sp % 256
  let b := sp / 256 % 16
  if 2 ^ 14 ≤ sp then none
  else match specMode sp with
    | 0 => some []
    | 1 => if b ≠ 0 then none else some [id]
    | 2 =>
      let last := id + (n - 1) / 2 ^ b
      if 255 < last then none else some ((List.range (last + 1 - id)).map (id + ·))
    | _ => none

/-- R257: the entry that task `i` belongs to. -/
def specGid (sp i : Nat) : Option Nat :=
  match specMode sp with
  | 1 => some (sp % 256)
  | 2 => some (sp % 256 + i / 2 ^ (sp / 256 % 16))
  | _ => none

/-- R252: the launch fills a group. -/
def Packet.fills (p : Packet) : Bool := p.n ≠ 0 && (List.range 4).any fun g => specMode (p.spec g) ≠ 0

/-- R257, R259: the entries that the launch takes; none when GSPEC is invalid. -/
def Packet.entries (p : Packet) : Option (List Nat) :=
  let l := (List.range 4).map fun g => specIds (p.spec g) p.n
  if l.all (·.isSome) then
    let ids := l.flatMap fun o => o.getD []
    if ids.Nodup then some ids else none
  else none

/-- R88: GRP of task `i`. -/
def Packet.grp (p : Packet) (i : Nat) : Word :=
  BitVec.ofNat 64 (((List.range 4).map fun g => match specGid (p.spec g) i with
    | some id => 2 ^ (32 + g) + id % 256 * 2 ^ (8 * g)
    | none => 0).sum)

/-! Queues. -/

def State.queue (s : State) (q : Nat) : Queue := look s.disp.queues q Queue.unset

def State.setQueue (s : State) (q : Nat) (v : Queue) : State := s.modDisp fun d => { d with queues := put d.queues q v }

/-- Packets in the ring. -/
def Queue.inRing (q : Queue) : Nat := if q.df then q.spill.length else (q.tail - q.head).toNat

def Queue.depth (q : Queue) : Nat := q.buf.length + q.inRing

/-- R252: a - b of two 40-bit passes is negative. -/
def passLess (a b : BitVec 40) : Bool := (a - b).msb

/-- R252: a queue that goes from empty to non-empty takes the greater of its pass and G. -/
def Queue.awake (was : Nat) (g : BitVec 40) (q : Queue) : Queue :=
  if was = 0 && 0 < q.depth && passLess q.pass g then { q with pass := g } else q

/-- R252: the stride of a queue. -/
def Queue.stride (q : Queue) : BitVec 40 := BitVec.ofNat 40 (2 ^ 20 / q.tickets)

/-- R249: the queue's tail becomes `t`, or is refused. -/
def State.setTail (s : State) (q : Nat) (t : BitVec 32) : State :=
  let v := s.queue q
  if 2 ^ v.rsz < (t - v.head).toNat then (s.setQueue q { v with qerr := true }).hostEvent 2 1 v.part q
  else s.setQueue q (Queue.awake v.depth s.disp.passG { v with tail := t })

/-- R249: the host writes a tail to a queue's window. -/
def execQueueTailWrite (q : Nat) (t : BitVec 32) (s : State) : Out :=
  let v := s.queue q
  if q < 4096 && v.part < 16 && !v.df && !v.tw then .next (s.setTail q t) else .refused (.notEnabled "QUEUE_TAIL_WRITE")

/-- R248: where the tail word of queue `v` lies. -/
def State.tailPlace (s : State) (v : Queue) : Option Nat :=
  match (s.engXlate (Eng.sys v.part) .r v.taila).1 with
  | .ok (pa, _) => some pa
  | .error _ => none

/-- R249: a write to the line of the watched tail word is seen: the word is read, and is the queue's new tail. -/
def execTailWordSeen (q : Nat) (s : State) : Out :=
  let v := s.queue q
  if q < 4096 && v.part < 16 && !v.df && v.tw && s.disp.wrote.contains q then
    match s.sysRead v.part v.taila 8 with
    | (.ok bs, t) =>
      .next (((t.setQueue q { t.queue q with watch := s.tailPlace v }).modDisp fun d => { d with wrote := eraseNat q d.wrote }).setTail q
        ((bytesWord bs).setWidth 32))
    | (.error _, _) => .refused (.notEnabled "TAIL_WORD_SEEN")
  else .refused (.notEnabled "TAIL_WORD_SEEN")

/-- R250: place `n` of the ring. -/
def Queue.place (q : Queue) (n : Nat) : Word := q.ring + BitVec.ofNat 64 (128 * (n % 2 ^ q.rsz))

/-- A packet read from memory at `va` for partition `p`: its bytes with the poisoned words, or a failed read (R253). -/
def State.readPacket (s : State) (p : Nat) (va : Word) : (List Byte × List Nat × Bool) × State :=
  match s.engRead (Eng.sys p) va 128 with
  | (.ok bs, s) => ((bs.map (·.1), (List.range 16).filter fun j => ((bs.drop (8 * j)).take 8).any (·.2), false), s)
  | (.error _, s) => ((List.replicate 128 0, [], true), s)

/-- A packet with nothing but its bytes. -/
def Packet.ofBytes (bs : List Byte) (tenant : BitVec 16) : Packet :=
  { bytes := bs, bad := [], failed := false, tenant := tenant, owner := none, node := none, from_ := none, impure := false
    arrived := true, gone := false }

/-- R250: the oldest ring packet enters the head buffer. -/
def execPacketRefill (q : Nat) (s : State) : Out :=
  let v := s.queue q
  let ((bs, bad, failed), s) := s.readPacket v.part (v.place v.head.toNat)
  if 16 ≤ v.part || 8 ≤ v.buf.length then .refused (.notEnabled "PACKET_REFILL")
  else if v.df then
    match v.spill with
    | p :: t =>
      if p.arrived then
        .next (s.setQueue q { v with
          buf := v.buf ++ [{ p with bytes := bs, bad := bad, failed := failed }], spill := t, head := v.head + 1 })
      else .refused (.notEnabled "PACKET_REFILL")
    | [] => .refused (.notEnabled "PACKET_REFILL")
  else if v.tail = v.head then .refused (.notEnabled "PACKET_REFILL")
  else
    let p := { Packet.ofBytes bs v.tenant with bad := bad, failed := failed }
    let s := s.setQueue q { v with buf := v.buf ++ [p], head := v.head + 1 }
    .next (s.engDrop (Eng.sys v.part) v.heada (wordBytes ((v.head + 1).setWidth 64)))

/-- R250, R251: a packet takes the next FIFO place of a device-fed queue. -/
def State.pushPacket (s : State) (q : Nat) (p : Packet) : State :=
  let v := s.queue q
  let w := if v.buf.length < 8 && v.spill.isEmpty then { v with buf := v.buf ++ [{ p with arrived := true }] }
    else { v with spill := v.spill ++ [{ p with arrived := false }], tail := v.tail + 1 }
  s.setQueue q (Queue.awake v.depth s.disp.passG w)

/-- R250: a further packet would exceed the ring. -/
def Queue.isFull (q : Queue) : Bool := !(q.buf.length < 8 && q.spill.isEmpty) && decide (2 ^ q.rsz ≤ q.spill.length)

/-- R251: the ring write of the oldest spilled packet that has not arrived is performed. -/
def execSpillWritePerformed (q : Nat) (s : State) : Out :=
  let v := s.queue q
  let j := (v.spill.takeWhile (·.arrived)).length
  match v.spill.drop j with
  | p :: t =>
    if j < 2 ^ v.rsz then
      let s := s.engDrop (Eng.sys v.part) (v.place (v.head.toNat + j)) p.bytes
      .next (s.setQueue q { v with spill := v.spill.take j ++ { p with arrived := true } :: t })
    else .refused (.notEnabled "SPILL_WRITE_PERFORMED")
  | [] => .refused (.notEnabled "SPILL_WRITE_PERFORMED")

/-! Placement (R32). -/

/-- The slots of partition `p` on stack `st` whose duty in effect is task. -/
def State.taskSlots (s : State) (p st : Nat) : List Nat :=
  match s.part? p with
  | none => []
  | some v => (v.octets.filter fun o => o / 256 = st).flatMap fun o =>
      (List.range 64).filterMap fun j => if s.duty (64 * o + j) = .task then some (64 * o + j) else none

/-- The free ones. -/
def State.freeSlots (s : State) (p st : Nat) : List Nat := (s.taskSlots p st).filter fun i => !(s.slot i).live

/-- R32: the task slots of partition `p` on stack `st` that were last reported free and have not been taken since. -/
def State.reported (s : State) (p st : Nat) : List Nat := look s.disp.freeRep (16 * st + p) []

/-- R32: the slots of the partition that a task may be given: reported free and free, with a turn since their last task retired. -/
def State.candidates (s : State) (p : Nat) : List Nat :=
  (List.range 4).flatMap fun st =>
    (s.freeSlots p st).filter fun i => (s.reported p st).contains i && decide ((s.slot i).freeAt ≤ s.dclk)

/-- How many there are. -/
def State.avail (s : State) (p : Nat) : Nat := (s.candidates p).length

/-- R32: stack `st` reports its free task slots, every 64 core cycles. -/
def execFreeSlotReport (st : Nat) (s : State) : Out :=
  if st < 4 && s.dclk % 64 = 0 then
    .next (s.modDisp fun d => { d with
      freeRep := s.parts.foldl (init := d.freeRep) fun m p => put m (16 * st + p.1) (s.freeSlots p.1 st) })
  else .refused (.notEnabled "FREE_SLOT_REPORT")

/-- Slot `i` is no longer one of the reported ones: a task has been given it, or has retired on it. -/
def State.unreport (s : State) (i : Nat) : State :=
  s.modDisp fun d => { d with freeRep := mapVals (fun _ l => l.filter (· ≠ i)) d.freeRep }

/-- R283: the regions of the tasks of a pure launch. -/
def State.launchRegions (s : State) (v : Launch) : List Region × State :=
  let e := Eng.sys v.part
  let arg := v.pkt.word 0x10
  let result : Option (Word × Nat) × State := match v.pkt.node with
    | none => (none, s)
    | some (g, _, j) => match get? s.sk.graphs g with
      | none => (none, s)
      | some gr => match s.sysRead v.part (gr.nodes + BitVec.ofNat 64 (64 * j)) 64 with
        | (.ok bs, s) => (some (wordAt bs 4, fld (wordAt bs 5) 31 0), s)
        | (.error _, s) => (none, s)
  match result.2.descList e arg v.pkt.node.isSome with
  | (some l, s) => (pureRegions l arg result.1, s)
  | (none, s) => (match result.1 with
    | some (a, n) => [{ base := a.toNat, bytes := n, write := true, list := false }]
    | none => [], s)

/-- R30, R254: what task `j` of launch `l` is given. -/
def State.launchTask (s : State) (l : Nat) (v : Launch) (j : Nat) : TaskInfo × State :=
  let w := v.pkt.word 0x18
  let kfa : BitVec 16 := w.extractLsb' 0 16
  let kfb : BitVec 16 := w.extractLsb' 16 16
  let kfo : BitVec 16 := w.extractLsb' 32 16
  let r := if v.pkt.pure then s.launchRegions v else ([], s)
  ({ TaskInfo.empty with
    task := BitVec.ofNat 64 j, ntask := BitVec.ofNat 64 v.n, part := v.part, tenant := v.tenant, grp := v.pkt.grp j
    kfa := kfa, kfb := kfb, kfo := kfo, ksa := v.pkt.word 0x20, ksb := v.pkt.word 0x28, dtuse := dtuseOf [kfa, kfb, kfo]
    launch := some l, pure := v.pkt.pure, regions := r.1, owner := v.pkt.owner }, r.2)

/-- R32: the next `m` tasks of launch `l` are placed, each on a free slot of the device's choice. -/
def State.placeTasks (s : State) (l : Nat) : Nat → State
  | 0 => s
  | m + 1 => match get? s.disp.launches l with
    | none => s
    | some v =>
      let cand := s.candidates v.part
      if cand.isEmpty then s
      else
        let (c, s) := s.choose
        let i := cand.getD (c % cand.length) 0
        let (t, s) := s.launchTask l v v.placed
        let s := (s.startTask i t v.lv (v.pkt.word 8) (v.pkt.word 0x10) t.task).unreport i
        let s := s.modDisp fun d => { d with launches := put d.launches l { v with placed := v.placed + 1, live := v.live + 1 } }
        s.placeTasks l m

/-! Completion (R256). -/

/-- The physical address of a graph header, where it translates to device memory for partition `p`. -/
def State.headerPa (s : State) (p : Nat) (h : Word) : Option Nat × State :=
  match s.engPlace (Eng.sys p) .r h with
  | (.ok q, s) => (match q.leaf with
    | some l => if l.tgt = 0 then some q.pa else none
    | none => none, s)
  | (.error _, s) => (none, s)

/-- R270, R271: a token is on its way. -/
def State.sendToken (s : State) (hpa node : Nat) : State :=
  s.modSk fun k => { k with tokens := put k.tokens k.next { hpa := hpa, node := node }, next := k.next + 1 }

/-- R256: the completion word. -/
def completionWord (bad st : Nat) (tag : Nat) : Word :=
  BitVec.ofNat 64 (min bad 0xFFFFFF * 2 ^ 40 + st % 256 * 2 ^ 32 + tag % 2 ^ 32)

/-- R253: the words that a completion uses were read without poison. -/
def Packet.reportable (p : Packet) : Bool := !p.failed && !([0, 8, 9, 11, 12].any fun j => p.bad.contains j)

/-- R256, R270: the reports of a completed launch: its word, its token, and its node's completion. -/
def State.report (s : State) (part : Nat) (p : Packet) (launch bad st : Nat) (token toNode : Bool) : State :=
  let s := if p.reportable && p.cw && fld (p.word 0x40) 2 0 = 0 then
      s.engDrop (Eng.sys part) (p.word 0x40) (wordBytes (completionWord bad st (fld (p.word 0x48) 31 0)))
    else s
  let s := if token && p.reportable && p.sig && fld (p.word 0x58) 5 0 = 0 then
      match s.headerPa part (p.word 0x58) with
      | (some a, s) => s.sendToken a (fld (p.word 0x60) 31 0)
      | (none, s) => s
    else s
  match p.node with
  | some (g, _, j) =>
    if toNode then s.modSk fun k => { k with
      done := put k.done k.next { graph := g, node := j, st := BitVec.ofNat 8 st, launch := launch }, next := k.next + 1 }
    else s
  | none => s

/-- R256: the status of a launch whose tasks have all retired. -/
def Launch.st (v : Launch) : Nat :=
  if v.cancelled then 0x12
  else if v.halted = v.n then 0
  else match v.fault with
    | some (_, _, c) => c.toNat
    | none => 0x12

/-- R259: the entries that a launch holds are free. -/
def State.freeGroups (s : State) (p : Nat) (ids : List Nat) : State :=
  s.modPart p fun v => { v with groups := ids.foldl (fun m g => del m g) v.groups }

/-- R256: launch `l` completes. A cancelled node launch does not report to Skink (R270). -/
def State.finishLaunch (s : State) (l : Nat) : State :=
  match get? s.disp.launches l with
  | none => s
  | some v =>
    let s := s.freeGroups v.part v.groups
    let s := s.modDisp fun d => { d with launches := del d.launches l }
    s.report v.part v.pkt l (v.n - v.halted) v.st true (!v.cancelled)

/-! Dispatch (R252 to R254). -/

/-- R253: the task slots that the partition holds, free or busy. -/
def State.slotsHeld (s : State) (part : Nat) : Nat := ((List.range 4).map fun st => (s.taskSlots part st).length).sum

/-- R253: whether the packet fails the check. A launch of no task is refused for no entry (R256). -/
def State.packetFails (s : State) (part : Nat) (p : Packet) : Bool :=
  p.malformed || match p.entries with
    | none => true
    | some ids =>
      let inUse := match s.part? part with
        | some v => ids.any fun g => (get? v.groups g).isSome
        | none => false
      p.n ≠ 0 && (inUse || (p.fills && decide (s.slotsHeld part < p.n)))

/-- R252: how many free slots the packet needs. A group fill that no time will satisfy, which the check refuses (R253), needs one, and so does
one whose GSPEC is invalid, which fills no group (log 48). -/
def State.packetNeeds (s : State) (part : Nat) (p : Packet) : Nat :=
  if p.n = 0 then 0
  else if p.fills && p.entries.isSome && decide (p.n ≤ s.slotsHeld part) then p.n else 1

/-- R252: the queue is eligible. -/
def State.eligible (s : State) (v : Queue) : Bool :=
  v.en && v.part < 16 && (match s.part? v.part with
    | some p => p.gang = .running
    | none => false) &&
  match v.buf with
  | p :: _ => p.arrived && decide (s.packetNeeds v.part p ≤ s.avail v.part)
  | [] => false

/-- R252: the eligible queue with the smallest pass, the lowest number first. -/
def State.selectQueue (s : State) : Option Nat :=
  (s.disp.queues.foldl (init := (none : Option (Nat × BitVec 40))) fun best e =>
    if s.eligible e.2 then
      match best with
      | none => some (e.1, e.2.pass)
      | some (b, bp) => if passLess e.2.pass bp then some (e.1, e.2.pass) else some (b, bp)
    else best).map (·.1)

/-- R258: the members that each entry of a launch has. -/
def Packet.members (p : Packet) (g : Nat) : Nat :=
  ((List.range p.n).filter fun i => (List.range 4).any fun x => specGid (p.spec x) i = some g).length

/-- R253, R254, R267: the oldest packet of queue `q` is dispatched. -/
def State.dispatchFrom (s : State) (q : Nat) : State :=
  let v := s.queue q
  match v.buf with
  | [] => s
  | p :: rest =>
    let gone := p.gone
    let s := (s.setQueue q { v with buf := rest, pass := if gone then v.pass else v.pass + v.stride }).modDisp fun d => { d with
      passG := v.pass }
    let l := s.disp.next
    let s := s.modDisp fun d => { d with next := l + 1, selAt := s.dclk + 8 }
    if gone then s.report v.part p l p.n 0x12 false false
    else if p.failed || !p.bad.isEmpty then s.report v.part p l p.n 0x0A true true
    else if s.packetFails v.part p then s.report v.part p l p.n 0x40 true true
    else if p.n = 0 then s.report v.part p l 0 0 true true
    else
      let ids := p.entries.getD []
      let tenant := if q < 4096 then v.tenant else p.tenant
      let s := s.modDisp fun d => { d with launches := put d.launches l (
        { queue := q, part := v.part, tenant := tenant, lv := if v.sv then .s else .u, pkt := p, n := p.n, placed := 0, live := 0
          halted := 0, fault := none, cancelled := false, groups := ids, purity := false } : Launch) }
      let s := s.modPart v.part fun t => { t with
        groups := ids.foldl (fun m g => put m g { m := p.members g, a := 0, launch := some l }) t.groups }
      s.placeTasks l (min p.n (s.avail v.part))

/-- R32: a launch with tasks still to be placed, in a partition with a free slot reported. -/
def State.unplaced (s : State) : Option (Nat × Launch) :=
  s.disp.launches.find? fun l => decide (l.2.placed < l.2.n) && !l.2.cancelled && !l.2.purity && decide (0 < s.avail l.2.part) &&
    match s.part? l.2.part with
    | some p => p.gang = .running
    | none => false

/-- R32, R252: the distributor places further tasks of a dispatched launch, or selects a queue and dispatches its oldest packet. -/
def execDispatch (s : State) : Out :=
  match s.unplaced with
  | some (l, v) => .next (s.placeTasks l (min (v.n - v.placed) (s.avail v.part)))
  | none =>
    if s.dclk < s.disp.selAt then .refused (.notEnabled "DISPATCH")
    else match s.selectQueue with
      | some q => .next (s.dispatchFrom q)
      | none => .refused (.notEnabled "DISPATCH")

/-! The instructions. -/

/-- R30: the event that owns what a handler slot launches. -/
def Slot.owner (sl : Slot) : Option Owner := sl.task.evt.map fun e => { agent := sl.task.agent, entry := e }

/-- The number of partition `p`'s device queue (R252). -/
def deviceQueue (p : Nat) : Nat := 4096 + p

/-- R261: the packet at `va` is appended to queue `q`; `ok` holds where the queue may be appended to. -/
def State.enqueue (s : State) (srcs : List Reg) (d : Reg) (va : Word) (q : Nat) (ok : Bool) : State :=
  let i := s.cur
  s.loadThen i va 128 64 true fun s bs =>
    let v := s.queue q
    let sl := s.slot i
    if !ok then s.writeDone i srcs d 6
    else if v.isFull then s.writeDone i srcs d 2
    else
      let p : Packet := { Packet.ofBytes bs sl.task.tenant with owner := sl.owner, from_ := some i, arrived := false }
      (s.pushPacket q p).writeDone i srcs d 0

/-- R261: ENQ. -/
def execEnq (d a b : Reg) (s : State) : Out :=
  .next (s.withRegs s.cur [a, b] [d] fun s => s.needImpure fun s =>
    let w := s.rv a
    let q := fld w 11 0
    let v := s.queue q
    s.enqueue [a, b] d (s.rv b) q (fld w 63 12 = 0 && v.part = (s.slot s.cur).task.part && v.df && v.en))

/-- R261: LAUNCH. -/
def execLaunch (d a : Reg) (s : State) : Out :=
  .next (s.withRegs s.cur [a] [d] fun s => s.needImpure fun s =>
    s.enqueue [a] d (s.rv a) (deviceQueue (s.slot s.cur).task.part) true)

/-- R263: QFENCE waits until every packet that the slot enqueued has arrived. -/
def execQfence (s : State) : Out :=
  let i := s.cur
  let waits := s.disp.queues.any fun q => q.2.spill.any fun p => p.from_ = some i && !p.arrived
  .next (if waits then s.stallHead i else s.complete i)

/-- R264: QSTAT. -/
def execQstat (d a : Reg) (s : State) : Out :=
  .next (s.withRegs s.cur [a] [d] fun s => s.needImpure fun s =>
    let part := (s.slot s.cur).task.part
    let v := (s.rv a).toNat
    let q := if v = 0x1000 then deviceQueue part else v
    let e := s.queue q
    let b (x : Bool) (k : Nat) : Nat := if x then 2 ^ k else 0
    s.writeDone s.cur [a] d (if decide (v ≤ 0x1000) && e.part = part then
      BitVec.ofNat 64 (2 ^ 63 + b e.df 62 + b e.en 61 + e.tickets % 2 ^ 13 * 2 ^ 40 + e.buf.length % 16 * 2 ^ 36 + e.depth % 2 ^ 36)
      else 0))

/-! Barriers (R258, R69). -/

/-- R258: BAR. -/
def execBar (d : Reg) (g : BitVec 2) (s : State) : Out :=
  let i := s.cur
  .next (s.withRegs i [] [d] fun s =>
    let sl := s.slot i
    let t := sl.task
    let gid : BitVec 8 := BitVec.ofNat 8 (fld t.grp (8 * g.toNat + 7) (8 * g.toNat))
    if !t.grp.getLsbD (32 + g.toNat) then s.writeDone i [] d 6
    else if !sl.pend.isEmpty then s.stallHead i
    else match (s.part? t.part).bind fun v => get? v.groups gid.toNat with
      | none => s.writeDone i [] d 0
      | some e =>
        let s := s.modPart t.part fun v => { v with groups := put v.groups gid.toNat { e with a := e.a + 1 } }
        if e.a + 1 = e.m then
          (s.completeGroup t.part gid.toNat (i / 8)).writeDone i [] d 0
        else s.parkOn i (.bar g gid (sl.bind d)))

/-- R258: a completed barrier's release reaches the parked member. -/
def execBarrierCompletionArrival (k sl : Nat) (s : State) : Out :=
  let i := 8 * k + sl
  let v := s.slot i
  match v.park, v.barAt with
  | .bar _ _ d, some c =>
    if c ≤ s.dclk && v.st = .parked then .next ((s.writeDst i d 0).complete i)
    else .refused (.notEnabled "BARRIER_COMPLETION_ARRIVAL")
  | _, _ => .refused (.notEnabled "BARRIER_COMPLETION_ARRIVAL")

end Sys2Proof.Machine
end

