-- ==== Sys2Proof/Machine/Skink.lean ====
section
/-!
DEFINITION. Skink: graph records, tokens, cancel waves, re-arming and the graph instructions (R268 to R282, R417).
-/

namespace Sys2Proof.Machine

/-! Records (R268, R272). -/

def NodeSt.num : NodeSt → Nat
  | .wait => 0 | .ready => 1 | .run => 2 | .done => 3 | .fault => 4 | .cancel => 5 | .void => 6 | .retry => 7 | .reused => 8

def nodeStOf (n : Nat) : NodeSt :=
  match n with
  | 0 => .wait | 1 => .ready | 2 => .run | 3 => .done | 4 => .fault | 5 => .cancel | 6 => .void | 7 => .retry | _ => .reused

def GStatus.num : GStatus → Nat
  | .idle => 0 | .running => 1 | .wave => 2 | .retrying => 3 | .done => 4 | .failed => 5

/-- R268: node word 0. -/
def GNode.word (n : GNode) : Word :=
  let b (x : Bool) (k : Nat) : Nat := if x then 2 ^ k else 0
  BitVec.ofNat 64 (n.expected % 2 ^ 16 * 2 ^ 48 + n.pending % 2 ^ 16 * 2 ^ 32 + n.fcode.toNat * 2 ^ 24 + n.retries % 256 * 2 ^ 16
    + b n.sent 11 + b n.root 10 + b n.retryable 9 + b n.pure 8 + n.st.num)

/-- A node read from its record. -/
def nodeOf (bs : List Byte) : GNode :=
  let w := wordAt bs 0
  { expected := fld w 63 48, pending := fld w 47 32, fcode := BitVec.ofNat 8 (fld w 31 24), retries := fld w 23 16
    sent := w.getLsbD 11, root := w.getLsbD 10, retryable := w.getLsbD 9, pure := w.getLsbD 8, st := nodeStOf (fld w 7 0)
    wave := BitVec.ofNat 32 (fld (wordAt bs 5) 63 32), key := BitVec.ofNat 128 (bytesNat ((bs.drop 0x30).take 16)), lookup := false
    copy := none, missed := false }

def GNode.zero : GNode :=
  { expected := 0, pending := 0, fcode := 0, retries := 0, sent := false, root := false, retryable := false, pure := false, st := .void
    wave := 0, key := 0, lookup := false, copy := none, missed := false }

/-- R272: how many nodes are in state `n`. -/
def Graph.countOf (g : Graph) (n : Nat) : Nat := (g.ns.filter fun v => v.st.num = n).length

/-- R272: header bytes 0x08 to 0x3F. -/
def Graph.headerTail (g : Graph) : List Byte :=
  let w1 := g.count % 2 ^ 24 + g.status.num * 2 ^ 24 + g.tenant.toNat * 2 ^ 32 + g.fcode.toNat * 2 ^ 48
  let counts := ((List.range 9).map fun n => g.countOf n % 2 ^ 24 * 2 ^ (24 * n)).sum
  natBytes 8 w1 ++ wordBytes g.cwa ++ natBytes 8 (g.ctag.toNat + g.cursor.toNat * 2 ^ 32) ++ natBytes 32 (counts + g.waves.toNat * 2 ^ 224)

def State.graph? (s : State) (g : Nat) : Option Graph := get? s.sk.graphs g

def State.setGraph (s : State) (g : Nat) (v : Graph) : State := s.modSk fun k => { k with graphs := put k.graphs g v }

def Graph.node (g : Graph) (j : Nat) : GNode := g.ns.getD j GNode.zero

def Graph.recVa (g : Graph) (j : Nat) : Word := g.nodes + BitVec.ofNat 64 (64 * j)

/-- R272, R273: the header's device fields are written back. -/
def State.backHeader (s : State) (g : Nat) : State :=
  match s.graph? g with
  | none => s
  | some v => s.engDrop (Eng.sys v.part) (v.hdr + 8) v.headerTail

/-- R268, R273: node `j` changes, and its word 0 and WAVE are written back. -/
def State.setNode (s : State) (g j : Nat) (n : GNode) : State :=
  match s.graph? g with
  | none => s
  | some v =>
    let s := s.setGraph g { v with ns := setAt v.ns j n }
    let s := s.engDrop (Eng.sys v.part) (v.recVa j) (wordBytes n.word)
    s.engDrop (Eng.sys v.part) (v.recVa j + 0x2C) (natBytes 4 n.wave.toNat)

def State.modNode (s : State) (g j : Nat) (f : GNode → GNode) : State :=
  match s.graph? g with
  | none => s
  | some v => s.setNode g j (f (v.node j))

def State.modGraph (s : State) (g : Nat) (f : Graph → Graph) : State :=
  match s.graph? g with
  | none => s
  | some v => s.setGraph g (f v)

/-! Reads (R417, R418). -/

/-- The fault code of a trap code in a node or graph (R270, R417). -/
def skCode (c : TrapCode) : Nat := c.num

/-- R417: the piece at `va` does not lie in device memory. -/
def State.offDevice (s : State) (e : Eng) (va : Word) : Bool :=
  inWindows va || match (match e.core with
    | some k => s.leafOf k e.part va
    | none => match s.walk e.part va with
      | .leaf t => some t
      | .fault .. => none) with
    | some t => t.leaf.tgt ≠ 0
    | none => false

/-- The codes that a read of each piece meets, and the bytes read; `device` for a read of what must lie in device memory. -/
def State.skRead (s : State) (e : Eng) (va : Word) (n : Nat) (device : Bool) : (List Nat × List Byte) × State :=
  (wordPieces va n).foldl (init := (([], []), s)) fun r p =>
    let off := if device && r.2.offDevice e p.1 then [8] else []
    match r.2.engReadWord e p.1 p.2 with
    | (.ok bs, s) =>
      let cs := off ++ if bs.any (·.2) then [10] else []
      ((cs ++ r.1.1, if cs.isEmpty then r.1.2 ++ bs.map (·.1) else r.1.2), s)
    | (.error (.fault c _ _), s) => ((off ++ skCode c :: r.1.1, r.1.2), s)
    | (.error _, s) => ((off ++ 9 :: r.1.1, r.1.2), s)

/-- R270, R417: the first of the codes that applies, in the order given. -/
def firstCode (l : List Nat) : Option Nat := [7, 8, 9, 10, 0x41].find? fun c => l.contains c

/-- R417: the successor list of node `j`, read afresh. -/
def State.succList (s : State) (e : Eng) (v : Graph) (j : Nat) : Except Nat (List Nat) × State :=
  match s.skRead e (v.recVa j + 0x10) 16 true with
  | (([], rec_), s) =>
    let succ := wordAt rec_ 0
    let n := fld (wordAt rec_ 1) 31 0
    if fld succ 1 0 ≠ 0 then (.error 7, s)
    else
      let (r, s) := s.skRead e succ (4 * n) true
      let idx := (List.range n).map fun t => bytesNat ((r.2.drop (4 * t)).take 4)
      (match firstCode r.1 with
      | some c => .error c
      | none => if idx.any fun x => decide (v.count ≤ x) then .error 0x41 else .ok idx, s)
  | ((cs, _), s) => (.error ((firstCode cs).getD 8), s)

/-- R417: the lists of some nodes, in the order given. -/
def State.succLists (s : State) (e : Eng) (v : Graph) (js : List Nat) : List (Except Nat (List Nat)) × State :=
  s.visit (fun s j => s.succList e v j) js

/-! Stopping a node's tasks (R275). -/

/-- R36, R267, R275: the launches that `sel` chooses end: their tasks are stopped, and those still queued are withdrawn when they reach
dispatch. -/
def State.stopLaunches (s : State) (sel : Nat → Packet → Bool) : State :=
  let ls := (s.disp.launches.filter fun l => sel l.2.part l.2.pkt && !l.2.cancelled).map (·.1)
  let s := s.modDisp fun d => { d with
    launches := mapVals (fun n v => if ls.contains n then { v with cancelled := true } else v) d.launches
    queues := mapVals (fun _ q => { q with
      buf := q.buf.map fun p => if sel q.part p then { p with gone := true } else p
      spill := q.spill.map fun p => if sel q.part p then { p with gone := true } else p }) d.queues }
  let s := s.slotNums.foldl (init := s) fun s i =>
    match (s.slot i).task.launch with
    | some l => if ls.contains l && (s.slot i).live then s.cancelTask i else s
    | none => s
  ls.foldl (init := s) fun s l => match get? s.disp.launches l with
    | some v => if v.live = 0 then s.finishLaunch l else s
    | none => s

/-- The launches of node `j` of graph `g`. -/
def isNodeOf (g j : Nat) (p : Packet) : Bool :=
  match p.node with
  | some (a, _, b) => a = g && b = j
  | none => false

/-- R275, R282: the run of node `j` of graph `g` ends: its tasks are stopped, and a completion of it that is held or on its way is
discarded. -/
def State.stopNode (s : State) (g j : Nat) : State :=
  let mine (e : HeldEv) : Bool := match e with
    | .completion n _ => n = j
    | .token _ => false
  let s := s.modSk fun k => { k with done := k.done.filter fun d => !(d.2.graph = g && d.2.node = j) }
  (s.modGraph g fun v => { v with held := v.held.filter fun e => !mine e }).stopLaunches fun _ p => isNodeOf g j p

/-! Waves (R275, R277). -/

/-- R275: node `origin` starts a wave. -/
def State.startWave (s : State) (g origin : Nat) : State :=
  (s.modGraph g fun v => { v with
    waves := v.waves + 1, status := .wave, cursor := BitVec.ofNat 32 origin
    wave := some { origin := some origin, level := [origin], cone := [], listFault := none, rollback := false } }).backHeader g

/-- R269: node `j` becomes FAULT with a code, and starts a wave. -/
def State.faultNode (s : State) (g j code : Nat) : State :=
  let run : Bool := match s.graph? g with
    | some v => decide ((v.node j).st = .run)
    | none => false
  let s := s.modNode g j fun n => { n with fcode := BitVec.ofNat 8 code, st := .fault, lookup := false, copy := none, missed := false }
  let s := if run then s.stopNode g j else s
  s.startWave g j

/-! Completion (R273). -/

/-- R273: the graph completes where nothing is left to run. -/
def State.checkGraph (s : State) (g : Nat) : State :=
  match s.graph? g with
  | none => s
  | some v =>
    if v.status = .running && v.countOf 0 = 0 && v.countOf 1 = 0 && v.countOf 2 = 0 && v.countOf 7 = 0 then
      let s := (s.modGraph g fun v => { v with status := if v.fcode = 0 then .done else .failed, cursor := 0xFFFFFFFF }).backHeader g
      let s := if v.cwa ≠ 0 then
          s.engDrop (Eng.sys v.part) v.cwa (wordBytes (completionWord (v.countOf 4) v.fcode.toNat v.ctag.toNat))
        else s
      s.modSk fun k => { k with graphs := del k.graphs g }
    else s.backHeader g

/-! Submitting and tokens (R269 to R271). -/

/-- R270: node `j`, READY, is submitted; `pure_` sets PURE where the node has it. -/
def State.submitNode (s : State) (g j : Nat) (pure_ : Bool) : State :=
  match s.graph? g with
  | none => s
  | some v =>
    let e := Eng.sys v.part
    match s.skRead e (v.recVa j + 8) 8 true with
    | (([], w), s) =>
      let pa := wordAt w 0
      if fld pa 5 0 ≠ 0 then s.faultNode g j 7
      else
        let (r, s) := s.skRead e pa 128 false
        match firstCode r.1 with
        | some c => s.faultNode g j c
        | none =>
          let w0 := wordAt r.2 0
          let w0 := if !(v.node j).pure then w0 else if pure_ then w0 ||| 0x100 else w0 &&& ~~~(0x100 : Word)
          let p : Packet := { Packet.ofBytes (wordBytes w0 ++ r.2.drop 8) v.tenant with owner := v.owner, node := some (g, v.hdr.toNat, j) }
          (s.modNode g j fun n => { n with st := .run, lookup := false, copy := none }).pushPacket (deviceQueue v.part) p
    | ((cs, _), s) => s.faultNode g j ((firstCode cs).getD 8)

/-- R284, R290: the code digest of node `j`'s packet, where it can be read. -/
def State.nodeDigest (s : State) (v : Graph) (j : Nat) : Option (BitVec 128) × State :=
  match s.skRead (Eng.sys v.part) (v.recVa j + 8) 8 true with
  | (([], w), s) => match s.skRead (Eng.sys v.part) (wordAt w 0 + 0x30) 16 false with
    | (([], d), s) => (some (BitVec.ofNat 128 (bytesNat d)), s)
    | (_, s) => (none, s)
  | (_, s) => (none, s)

/-- R290: a READY node is submitted, or Pewter is asked first. No lookup of an earlier run counts (R284, R292). -/
def State.readyNode (s : State) (g j : Nat) : State :=
  match s.graph? g with
  | none => s
  | some v =>
    let ask (on : Bool) (s : State) : State := s.modGraph g fun v => { v with
      ns := setAt v.ns j { v.node j with lookup := on, copy := none, missed := false } }
    if v.status ≠ .running then s
    else if !(v.node j).pure then (ask false s).submitNode g j false
    else match s.nodeDigest v j with
      | (none, s) => (ask false s).submitNode g j true
      | (some d, s) =>
        if s.isDemoted v.tenant d then (ask false s).submitNode g j false
        else if (s.pewTenant v.tenant).quota = 0 then (ask false s).submitNode g j true
        else ask true s

/-- R270: the nodes that a step has made READY are submitted, in ascending index, while the graph runs; and the graph completes where nothing
is left (R273). -/
def State.submitReady (s : State) (g : Nat) : State :=
  let s := (List.range (((s.graph? g).map (·.count)).getD 0)).foldl (init := s) fun s j => match s.graph? g with
    | some v => if v.status = .running && (v.node j).st = .ready && !(v.node j).lookup then s.readyNode g j else s
    | none => s
  s.checkGraph g

/-- R269: a token takes its step at node `j` of a RUNNING graph. -/
def State.tokenStep (s : State) (g j : Nat) : State :=
  match s.graph? g with
  | none => s
  | some v =>
    let n := v.node j
    match n.st with
    | .wait =>
      if n.pending ≤ 1 then s.setNode g j { n with pending := 0, st := .ready }
      else s.setNode g j { n with pending := n.pending - 1 }
    | .ready | .run | .done | .reused => s.faultNode g j 0x0D
    | _ => s

/-- R271: a token of a graph: a step, or held while the graph is frozen. -/
def State.giveToken (s : State) (g j : Nat) : State :=
  match s.graph? g with
  | none => s
  | some v =>
    if v.status = .running then s.tokenStep g j
    else s.setGraph g { v with held := v.held ++ [.token j] }

/-- R269, R271: node `j` becomes DONE or REUSED, and its tokens are sent to the nodes of its list, in order. -/
def State.sendFrom (s : State) (g j : Nat) (st : NodeSt) (l : List Nat) : State :=
  l.foldl (init := s.modNode g j fun n => { n with st := st, sent := true, lookup := false, copy := none }) fun s x => s.giveToken g x

/-- R269, R271, R417: the same, with the list read, whose failure makes the node FAULT. -/
def State.endNode (s : State) (g j : Nat) (st : NodeSt) : State :=
  match s.graph? g with
  | none => s
  | some v =>
    match s.succList (Eng.sys v.part) v j with
    | (.error c, s) => s.faultNode g j c
    | (.ok l, s) => s.sendFrom g j st l

/-- R292 steps 1 and 2: a node that completes DONE after a lookup that missed watches its result, and its insert begins. -/
def State.beginInsert (s : State) (g j : Nat) : State :=
  match s.graph? g with
  | none => s
  | some v =>
    let n := v.node j
    if !n.missed then s
    else
      let e := Eng.sys v.part
      match s.skRead e (v.recVa j + 0x20) 16 true with
      | (([], w), s) =>
        let ra := wordAt w 0
        let rb := fld (wordAt w 1) 31 0
        match s.watchResult e ra rb with
        | (some pages, s) =>
          let (id, s) := s.newId
          let ins : PewInsert :=
            { key := n.key, tenant := v.tenant, part := v.part, raddr := ra, rbytes := rb, pages := pages, spoiled := false }
          s.modPw fun p => { p with inserts := put p.inserts id ins }
        | (none, s) => s.modTenant v.tenant fun t => { t with skipped := satCount (t.skipped + 1) }
      | (_, s) => s

/-- R269, R271: a node's launch completes with status `st`, in a RUNNING graph. -/
def State.nodeEnds (s : State) (g j : Nat) (st : BitVec 8) : State :=
  match s.graph? g with
  | none => s
  | some v =>
    if (v.node j).st ≠ .run then s
    else if st = 0 then
      match s.succList (Eng.sys v.part) v j with
      | (.error c, s) => s.faultNode g j c
      | (.ok l, s) => (s.beginInsert g j).sendFrom g j .done l
    else s.faultNode g j st.toNat

/-- R271, R276: held events are applied in order while the graph is RUNNING, and READY nodes are then submitted. -/
def State.resumeGraph (s : State) (g : Nat) : State :=
  let rec go : Nat → State → State
    | 0, s => s
    | n + 1, s => match s.graph? g with
      | none => s
      | some v =>
        if v.status ≠ .running then s
        else match v.held with
          | [] => s
          | .token j :: t => go n ((s.setGraph g { v with held := t }).tokenStep g j)
          | .completion j st :: t => go n ((s.setGraph g { v with held := t }).nodeEnds g j st)
  (go ((s.graph? g).map (·.held.length) |>.getD 0) s).submitReady g

/-! The happenings. -/

/-- R282: the entries held at an instance. -/
def State.heldAt (s : State) (st : Nat) : Nat :=
  ((s.sk.graphs.filter fun g => stackOfPa g.2.hpa = st).map fun g => g.2.held.length).sum

/-- The live graph whose header lies at a physical address. -/
def State.liveGraph (s : State) (hpa : Nat) : Option (Nat × Graph) := s.sk.graphs.find? fun g => g.2.hpa = hpa

/-- R282: a graph pauses with its partition. -/
def State.graphStopped (s : State) (v : Graph) : Bool :=
  match s.part? v.part with
  | some p => decide (p.gang ≠ .running)
  | none => false

/-- R256, R271: a token in flight takes its step, is held, or is discarded. -/
def execTokenDelivery (i : Nat) (s : State) : Out :=
  match get? s.sk.tokens i with
  | none => .refused (.notEnabled "TOKEN_DELIVERY")
  | some t =>
    let r := s.modSk fun k => { k with tokens := del k.tokens i }
    match s.liveGraph t.hpa with
    | none => .next r
    | some (g, v) =>
      if s.graphStopped v then .refused (.notEnabled "TOKEN_DELIVERY")
      else if v.count ≤ t.node then .next r
      else if v.status ≠ .running && 4096 ≤ s.heldAt (stackOfPa t.hpa) then .refused (.notEnabled "TOKEN_DELIVERY")
      else .next ((r.giveToken g t.node).submitReady g)

/-- R269, R271: a node launch's completion is applied, or held while the graph is frozen. -/
def execNodeCompletion (i : Nat) (s : State) : Out :=
  match get? s.sk.done i with
  | none => .refused (.notEnabled "NODE_COMPLETION")
  | some d =>
    let r := s.modSk fun k => { k with done := del k.done i }
    match r.graph? d.graph with
    | none => .next r
    | some v =>
      if s.graphStopped v then .refused (.notEnabled "NODE_COMPLETION")
      else if v.status = .running then .next ((r.nodeEnds d.graph d.node d.st).submitReady d.graph)
      else if 4096 ≤ s.heldAt (stackOfPa v.hpa) then .refused (.notEnabled "NODE_COMPLETION")
      else .next (r.setGraph d.graph { v with held := v.held ++ [.completion d.node d.st] })

/-- R269: node `j` is reached by the wave with id `w`. -/
def State.reachNode (s : State) (g j : Nat) (w : BitVec 32) : State :=
  match s.graph? g with
  | none => s
  | some v =>
    let n := v.node j
    let st : NodeSt := match n.st with
      | .run => .cancel
      | .wait | .ready | .done | .reused => .void
      | .retry => .fault
      | x => x
    let s := s.setNode g j { n with wave := w, st := st, lookup := false, copy := none, missed := false }
    if n.st = .run then s.stopNode g j else s

/-- R275, R278: the last level of a wave is done. -/
def State.endWave (s : State) (g : Nat) (w : Wave) : State :=
  match s.graph? g with
  | none => s
  | some v =>
    if w.rollback then
      let s := (List.range v.count).foldl (init := s) fun s j =>
        if w.cone.contains j then s
        else match (v.node j).st with
          | .wait | .ready | .run | .done | .reused | .retry => s.reachNode g j v.waves
          | _ => s
      (s.modGraph g fun v => { v with status := .running, wave := none, cone := [], held := [], fcode := 0x12, cursor := 0xFFFFFFFF }).checkGraph g
    else
      let o := w.origin.getD 0
      let n := v.node o
      if n.retryable && decide (0 < n.retries) && n.fcode ≠ 0x12 && w.listFault.isNone then
        let s := s.setNode g o { n with retries := n.retries - 1, st := .retry }
        (s.modGraph g fun v => { v with status := .retrying, wave := none, cone := w.cone, cursor := 0xFFFFFFFF }).backHeader g
      else
        let code := w.listFault.getD n.fcode
        (s.modGraph g fun v => { v with
          status := .running, wave := none, cone := [], cursor := 0xFFFFFFFF
          fcode := if v.fcode = 0 then code else v.fcode }).resumeGraph g

/-- R275: the cancel wave of graph `g` processes its next level. -/
def execWaveLevel (g : Nat) (s : State) : Out :=
  match s.graph? g with
  | none => .refused (.notEnabled "WAVE_LEVEL")
  | some v => match v.wave with
    | none => .refused (.notEnabled "WAVE_LEVEL")
    | some w =>
      let stopped : Bool := match s.part? v.part with
        | some p => decide (p.gang ≠ .running)
        | none => true
      if stopped then .refused (.notEnabled "WAVE_LEVEL")
      else
        let (lists, s) := s.succLists (Eng.sys v.part) v w.level
        let s := w.level.foldl (init := s) fun s j => s.reachNode g j v.waves
        let cone := w.cone ++ w.level
        let next := lists.foldl (init := ([] : List Nat)) fun acc l => match l with
          | .ok xs => xs.foldl (fun acc x => if cone.contains x then acc else insertNat x acc) acc
          | .error _ => acc
        let bad : Option (BitVec 8) := w.listFault.orElse fun _ => lists.findSome? fun l => match l with
          | .error c => some (BitVec.ofNat 8 c)
          | .ok _ => none
        let w := { w with level := next, cone := cone, listFault := bad }
        if next.isEmpty then .next (s.endWave g w)
        else .next ((s.modGraph g fun v => { v with wave := some w, cursor := BitVec.ofNat 32 (next.headD 0) }).backHeader g)

/-- R276: tasks of a cone's CANCEL nodes are left. -/
def State.coneBusy (s : State) (v : Graph) : Bool :=
  let ofRun (l : Launch) (j : Nat) : Bool := l.part = v.part && decide (0 < l.live) && match l.pkt.node with
    | some (_, h, i) => h = v.hdr.toNat && i = j
    | none => false
  v.cone.any fun j => (v.node j).st = .cancel && s.disp.launches.any fun l => ofRun l.2 j

/-- R276: how many tokens node `j` was sent from inside the cone. -/
def insideCount (lists : List (Nat × List Nat)) (j : Nat) : Nat :=
  (lists.map fun l => (l.2.filter (· = j)).length).sum

/-- R276: the code of the lowest FAULT node left in a graph. -/
def Graph.leftCode (v : Graph) : BitVec 8 :=
  match v.ns.find? fun n => n.st = .fault with
  | some n => n.fcode
  | none => 0

/-- R276, R417: the cone of graph `g` is re-armed. -/
def execRearm (g : Nat) (s : State) : Out :=
  match s.graph? g with
  | none => .refused (.notEnabled "REARM")
  | some v =>
    if v.status ≠ .retrying || s.coneBusy v || s.graphStopped v then .refused (.notEnabled "REARM")
    else
      let (ls, s) := s.succLists (Eng.sys v.part) v v.cone
      let lists := v.cone.zip ls
      match lists.findSome? fun l => match l.2 with
        | .error c => some c
        | .ok _ => none with
      | some c =>
        let s := v.cone.foldl (init := s) fun s j => if (v.node j).st = .retry then s.modNode g j fun n => { n with st := .fault } else s
        .next ((s.modGraph g fun v => { v with
          status := .running, cone := [], fcode := if v.fcode = 0 then BitVec.ofNat 8 c else v.fcode }).resumeGraph g)
      | none =>
        let sent := lists.filterMap fun l => match l.2 with
          | .ok xs => if (v.node l.1).sent then some (l.1, xs) else none
          | .error _ => none
        let rs := (v.cone.filter fun j => match (v.node j).st with
          | .fault | .cancel | .void | .retry => true
          | _ => false).foldl (fun acc j => insertNat j acc) []
        let s := rs.foldl (init := s) fun s j => s.modNode g j fun n =>
          let p := n.pending + insideCount sent j
          { n with pending := p, fcode := 0, sent := false, st := if p = 0 then .ready else .wait }
        .next ((s.modGraph g fun v => { v with status := .running, cone := [], fcode := v.leftCode }).resumeGraph g)

/-- R278: the event that owns graph `g` is rolled back: the graph is cancelled as a whole. -/
def State.rollbackGraph (s : State) (g : Nat) : State :=
  (s.modGraph g fun v => { v with
    waves := v.waves + 1, status := .wave, fcode := 0x12, held := [], cone := []
    cursor := BitVec.ofNat 32 (((List.range v.count).find? fun j => (v.node j).root).getD 0)
    wave := some { origin := none, level := (List.range v.count).filter fun j => (v.node j).root, cone := [], listFault := none
                   rollback := true } }).backHeader g

/-! The instructions (R274, R280, R281). -/

/-- R418: what an instruction of slot `i` reads in its own execution. -/
def State.slotEng (s : State) (i : Nat) : Eng :=
  let sl := s.slot i
  { core := some (i / 8), part := sl.task.part, lv := sl.lv, ti := sl.task, hint := .none }

/-- R280: the header at `va` is checked as GLAUNCH checks it; `go` is given its bytes and its physical address, where it lies in device
memory. -/
def State.withHeader (s : State) (va : Word) (release : Bool) (go : State → List Byte → Option Nat → State) : State :=
  let i := s.cur
  s.loadThen i va 64 64 release fun s bs =>
    let hpa := match (s.engPlace (s.slotEng i) .r va).1 with
      | .ok p => match p.leaf with
        | some l => if p.word = 0 && l.tgt = 0 then some p.pa else none
        | none => none
      | .error _ => none
    go s bs hpa

/-- The status of the graph at a header: Skink's, or what memory holds. -/
def State.graphStatus (s : State) (bs : List Byte) (hpa : Option Nat) : Nat :=
  match hpa.bind s.liveGraph with
  | some (_, v) => v.status.num
  | none => fld (wordAt bs 1) 31 24

/-- R274: the walk of GLAUNCH: the nodes and lists, or the status that refuses. -/
def State.walkGraph (s : State) (e : Eng) (nodes : Word) (count : Nat) : Except Word (List GNode × List (List Nat)) × State :=
  let v : Graph :=
    { part := e.part, hdr := 0, hpa := 0, nodes := nodes, count := count, tenant := 0, fcode := 0, status := .idle, cwa := 0, ctag := 0
      cursor := 0, waves := 0, ns := [], wave := none, cone := [], held := [], owner := none }
  let (recs, s) := s.visit (fun s j => s.skRead e (v.recVa j) 64 true) (List.range count)
  if !(recs.all fun r => r.1.isEmpty) then (.error 6, s)
  else
    let bad := (recs.zip (List.range count)).any fun r =>
      let w := wordAt r.1.2 0
      fld w 47 24 ≠ 0 || fld w 15 11 ≠ 0 || fld w 7 0 ≠ 0 || fld (wordAt r.1.2 3) 63 32 ≠ r.2 || fld (wordAt r.1.2 5) 63 32 ≠ 0 ||
      wordAt r.1.2 6 ≠ 0 || wordAt r.1.2 7 ≠ 0
    let (lists, s) := s.succLists e v (List.range count)
    if bad || lists.any fun l => match l with
        | .error _ => true
        | .ok _ => false then (.error 6, s)
    else
      let ls := lists.map fun l => match l with
        | .ok xs => xs
        | .error _ => []
      let all := ls.flatten
      if (List.range count).any fun j => decide (65535 < (all.filter (· = j)).length) then (.error 3, s)
      else (.ok (recs.map fun r => nodeOf r.2, ls), s)

/-- The stacks whose instances hold the records of a graph. -/
def State.recStacks (s : State) (e : Eng) (v : Graph) : List Nat :=
  (List.range v.count).filterMap fun j => match (s.engPlace e .r (v.recVa j)).1 with
    | .ok p => some (stackOfPa p.pa)
    | .error _ => none

/-- R274: a further graph would exceed an instance's live graphs or records. -/
def State.skinkFull (s : State) (e : Eng) (v : Graph) : Bool :=
  let home := stackOfPa v.hpa
  let graphs := (s.sk.graphs.filter fun g => stackOfPa g.2.hpa = home).length
  let mine := s.recStacks e v
  let theirs := s.sk.graphs.flatMap fun g => s.recStacks (Eng.sys g.2.part) g.2
  decide (4096 ≤ graphs) || (List.range 4).any fun st =>
    0 < (mine.filter (· = st)).length && decide (1048576 < (mine.filter (· = st)).length + (theirs.filter (· = st)).length)

/-- A header's fields as a graph that is not yet running. -/
def headerGraph (part : Nat) (hdr : Word) (hpa : Nat) (bs : List Byte) (ns : List GNode) : Graph :=
  let w1 := wordAt bs 1
  { part := part, hdr := hdr, hpa := hpa, nodes := wordAt bs 0, count := fld w1 23 0, tenant := BitVec.ofNat 16 (fld w1 47 32)
    fcode := BitVec.ofNat 8 (fld w1 55 48), status := .running, cwa := wordAt bs 2, ctag := (wordAt bs 3).setWidth 32, cursor := 0xFFFFFFFF
    waves := BitVec.ofNat 32 (fld (wordAt bs 7) 63 32), ns := ns, wave := none, cone := [], held := [], owner := none }

/-- R30: the event that owns a graph which the slot's task starts: the open one, or the one that owns the task's launch.
DEDUCED (log 69): what the task enqueues is not owned. -/
def Slot.graphOwner (sl : Slot) : Option Owner := sl.owner.orElse fun _ => sl.task.owner

/-- R274: GLAUNCH. -/
def execGlaunch (d a : Reg) (s : State) : Out :=
  .next (s.withRegs s.cur [a] [d] fun s => s.needImpure fun s =>
    let i := s.cur
    let h := s.rv a
    s.withHeader h true fun s bs hpa =>
      let ret (s : State) (v : Word) : State := s.writeDone i [a] d v
      let st := s.graphStatus bs hpa
      let w1 := wordAt bs 1
      if st = 2 then ret s 6
      else if st = 1 || st = 3 then ret s 1
      else if 5 < st || fld w1 63 56 ≠ 0 || fld (wordAt bs 0) 5 0 ≠ 0 || fld (wordAt bs 2) 2 0 ≠ 0 then ret s 6
      else match hpa with
        | none => ret s 6
        | some pa =>
          let e := s.slotEng i
          match s.walkGraph e (wordAt bs 0) (fld w1 23 0) with
          | (.error c, s) => ret s c
          | (.ok (ns, _), s) =>
            let sl := s.slot i
            let v := { headerGraph sl.task.part h pa bs (ns.map fun n => { n with
              pending := n.expected, fcode := 0, sent := false, wave := 0, st := if n.expected = 0 then .ready else .wait }) with
              tenant := sl.task.tenant, fcode := 0, waves := 0, owner := sl.graphOwner }
            if s.skinkFull e v then ret s 2
            else
              let g := s.sk.next
              let s := (s.modSk fun k => { k with next := g + 1 }).setGraph g v
              let s := (List.range v.count).foldl (init := s) fun s j => s.modNode g j id
              ret (s.submitReady g) 0)

/-- R280: GTOK. -/
def execGtok (d a b : Reg) (s : State) : Out :=
  .next (s.withRegs s.cur [a, b] [d] fun s => s.needImpure fun s =>
    let i := s.cur
    let x := s.rv b
    s.withHeader (s.rv a) true fun s _ hpa =>
      let ret (s : State) (v : Word) : State := s.writeDone i [a, b] d v
      match hpa with
      | none => ret s 6
      | some pa => match s.liveGraph pa with
        | none => ret s 7
        | some (g, v) =>
          if v.count ≤ x.toNat then ret s 6
          else if v.status ≠ .running && 4096 ≤ s.heldAt (stackOfPa pa) then s.stallHead i
          else ret ((s.giveToken g x.toNat).submitReady g) 0)

/-- R280: GEXP. -/
def execGexp (d a b : Reg) (s : State) : Out :=
  .next (s.withRegs s.cur [a, b] [d] fun s => s.needImpure fun s =>
    let i := s.cur
    let x := s.rv b
    let j := fld x 31 0
    let c := fld x 47 32
    s.withHeader (s.rv a) false fun s _ hpa =>
      let ret (s : State) (v : Word) : State := s.writeDone i [a, b] d v
      match hpa with
      | none => ret s 6
      | some pa => match s.liveGraph pa with
        | none => ret s 7
        | some (g, v) =>
          let n := v.node j
          if fld x 63 48 ≠ 0 || v.count ≤ j || n.st ≠ .wait then ret s 6
          else if v.status ≠ .running then ret s 1
          else if 65535 < n.expected + c || 65535 < n.pending + c then ret s 3
          else ret (s.setNode g j { n with expected := n.expected + c, pending := n.pending + c }) 0)

/-- R280: GCANCEL. -/
def execGcancel (d a b : Reg) (s : State) : Out :=
  .next (s.withRegs s.cur [a, b] [d] fun s => s.needImpure fun s =>
    let i := s.cur
    let x := s.rv b
    s.withHeader (s.rv a) false fun s _ hpa =>
      let ret (s : State) (v : Word) : State := s.writeDone i [a, b] d v
      match hpa with
      | none => ret s 6
      | some pa => match s.liveGraph pa with
        | none => ret s 7
        | some (g, v) =>
          if v.count ≤ x.toNat then ret s 6
          else if v.status ≠ .running then ret s 1
          else match (v.node x.toNat).st with
            | .fault | .cancel | .void => ret s 7
            | _ => ret (s.faultNode g x.toNat 0x12) 0)

/-- The nodes reachable from those given, or none where a list fails (R280, R417). -/
def State.reachable (s : State) (e : Eng) (v : Graph) : Nat → List Nat → List Nat → Option (List Nat) × State
  | 0, _, cone => (some cone, s)
  | fuel + 1, level, cone =>
    let (lists, s) := s.succLists e v level
    if lists.any fun l => match l with
        | .error _ => true
        | .ok _ => false then (none, s)
    else
      let next := lists.foldl (init := ([] : List Nat)) fun acc l => match l with
        | .ok xs => xs.foldl (fun acc x => if cone.contains x then acc else insertNat x acc) acc
        | .error _ => acc
      if next.isEmpty then (some cone, s) else s.reachable e v fuel next (cone ++ next)

/-- R280: GRETRY, on a graph that runs or on a FAILED one (log 69). -/
def execGretry (d a b : Reg) (s : State) : Out :=
  .next (s.withRegs s.cur [a, b] [d] fun s => s.needImpure fun s =>
    let i := s.cur
    let x := s.rv b
    let h := s.rv a
    s.withHeader h false fun s bs hpa =>
      let ret (s : State) (v : Word) : State := s.writeDone i [a, b] d v
      let arm (s : State) (g : Nat) (v : Graph) : State :=
        let j := x.toNat
        if v.count ≤ j || (v.node j).st ≠ .fault then ret s 6
        else if v.status ≠ .running then ret s 1
        else match s.reachable (Eng.sys v.part) v (v.count + 1) [j] [j] with
          | (none, s) => ret s 6
          | (some cone, s) =>
            let s := (s.setGraph g { v with status := .retrying, cone := cone }).modNode g j fun n => { n with st := .retry }
            ret (s.backHeader g) 0
      match hpa with
      | none => ret s 6
      | some pa => match s.liveGraph pa with
        | some (g, v) => arm s g v
        | none =>
          if fld (wordAt bs 1) 31 24 ≠ 5 then ret s 7
          else
            let e := Eng.sys (s.slot i).task.part
            let count := fld (wordAt bs 1) 23 0
            let (recs, s) := s.visit (fun s j => s.skRead e (wordAt bs 0 + BitVec.ofNat 64 (64 * j)) 64 true) (List.range count)
            if !(recs.all fun r => r.1.isEmpty) then ret s 6
            else
              let g := s.sk.next
              let v := headerGraph (s.slot i).task.part h pa bs (recs.map fun r => nodeOf r.2)
              arm (s.modSk fun k => { k with next := g + 1 }) g v)

/-- R281: GSTAT. -/
def execGstat (d a b : Reg) (n : Bool) (s : State) : Out :=
  .next (s.withRegs s.cur [a, b] [d] fun s => s.needImpure fun s =>
    let i := s.cur
    let x := s.rv b
    s.withHeader (s.rv a) false fun s bs hpa =>
      let ret (s : State) (v : Word) : State := s.writeDone i [a, b] d v
      let whole (cursor : BitVec 32) (fcode st : Nat) : Word := BitVec.ofNat 64 (cursor.toNat * 2 ^ 32 + fcode % 256 * 256 + st % 256)
      match hpa with
      | none => ret s allOnes
      | some pa => match s.liveGraph pa with
        | some (_, v) =>
          if n then ret s (if v.count ≤ x.toNat then allOnes else (v.node x.toNat).word)
          else ret s (whole v.cursor v.fcode.toNat v.status.num)
        | none =>
          let w1 := wordAt bs 1
          if !n then ret s (whole (BitVec.ofNat 32 (fld (wordAt bs 3) 63 32)) (fld w1 55 48) (fld w1 31 24))
          else if fld w1 23 0 ≤ x.toNat then ret s allOnes
          else s.loadThen i (wordAt bs 0 + 64 * x) 8 8 false fun s ws => ret s (wordAt ws 0))

end Sys2Proof.Machine
end

