-- ==== Sys2Proof/Machine/NewtCore.lean ====
section
/-!
DEFINITION. Newt's own operations: the order of events, agents' queues, rollback, the rollback pool and the ends of handlers (R299 to R315,
R324 to R326, R339).
-/

namespace Sys2Proof.Machine

/-! Frerrayx ports (R344, R345). -/

/-- R344: the Frerrayx ports as they stand before anything happened: up, 8 lanes, 15 credits of each class (log 56). -/
def FPort.fresh : FPort :=
  { up := true, lanes := 8, rpl := 0, flits := 0, txSeq := 0, rxSeq := 0, fails := 0, asked := false, cred := Vector.replicate 4 15
    owed := Vector.replicate 4 0, odd := false, queue := [], sent := [] }

def State.fport (s : State) (n : Nat) : FPort := look s.net.ports n FPort.fresh

def State.setFport (s : State) (n : Nat) (v : FPort) : State := s.modNet fun x => { x with ports := put x.ports n v }

/-- R345: the port that leads toward module `dmod` for a stream number. -/
def State.routePort (s : State) (dmod stream : Nat) : Option Nat :=
  match get? s.host.routes dmod with
  | some l => if l.isEmpty then none else (l[stream % l.length]?).filter fun n => (s.fport n).up
  | none => none

/-- What is to leave on port `n` waits there. -/
def State.sendLink (s : State) (n : Nat) (m : LinkMsg) : State :=
  s.setFport n { s.fport n with queue := (s.fport n).queue ++ [m] }

/-- R329, R345: the words `ws` of class 3 set out for module `m`. DESIGN CHOICE (log 34): their layout, which the spec does not give. -/
def State.sendLane (s : State) (m : Nat) (ws : List Word) : State :=
  match s.routePort m 0 with
  | some n => s.sendLink n { cls := 3, stream := 0, dmod := m, smod := s.host.module.toNat, pay := ws }
  | none => s

/-! The order of events (R299). -/

/-- R299: timestamp, sender, sequence, compared field by field. -/
abbrev Triple := Word × Nat × Nat

def tripleLess (a b : Triple) : Bool :=
  decide (a.1 < b.1) || (a.1 = b.1 && (decide (a.2.1 < b.2.1) || (a.2.1 = b.2.1 && decide (a.2.2 < b.2.2))))

def EvMsg.triple (m : EvMsg) : Triple := (m.ts, m.snd, m.seq)

def NEvent.triple (e : NEvent) : Triple := e.msg.triple

def Rollback.triple (r : Rollback) : Triple := (r.ts, r.snd, r.seq)

/-- The event is in its place in event order. -/
def insertEvent (e : NEvent) : List NEvent → List NEvent
  | [] => [e]
  | f :: t => if tripleLess e.triple f.triple then e :: f :: t else f :: insertEvent e t

/-- R307: whether a timestamp is in the optimism window. -/
def NewtPart.inWindow (n : NewtPart) (ts : Word) : Bool := decide (ts.toNat ≤ min (n.gvt.toNat + n.w.toNat) (2 ^ 64 - 1))

/-- The agent's earliest unprocessed event. -/
def Agent.earliest (a : Agent) : Option NEvent := a.events.find? (·.st.isWaiting)

/-- R303: READY or IDLE; an agent one of whose events stands in an intake stays READY. -/
def NewtPart.restState (n : NewtPart) (a : Agent) : AgentSt :=
  if a.events.any (·.st.isPlaced) then .ready
  else match a.earliest with
    | some e => if n.inWindow e.msg.ts then .ready else .idle
    | none => .idle

/-- R303: the agent's state after an event or a rollback ends, or an unprocessed event is removed. -/
def State.restAgent (s : State) (p a : Nat) : State :=
  match s.part? p with
  | none => s
  | some v => s.modAgent p a fun g =>
      if g.rb.isSome || g.events.any (·.st.isOpen) then g else { g with st := v.newt.restState g }

/-- R303: IDLE agents with an event in the window become READY. -/
def State.wakeAgents (s : State) (p : Nat) : State :=
  match s.part? p with
  | none => s
  | some v => (v.newt.agents.filter fun a => a.2.st = .idle && v.newt.restState a.2 ≠ .idle).foldl (init := s) fun s a =>
      s.modAgent p a.1 fun g => { g with st := v.newt.restState a.2 }

/-! Messages (R304, R325). -/

def NewtPart.unit (n : NewtPart) (st : Nat) : NewtPS := look n.ps st NewtPS.zero

def State.modUnit (s : State) (p st : Nat) (f : NewtPS → NewtPS) : State :=
  s.modNewt p fun n => { n with ps := put n.ps st (f (n.unit st)) }

/-- R325, R327: stack `st` sends a message: it takes the stack's colour, is counted, and lowers RedMin. -/
def State.sendMsg (s : State) (p st : Nat) (m : EvMsg) : State :=
  match s.part? p with
  | none => s
  | some v =>
    let c := (v.newt.unit st).colour
    let (id, s) := s.newId
    let s := { s with nmsgs := put s.nmsgs id { part := p, stack := st, msg := { m with col := c }, held := false } }
    s.modUnit p st fun u => { u with
      sent0 := if c then u.sent0 else u.sent0 + 1
      sent1 := if c then u.sent1 + 1 else u.sent1
      redMin := if m.ts < u.redMin then m.ts else u.redMin }

/-- R325: a message of colour `c` is counted as received at stack `st`. -/
def State.recvMsg (s : State) (p st : Nat) (c : Bool) : State :=
  s.modUnit p st fun u => { u with
    recv0 := if c then u.recv0 else u.recv0 + 1
    recv1 := if c then u.recv1 + 1 else u.recv1 }

/-- A saturating 32-bit count. -/
def sat32 (n : Nat) : Nat := min 0xFFFFFFFF n

/-! Rollback (R312, R314). -/

/-- R312 step 2, R157: the granule copies of an event are written back with their poison, the most recent first. -/
def State.restoreEvent (s : State) (e : NEvent) (tenant : BitVec 16) : State :=
  (e.copies.filter (·.taken)).reverse.foldl (init := s) fun s g =>
    (s.unitWrite g.pa g.old tenant).modMm fun m => { m with poison := g.bad.foldl (fun p o => insertNat (g.pa + o) p) m.poison }

/-- R312 step 5: an anti-message after every message that the event sent, in log order. -/
def State.sendAntis (s : State) (p a home : Nat) (log : List LogEntry) : State :=
  log.foldl (init := s) fun s l => match l with
    | .send _ m => (s.sendMsg p home { m with sign := true }).modAgent p a fun g => { g with nanti := sat32 (g.nanti + 1) }
    | .irrev .. => s

/-- R312 step 6: what the event's handler launched is undone. -/
def State.undoOwned (s : State) (p a e : Nat) : State :=
  let mine (o : Option Owner) : Bool := o = some { agent := a, entry := e }
  let gs := (s.sk.graphs.filter fun g => g.2.part = p && mine g.2.owner).map (·.1)
  let s := gs.foldl (init := s) fun s g => s.rollbackGraph g
  s.stopLaunches fun q k => q = p && mine k.owner

/-- An event leaves the intake of its slot; a pool unit that it waited for (R339) is awaited no longer. -/
def State.leaveIntake (s : State) (p : Nat) (e : NEvent) : State :=
  let s := s.modNewt p fun n => { n with pwait := n.pwait.filter (· ≠ (e.msg.rcv, e.num)) }
  match e.st with
  | .placed i | .opened i => s.modSlot i fun sl => { sl with intake := eraseNat e.num sl.intake }
  | _ => s

/-- R312 steps 2 to 7: the agent's rollback ends. -/
def State.finishRollback (s : State) (p a : Nat) : State :=
  match s.agent? p a with
  | none => s
  | some g => match g.rb with
    | none => s
    | some r =>
      let isU (e : NEvent) : Bool := e.st.undoable && !tripleLess e.triple r.triple
      let u := g.events.filter isU
      let s := u.reverse.foldl (init := s) fun s e => (s.leaveIntake p e).restoreEvent e g.tenant
      let s := s.modAgent p a fun g => { g with
        ccur := (u.head?.map (·.ccur0)).getD g.ccur
        lvt := (u.head?.map (·.lvt0)).getD g.lvt
        nproc := g.nproc - BitVec.ofNat 64 (u.filter (·.st.isDone)).length }
      let first := match s.part? p with
        | some v => v.newt.nextEntry
        | none => 0
      let s := s.modNewt p fun n => { n with nextEntry := first + u.length }
      let back := (u.zip (List.range u.length)).map fun x =>
        { x.1 with num := first + x.2, st := .unprocessed, copies := [], log := [], faulted := false }
      let keep := (g.events.filter fun e => !isU e) ++ back
      let keep := (keep.filter fun e => !(r.remove.contains e.triple)).foldl (fun l e => insertEvent e l) []
      let s := s.modAgent p a fun g => { g with events := keep }
      let s := s.sendAntis p a g.home (u.flatMap (·.log))
      let s := u.foldl (init := s) fun s e => s.undoOwned p a e.num
      (s.modAgent p a fun g => { g with rb := none }).restAgent p a

/-- A placed event is withdrawn from its intake and stays unprocessed (R303). -/
def State.withdrawPlaced (s : State) (p a : Nat) : State :=
  match s.agent? p a with
  | none => s
  | some g => match g.events.find? (·.st.isPlaced) with
    | some e => (s.leaveIntake p e).modEvent p a e.num fun e => { e with st := .unprocessed }
    | none => s

/-- The slot that the agent's open event runs on. -/
def Agent.openSlot (a : Agent) : Option Nat := a.events.findSome? fun e => match e.st with
  | .opened i => some i
  | _ => none

/-- R312 step 1: Rollback(`b`) begins at an agent; it goes on once the open handler's slot is idle. `remove` are the positives that an
anti-message removes. -/
def State.startRollback (s : State) (p a : Nat) (b : Triple) (remove : List Triple) : State :=
  match s.agent? p a with
  | none => s
  | some g =>
    let s := s.withdrawPlaced p a
    let s := s.modAgent p a fun g => { g with
      st := .rollback, nroll := sat32 (g.nroll + 1)
      rb := some { ts := b.1, snd := b.2.1, seq := b.2.2, remove := remove, forced := false } }
    match g.openSlot with
    | some i => s.cancelTask i
    | none => s.finishRollback p a

/-- R312: a running rollback goes on once its handler's slot is idle. -/
def execRollbackContinue (p ag : Nat) (s : State) : Out :=
  let stopped : Bool := match s.part? p with
    | some v => decide (v.gang ≠ .running)
    | none => true
  match s.agent? p ag with
  | none => .refused (.notEnabled "ROLLBACK_CONTINUE")
  | some g =>
    let busy : Bool := match g.openSlot with
      | some i => (s.slot i).live
      | none => false
    if stopped || g.rb.isNone || busy then .refused (.notEnabled "ROLLBACK_CONTINUE") else .next (s.finishRollback p ag)

/-! The pool (R339). -/

/-- R339: the agent that a forced rollback takes, with the boundary; `own` is the waiting access's event. -/
def NewtPart.forcedAgent (n : NewtPart) (own : Option (Nat × Nat)) : Option (Nat × Triple) :=
  let cand := n.agents.filterMap fun a =>
    match a.2.events.find? fun e => e.st.undoable && own ≠ some (a.1, e.num) with
    | some e => some (a.1, a.2.lvt, e.triple)
    | none => none
  (cand.foldl (init := (none : Option (Nat × Word × Triple))) fun best c =>
    match best with
    | some (_, l, _) => if l < c.2.1 then some c else best
    | none => some c).map fun c => (c.1, c.2.2)

/-- R339: an access of the event `own` finds no free pool unit: it waits, with PFULL, until it has one or its event is undone; one forced
rollback begins, or the host is interrupted once; none where there is nothing left to do: it waits already, and a rollback is running or the
host has been told. -/
def State.poolPressure (s : State) (p : Nat) (own : Option (Nat × Nat)) : Option State :=
  match s.part? p, own with
  | none, _ | _, none => none
  | some v, some w =>
    let was := v.newt.pwait.contains w
    let s := s.modNewt p fun n => { n with pwait := if was then n.pwait else n.pwait ++ [w] }
    if v.newt.agents.any fun a => a.2.rb.isSome then if was then none else some s
    else match v.newt.forcedAgent own with
      | some (a, b) => some (s.startRollback p a b [])
      | none =>
        if v.newt.told then if was then none else some s
        else some ((s.modNewt p fun n => { n with told := true }).hostEvent 3 3 p 0)

/-- The event of a task, as the waiting access's own. -/
def TaskInfo.ownEvent (t : TaskInfo) : Option (Nat × Nat) := t.evt.map fun e => (t.agent, e)

/-- R154, R310: the granule copy that a slot waits for has its unit, or the full pool makes room (R339). The copy takes the contents that the
slot's store is then performed on. -/
def execGranuleCopyDone (k sl : Nat) (s : State) : Out :=
  let i := 8 * k + sl
  let t := (s.slot i).task
  match (s.slot i).req with
  | some (.granule pa) => match s.reserveCopy t pa with
    | some r => .next (State.endReq i (.granule pa) (none, r))
    | none => match s.poolPressure t.part t.ownEvent with
      | some r => .next r
      | none => .refused (.notEnabled "GRANULE_COPY_DONE")
  | _ => .refused (.notEnabled "GRANULE_COPY_DONE")

/-! The ends of a handler (R314, R320). -/

/-- The event `e` of the agent is processed: LVT and NPROC follow. -/
def State.markProcessed (s : State) (p a e : Nat) (ts : Word) (fault : Option (BitVec 8)) : State :=
  let s := s.modEvent p a e fun v => { v with st := .processed, faulted := fault.isSome }
  (s.modAgent p a fun g => { g with
    lvt := ts, nproc := g.nproc + 1
    flt := g.flt || fault.isSome, lastf := fault.getD g.lastf }).restAgent p a

/-- R314: an event whose handler faulted out is undone alone and marked processed. -/
def State.faultEvent (s : State) (p a e : Nat) (code : BitVec 8) : State :=
  match (s.agent? p a).bind fun g => (g.events.find? fun v => v.num = e).map fun v => (g, v) with
  | none => s
  | some (g, v) =>
    let s := (s.leaveIntake p v).restoreEvent v g.tenant
    let s := s.modAgent p a fun g => { g with ccur := v.ccur0, lvt := v.lvt0 }
    let s := s.modEvent p a e fun v => { v with copies := [], log := [] }
    let s := (s.sendAntis p a g.home v.log).undoOwned p a e
    s.markProcessed p a e v.msg.ts (some code)

/-- R320: EVDONE, and HALT in a handler, end the open event. -/
def State.closeEvent (s : State) (p a e : Nat) : State :=
  match (s.agent? p a).bind fun g => g.events.find? fun v => v.num = e with
  | none => s
  | some v => (s.leaveIntake p v).markProcessed p a e v.msg.ts none

/-! Arrivals (R303, R312, R313, R324). -/

/-- The running rollback extends to an earlier boundary. -/
def State.extendRollback (s : State) (p a : Nat) (b : Triple) (remove : List Triple) : State :=
  let wider (r : Rollback) : Rollback :=
    let r := { r with remove := r.remove ++ remove }
    if tripleLess b r.triple then { r with ts := b.1, snd := b.2.1, seq := b.2.2 } else r
  s.modAgent p a fun g => { g with rb := g.rb.map wider }

/-- R304, R419: a message joins the agent's input queue, at a free place. -/
def State.joinQueue (s : State) (p a : Nat) (v : Part) (g : Agent) (m : EvMsg) (st : EvSt) : State :=
  let place := freePlace (g.events.map (·.place))
  let e : NEvent :=
    { num := v.newt.nextEntry, place := place, msg := m, st := st, lvt0 := 0, ccur0 := 0, copies := [], log := [], faulted := false }
  ((s.modNewt p fun n => { n with nextEntry := n.nextEntry + 1 }).modAgent p a fun g => { g with events := insertEvent e g.events }).putEvent
    p a place m

/-- R303, R312, R324: a positive enters the agent's queue. -/
def State.enterPositive (s : State) (p a : Nat) (m : EvMsg) : State :=
  match s.part? p, s.agent? p a with
  | some v, some g =>
    let s := s.joinQueue p a v g m .unprocessed
    if g.rb.isSome then s.extendRollback p a m.triple []
    else if g.events.any fun f => f.st.undoable && tripleLess m.triple f.triple then s.startRollback p a m.triple []
    else
      let s := if g.events.any fun f => f.st.isPlaced && tripleLess m.triple f.triple then s.withdrawPlaced p a else s
      match g.st with
      | .idle => s.restAgent p a
      | _ => s
  | _, _ => s

/-- R313, R324: an anti-message meets the agent's queue; none where it must wait for a place. -/
def State.enterAnti (s : State) (p a : Nat) (m : EvMsg) : Option State :=
  match s.part? p, s.agent? p a with
  | some v, some g =>
    match g.events.find? fun e => !e.st.isAnti && e.triple = m.triple with
    | some e =>
      if e.st.isWaiting then
        let s := (s.leaveIntake p e).modAgent p a fun g => { g with events := g.events.filter fun f => f.num ≠ e.num }
        some (if g.rb.isSome then s else s.restAgent p a)
      else if g.rb.isSome then some (s.extendRollback p a m.triple [m.triple])
      else some (s.startRollback p a m.triple [m.triple])
    | none =>
      if 2 ^ g.eqcap ≤ g.events.length then none
      else
        some (s.joinQueue p a v g m .anti)
  | _, _ => none

/-- R313: a positive meets the queue: it annihilates a waiting anti-message or enters; none where it must wait for a place. -/
def State.enterPos (s : State) (p a : Nat) (m : EvMsg) : Option State :=
  match s.agent? p a with
  | none => none
  | some g => match g.events.find? fun e => e.st.isAnti && e.triple = m.triple with
    | some e => some (s.modAgent p a fun g => { g with events := g.events.filter fun f => f.num ≠ e.num })
    | none => if 2 ^ g.eqcap ≤ g.events.length then none else some (s.enterPositive p a m)

/-- A message meets its receiver's queue. -/
def State.enterMsg (s : State) (n : NMsg) : Option State :=
  if n.msg.sign then s.enterAnti n.part n.msg.rcv n.msg else s.enterPos n.part n.msg.rcv n.msg

def State.dropMsg (s : State) (i : Nat) : State := { s with nmsgs := del s.nmsgs i }

/-- R325: message `i` arrives: it enters, or is held at its sending stack for a full queue and counted as received there. -/
def State.arriveMsg (s : State) (i : Nat) (n : NMsg) : State :=
  match s.enterMsg n with
  | some _ =>
    let home := match s.agent? n.part n.msg.rcv with
      | some g => g.home
      | none => 0
    match ((s.recvMsg n.part home n.msg.col).dropMsg i).enterMsg n with
    | some r => r
    | none => s
  | none => { s.recvMsg n.part n.stack n.msg.col with nmsgs := put s.nmsgs i { n with held := true } }

/-- Messages of a stopped partition wait (R324). -/
def State.msgRuns (s : State) (n : NMsg) : Bool :=
  match s.part? n.part with
  | some v => v.gang = .running && (get? v.newt.agents n.msg.rcv).isSome
  | none => false

/-- R312: a positive event message in flight arrives. -/
def execEventArrival (i : Nat) (s : State) : Out :=
  match get? s.nmsgs i with
  | some n => if !n.held && !n.msg.sign && s.msgRuns n then .next (s.arriveMsg i n) else .refused (.notEnabled "EVENT_ARRIVAL")
  | none => .refused (.notEnabled "EVENT_ARRIVAL")

/-- R313: an anti-message in flight arrives. -/
def execAntiMessageArrival (i : Nat) (s : State) : Out :=
  match get? s.nmsgs i with
  | some n => if !n.held && n.msg.sign && s.msgRuns n then .next (s.arriveMsg i n) else .refused (.notEnabled "ANTI_MESSAGE_ARRIVAL")
  | none => .refused (.notEnabled "ANTI_MESSAGE_ARRIVAL")

/-- R325: a held message is delivered once its receiver's queue has room. -/
def execHeldMessageRelease (i : Nat) (s : State) : Out :=
  match get? s.nmsgs i with
  | some n =>
    if n.held && s.msgRuns n then
      match (s.dropMsg i).enterMsg n with
      | some r => .next r
      | none => .refused (.notEnabled "HELD_MESSAGE_RELEASE")
    else .refused (.notEnabled "HELD_MESSAGE_RELEASE")
  | none => .refused (.notEnabled "HELD_MESSAGE_RELEASE")

end Sys2Proof.Machine
end

