-- ==== Sys2Proof/Machine/CacheOps.lean ====
section
/-!
DEFINITION. The instructions over the shared cache and the TLBs: pin windows, write-back and invalidation of core lines, and dropping
translations (R219, R220, R222, R223).
-/

namespace Sys2Proof.Machine

/-! Pin windows (R213, R220). -/

/-- The number of ones in the low `n` bits. -/
def popcount (n v : Nat) : Nat := ((List.range n).filter fun j => v.testBit j).length

/-- R220: the physical 64 KiB pages of a window, at the slot's level, or none where a page fails or is not device memory. DESIGN CHOICE (log
72): R220 names no access; the translation asks for R. -/
def State.pinPages (s : State) (i : Nat) (va : Word) : Nat → Option (List Nat) × State
  | 0 => (some [], s)
  | n + 1 =>
    let sl := s.slot i
    match s.xlateNow (i / 8) sl.task.part sl.lv .r va with
    | (.ok p, s) =>
      if p.place = .dev then
        let r := s.pinPages i (va + 0x10000) n
        (r.1.map (p.pa / 65536 :: ·), r.2)
      else (none, s)
    | (_, s) => (none, s)

/-- R213: the usage of a partition, in KiB. -/
def Part.pinUsage (v : Part) : Nat := (v.pins.map fun w => w.2.charge).sum

/-- R213: the line is one of the window's. -/
def PinWin.holds (w : PinWin) (pa : Nat) : Bool := isDev pa && w.phys.contains (pa / 65536) && w.sliceMask.testBit (llcSet pa).1

/-- R213, R220: after a window changed: lines of the old one that are in no window become normal; held lines of the fresh one become pinned,
at most 12 in a set. DESIGN CHOICE (log 72): where a set holds more than 12 of them, the most recently used become pinned. -/
def State.repin (s : State) (old fresh : Option PinWin) : State :=
  let fix (l : List LlcLine) : List LlcLine :=
    let l := l.map fun e => if (old.any fun w => w.holds e.pa) && (s.pinner? e.pa).isNone then { e with cls := .normal } else e
    (l.filter fun e => fresh.any fun w => w.holds e.pa).foldl (init := l) fun l e =>
      if ((setOf l e.pa).filter fun f => f.cls = .pinned).length < 12 then
        l.map fun f => if f.pa = e.pa then { f with cls := .pinned } else f
      else l
  { s with dies := mapVals (fun _ d => { d with llc := fix d.llc }) s.dies }

/-- R220: PINW. -/
def execPinw (d a : Reg) (s : State) : Out :=
  .next (s.needS fun s => s.withRegs s.cur [a] [d] fun s => s.needImpure fun s =>
    let i := s.cur
    s.loadThen i (s.rv a) 32 8 false fun s bs =>
      let ret (s : State) (v : Word) : State := s.writeDone i [a] d v
      let p := (s.slot i).task.part
      let base := wordAt bs 0
      let w1 := wordAt bs 1
      let pages := fld w1 31 0
      let w := fld w1 35 32
      let chosen := fld w1 39 36
      let slices := (wordAt bs 2).toNat
      match s.part? p with
      | none => ret s 6
      | some v =>
        if fld base 15 0 ≠ 0 || fld w1 63 40 ≠ 0 || wordAt bs 3 ≠ 0 then ret s 6
        else if pages = 0 || chosen = 0 || slices = 0 then
          ret ((s.modPart p fun v => { v with pins := del v.pins w }).repin (get? v.pins w) none) 0
        else match s.pinPages i base pages with
          | (none, s) => ret s 6
          | (some l, s) =>
            let l := l.filter fun pg => chosen.testBit (pg % 4)
            let charge := popcount 64 slices * l.length
            let old := match get? v.pins w with
              | some x => x.charge
              | none => 0
            if v.quota * 2048 < v.pinUsage - old + charge then ret s 2
            else
              let win : PinWin :=
                { base := base.toNat, pages := pages, stackMask := chosen, sliceMask := slices, charge := charge, phys := l }
              ret ((s.modPart p fun v => { v with pins := put v.pins w win }).repin (get? v.pins w) (some win)) 0)

/-- R220: PINQ. -/
def execPinq (d a : Reg) (s : State) : Out :=
  .next (s.withRegs s.cur [a] [d] fun s => s.needImpure fun s =>
    let v := (s.rv a).toNat
    s.writeDone s.cur [a] d (match s.part? (s.slot s.cur).task.part with
      | none => allOnes
      | some p =>
        if v < 16 then
          match get? p.pins v with
          | some w => BitVec.ofNat 64 (2 ^ 63 + w.stackMask * 2 ^ 32 + w.charge)
          | none => 0
        else if v = 16 then BitVec.ofNat 64 (p.quota * 2 ^ 32 + p.pinUsage)
        else if v = 17 then BitVec.ofNat 64 p.overflow
        else allOnes))

/-! Write-back and invalidation (R222). -/

/-- R222: the physical ranges of `[va, va + n)` in device memory, page by page; pages that do not translate are skipped. -/
def State.deviceRanges (s : State) (i : Nat) (va : Word) (n : Nat) : List (Nat × Nat) × State :=
  let r := s.visit (fun s a => match s.leafNow (i / 8) (s.slot i).task.part a with
    | (some t, s) =>
      let pa := (leafPhys a t).pa
      (if t.leaf.tgt = 0 then some (pa, pa + (min (va.toNat + n) ((a.toNat / 65536 + 1) * 65536) - a.toNat)) else none, s)
    | (none, s) => (none, s)) (pagesOf va n)
  (r.1.filterMap id, r.2)

/-- The 128-byte line `pa` meets one of the ranges. -/
def meets (rs : List (Nat × Nat)) (pa : Nat) : Bool := rs.any fun r => decide (pa < r.2) && decide (r.1 < pa + 128)

/-- The line `pa` lies in a 64 KiB page that one of the ranges lies in. -/
def inPages (rs : List (Nat × Nat)) (pa : Nat) : Bool := rs.any fun r => r.1 / 65536 = pa / 65536

/-- R222: core `k`'s lines chosen by `sel` are written back, stash lines with their bank's hint (R165), and invalidated where `inv`; the count
of dirty ones. -/
def State.writeBackCore (s : State) (k : Nat) (tenant : BitVec 16) (sel : Nat → Bool) (inv : Bool) : Nat × State :=
  let c := s.core k
  let dirtyC := (c.cache.filter fun l => sel l.pa && l.dirty).map fun l => (l.pa, Hint.none)
  let held := c.stash.flatMap fun b => b.2.lines.filterMap fun l => if sel l.2.1 then some (b.1, l.1, l.2.1) else none
  let dirtyS := c.stash.flatMap fun b => (b.2.lines.filter fun l => sel l.2.1 && l.2.2.2).map fun l => (l.2.1, b.2.hint)
  let s := (dirtyC ++ dirtyS).foldl (init := s) fun s l => s.llcAccess l.1 l.2 tenant true
  let s := if inv then held.foldl (init := s) fun s h => s.keepStashLine k h.1 h.2.1 h.2.2 else s
  (dirtyC.length + dirtyS.length, (s.modCore k fun c =>
    if inv then { c with
      cache := c.cache.filter fun l => !sel l.pa
      stash := mapVals (fun _ b => { b with lines := b.lines.filter fun l => !sel l.2.1 }) c.stash }
    else { c with
      cache := c.cache.map fun l => if sel l.pa then { l with dirty := false, owned := false } else l
      stash := mapVals (fun _ b => { b with lines := mapVals (fun _ l => if sel l.1 then (l.1, false, false) else l) b.lines }) c.stash }).settleHomes)

/-- R222: the LLC lines chosen by `sel` that are not pinned are recalled, written back and dropped. -/
def State.dropLlc (s : State) (sel : Nat → Bool) : State :=
  let gone := s.dies.flatMap fun d => (d.2.llc.filter fun e => isDev e.pa && sel e.pa && e.cls ≠ .pinned).map (·.pa)
  let s := gone.foldl (init := s) fun s pa => s.dropCopies pa none
  { s with dies := mapVals (fun _ d => { d with llc := d.llc.filter fun e => !gone.contains e.pa }) s.dies }

/-- R222: CWB. -/
def execCwb (d a b : Reg) (all : Bool) (s : State) : Out :=
  .next (s.withRegs s.cur [a, b] [d] fun s =>
    let i := s.cur
    if 2 ^ 40 < (s.rv b).toNat then s.writeDone i [a, b] d allOnes
    else
      let (rs, s) := if all then ([], s) else s.deviceRanges i (s.rv a) (s.rv b).toNat
      let (n, s') := s.writeBackCore (i / 8) (s.slot i).task.tenant (fun pa => all || meets rs pa) false
      s'.writeDone i [a, b] d (BitVec.ofNat 64 n))

/-- R222: CINV; `.llc` drops every line of the range's pages from the LLC. -/
def execCinv (d a b : Reg) (llc all : Bool) (s : State) : Out :=
  .next (s.withRegs s.cur [a, b] [d] fun s =>
    let i := s.cur
    if llc && (s.slot i).task.pure then s.trapAt i .purity
    else if 2 ^ 40 < (s.rv b).toNat then s.writeDone i [a, b] d allOnes
    else
      let (rs, s) := if all then ([], s) else s.deviceRanges i (s.rv a) (s.rv b).toNat
      let (n, s') := s.writeBackCore (i / 8) (s.slot i).task.tenant (fun pa => all || meets rs pa) true
      (if llc then s'.dropLlc fun pa => all || inPages rs pa else s').writeDone i [a, b] d (BitVec.ofNat 64 n))

/-! Translations (R223). -/

/-- R223: the half-open ranges of addresses whose translations are dropped. -/
def invRange (sc : InvScope) (a b : Word) : Nat × Nat :=
  match sc with
  | .va => (a.toNat / 65536 * 65536, a.toNat / 65536 * 65536 + 65536)
  | .range => if b = 0 then (0, 0) else (a.toNat, a.toNat + b.toNat)
  | .part => (0, 2 ^ 64)

/-- R223: the TLB entries that the instruction drops. -/
def tlbHit (p : Nat) (sc : InvScope) (a b : Word) (t : Tlb) : Bool :=
  t.part = p && match sc with
  | .va => decide (t.vbase ≤ a.toNat) && decide (a.toNat < t.vbase + t.size)
  | .range => b ≠ 0 && decide (t.vbase < a.toNat + b.toNat) && decide (a.toNat < t.vbase + t.size)
  | .part => true

/-- R223: an access at `v` may have used a dropped entry: the widest page (32 MiB) around the named addresses. -/
def mayUse (sc : InvScope) (a b v : Word) : Bool :=
  let r := invRange sc a b
  decide (r.1 < r.2) && decide (r.1 / 2 ^ 25 ≤ v.toNat / 2 ^ 25) && decide (v.toNat / 2 ^ 25 ≤ (r.2 - 1) / 2 ^ 25)

/-- R223: TLBINV. -/
def execTlbinv (a b : Reg) (sc : InvScope) (s : State) : Out :=
  .next (s.needS fun s => s.withRegs s.cur [a, b] [] fun s => s.needImpure fun s =>
    let i := s.cur
    let p := (s.slot i).task.part
    let va := s.rv a
    let n := s.rv b
    if (s.slot i).pend.any fun x => match x.kind with
        | .load .. | .vload .. | .ldf .. | .feget .. => false
        | _ => true then s.stallHead i
    else
      let hit := tlbHit p sc va n
      let gone := (s.octets.flatMap fun o => o.2.tlb.filter hit) ++ s.dies.flatMap fun d => d.2.tlb.filter hit
      let busy := s.slots.any fun sl => sl.2.task.part = p && sl.2.pend.any fun x => x.parts.any fun q =>
        !inWindows q.va && mayUse sc va n q.va
      let s := { s with
        octets := mapVals (fun _ o => { o with tlb := o.tlb.filter fun t => !hit t }) s.octets
        dies := mapVals (fun _ d => { d with tlb := d.tlb.filter fun t => !hit t }) s.dies }
      let s := gone.foldl (init := s) fun s t => s.pewTlbinv p t.vbase (t.vbase + t.size)
      if busy then s.stallHead i else (s.popPorts i [a, b]).complete i)

end Sys2Proof.Machine
end

