-- ==== Sys2Proof/Machine/Convert.lean ====
section
/-!
DEFINITION. The scalar conversions and the decode tables (R119 to R123).
-/

namespace Sys2Proof.Machine

/-- Decode table t of core k (R113). -/
def State.table (s : State) (k t : Nat) : Table := if t = 0 then (s.core k).dt0 else (s.core k).dt1

/-- R119: the slot's task uses the tables that the format words name. -/
def State.useTables (s : State) (i : Nat) (fs : List Fmt) : State :=
  let d : BitVec 2 := fs.foldl (init := 0) fun d f => if f.elem.isTab then d ||| (if f.dt = 0 then 1 else 2) else d
  if d = 0 then s else s.modSlot i fun sl => { sl with task := { sl.task with dtuse := sl.task.dtuse ||| d } }

/-- R109, R121: a scalar instruction's format word: valid, with scale kind 0. -/
def scalarFmt (w : BitVec 16) : Option Fmt := (Fmt.parse w).filter fun f => f.sk = 0

/-- The low 16 bits from bit `lo` of register field `b`; the shadow word `k` when b is x0 (R121). -/
def State.word16 (s : State) (b : Reg) (lo : Nat) (k : BitVec 16) : BitVec 16 :=
  if b = .x 0 then k else BitVec.ofNat 16 (fld (s.rv b) (lo + 15) lo)

/-- R116: one draw for an element that draws. -/
def State.drawIf (s : State) (c : Bool) : Nat × State :=
  if c then let r := s.takeDraws (s.cur / 8) 1; ((r.1.headD 0).toNat, r.2) else (0, s)

/-- R121: FCVT. -/
def execFcvt (d a b : Reg) (s : State) : Out :=
  let i := s.cur
  .next (s.withRegs i [a, b] [d] fun s =>
    let t := (s.slot i).task
    let ws := s.word16 b 0 t.kfa
    let wd := s.word16 b 16 t.kfo
    if t.pure && fld wd 11 10 = 3 then s.trapAt i .purity
    else match scalarFmt ws, scalarFmt wd with
      | none, _ => s.badWord i (.fcvt d a b) ws 0
      | _, none => s.badWord i (.fcvt d a b) wd 1
      | some fs, some fd =>
        let src := fs.decode (s.table (i / 8) fs.dt) (fld (s.rv a) (fs.elem.width - 1) 0)
        let z := nanAsZero fd.nz src
        let (u, s') := s.drawIf fd.drawing
        let v := BitVec.ofNat 64 (fd.encode (s.table (i / 8) fd.dt) u z.1)
        ((s'.useTables i [fs, fd]).addNan i z.2).writeDone i [a, b] d v)

/-- R121: FCVTI. -/
def execFcvti (d a b : Reg) (n : Bool) (s : State) : Out :=
  let i := s.cur
  .next (s.withRegs i [a, b] [d] fun s =>
    let t := (s.slot i).task
    let ws := s.word16 b 0 t.kfa
    if t.pure && fld ws 11 10 = 3 then s.trapAt i .purity
    else match scalarFmt ws with
      | none => s.badWord i (.fcvti d a b n) ws 0
      | some fs =>
        let src := fs.decode (s.table (i / 8) fs.dt) (fld (s.rv a) (fs.elem.width - 1) 0)
        let (u, s') := s.drawIf (fs.rm = 3)
        let s' := s'.useTables i [fs]
        if src.isNan then (s'.addNan i (if fs.nz then 1 else 0)).writeDone i [a, b] d 0
        else
          let lo : Int := if n then 0 else -(2 ^ 63)
          let hi : Int := if n then 2 ^ 64 - 1 else 2 ^ 63 - 1
          s'.writeDone i [a, b] d (BitVec.ofInt 64 (src.saturate fs.rm u lo hi)))

/-- R121: ICVTF. -/
def execIcvtf (d a b : Reg) (n : Bool) (s : State) : Out :=
  let i := s.cur
  .next (s.withRegs i [a, b] [d] fun s =>
    let t := (s.slot i).task
    let wd := s.word16 b 0 t.kfo
    if t.pure && fld wd 11 10 = 3 then s.trapAt i .purity
    else match scalarFmt wd with
      | none => s.badWord i (.icvtf d a b n) wd 1
      | some fd =>
        let x := s.rv a
        let v : Val := .ofInt (if n then (x.toNat : Int) else x.toInt)
        let (u, s') := s.drawIf fd.drawing
        (s'.useTables i [fd]).writeDone i [a, b] d (BitVec.ofNat 64 (fd.encode (s.table (i / 8) fd.dt) u v)))

/-- R122: FCLASS. -/
def execFclass (d a b : Reg) (s : State) : Out :=
  let i := s.cur
  .next (s.withRegs i [a, b] [d] fun s =>
    let ws := s.word16 b 0 (s.slot i).task.kfa
    match scalarFmt ws with
    | none => s.badWord i (.fclass d a b) ws 0
    | some fs =>
      let m := fs.classOf (s.table (i / 8) fs.dt) (fld (s.rv a) (fs.elem.width - 1) 0)
      (s.useTables i [fs]).writeDone i [a, b] d (BitVec.ofNat 64 m))

/-- R123: the 256 entries of a decode-table image, stored with bits 30:19 zero; an entry 0 is not listed. -/
def tableImage (bs : List Byte) : Table :=
  ((List.range 256).map fun j =>
    (j, BitVec.ofNat 32 (bytesNat ((bs.drop (4 * j)).take 4)) &&& 0x8007FFFF)).filter fun e => e.2 ≠ 0

/-- R123: the offset in the own core's local memory of an address, where it names one. -/
def ownOffset (k : Nat) (a : Word) : Option Nat :=
  let v := a.toNat
  if 0x00FFFF0000000000 ≤ v && v < 0x00FFFF0000020000 then some (v - 0x00FFFF0000000000)
  else if lmAddr k 0 ≤ v && v < lmAddr k 0x20000 then some (v - lmAddr k 0)
  else none

/-- R123: DTLOAD. The reason of its PROTECTION is 10 for another place and 9 for the bank's role (R218). -/
def execDtload (d a : Reg) (t : BitVec 1) (s : State) : Out :=
  let i := s.cur
  let k := i / 8
  .next (s.withRegs i [a] [d] fun s => s.needImpure fun s =>
    let v := s.rv a
    if fld v 9 0 ≠ 0 then s.trapAt i .misalign v
    else match ownOffset k v with
      | none => s.trapAt i .protection v (reasonOps 10 0)
      | some off =>
        if s.role k (off / 0x1000) ≠ 0 then s.trapAt i .protection v (reasonOps 9 0)
        else if (coreSlots k).any fun j => (s.slot j).task.dtuse.getLsbD t.toNat then s.writeDone i [a] d 1
        else if s.poisoned (lmAddr k off) 1024 then s.trapAt i .poison v
        else
          let tab := tableImage (s.rdBytes (lmAddr k off) 1024)
          (s.modCore k fun c => if t = 0 then { c with dt0 := tab } else { c with dt1 := tab }).writeDone i [a] d 0)

/-- R123: DTREAD. -/
def execDtread (d a : Reg) (t : BitVec 1) (s : State) : Out :=
  let i := s.cur
  .next (s.withRegs i [a] [d] fun s => s.needImpure fun s =>
    s.writeDone i [a] d ((Table.entry (s.table (i / 8) t.toNat) (fld (s.rv a) 7 0)).setWidth 64))

end Sys2Proof.Machine
end

