-- ==== Sys2Proof/Machine/Pewter.lean ====
section
/-!
DEFINITION. Pewter: the lookups and inserts of graph nodes (R290 to R293) and the reuse instructions (R294 to R297).
-/

namespace Sys2Proof.Machine

/-! Lookup (R290). -/

/-- What a lookup is asked: the key's tenant, the region it is for and the partition. -/
structure Probe where
  key : BitVec 128
  tenant : BitVec 16
  part : Nat
  dst : Word
  bytes : Nat
deriving DecidableEq, Repr

/-- What the probe of a lookup finds (R290). -/
inductive Lookup where
  | hit (rdig : BitVec 128)    -- in place
  | copy (c : PewCopy)         -- elsewhere: it is to be copied
  | miss
deriving DecidableEq, Repr

/-- R290: the probe, one indivisible step. -/
def State.probe (s : State) (q : Probe) : Lookup × State :=
  let s := s.pewLookup q.tenant
  match s.pewProbe q.tenant q.key with
  | none => (.miss, s)
  | some en =>
    if en.rbytes ≠ q.bytes then (.miss, s)
    else if en.raddr = q.dst && en.part = q.part then (.hit en.rdig, s.pewHit q.tenant q.key)
    else (.copy { key := q.key, entry := en.id, raddr := en.raddr, part := en.part, rdig := en.rdig, dst := q.dst, bytes := q.bytes
                  off := 0, block := 0 }, s)

/-- How a step of a hit's copy leaves the lookup (R290, R293). -/
inductive CopyStep where
  | more (c : PewCopy)
  | hit
  | miss
  | wait (x : EngErr)
deriving DecidableEq, Repr

/-- R290, R291: the next 128 bytes of a hit's copy; after the last of them, the final check of the entry. -/
def State.copyStep (s : State) (e : Eng) (tenant : BitVec 16) (c : PewCopy) : CopyStep × State :=
  if c.bytes ≤ c.off then if s.pewValid c then (.hit, s.pewHit tenant c.key) else (.miss, s)
  else match s.pewChunk e c with
    | (.done, s) => (.more { c with off := c.off + 128 }, s)
    | (.source, s) => (.miss, if s.pewValid c then s.pewDrop tenant c.key else s)
    | (.dest, s) => (.miss, s)
    | (.wait x, s) => (.wait x, s)

/-- R286, R290: a node's packet, result region and key; none where the list is invalid or a tile faults. -/
def State.nodeProbe (s : State) (v : Graph) (j : Nat) : Option Probe × State :=
  let e := Eng.sys v.part
  match s.skRead e (v.recVa j) 64 true with
  | (([], rec_), s) => match s.skRead e (wordAt rec_ 1) 128 false with
    | (([], pk), s) =>
      let w := wordAt pk 3
      match s.descList e (wordAt pk 2) true with
      | (none, s) => (none, s)
      | (some l, s) => match s.tileDigests e (l.filter fun d => !d.res) with
        | (none, s) => (none, s)
        | (some ds, s) =>
          let key := pewKey v.tenant (BitVec.ofNat 128 (bytesNat ((pk.drop 0x30).take 16))) (w.extractLsb' 0 16) (w.extractLsb' 16 16)
            (w.extractLsb' 32 16) ds
          (some { key := key, tenant := v.tenant, part := v.part, dst := wordAt rec_ 4, bytes := fld (wordAt rec_ 5) 31 0 }, s)
    | (_, s) => (none, s)
  | (_, s) => (none, s)

/-- R290: the lookup of node `j` of graph `g` ends in a miss, and the node is submitted pure. -/
def State.nodeMiss (s : State) (g j : Nat) : State :=
  ((s.modGraph g fun v => { v with ns := setAt v.ns j { v.node j with missed := true } }).submitNode g j true).checkGraph g

/-- R290: the lookup of node `j` of graph `g` ends in a hit. -/
def State.nodeHit (s : State) (g j : Nat) : State := (s.endNode g j .reused).submitReady g

/-- The copy of node `j`'s hit stands at `c`. -/
def State.nodeCopy (s : State) (g j : Nat) (c : PewCopy) : State :=
  s.modGraph g fun v => { v with ns := setAt v.ns j { v.node j with copy := some c } }

/-- R290: a step of the lookup of node `n` of live graph `g`: the hashing and the probe, then a chunk of the copy, then the final check. -/
def execPewterLookupDone (g n : Nat) (s : State) : Out :=
  match s.graph? g with
  | none => .refused (.notEnabled "PEWTER_LOOKUP_DONE")
  | some v =>
    let e := { Eng.sys v.part with waits := true }
    let runs : Bool := match s.part? v.part with
      | some p => decide (p.gang = .running)
      | none => false
    if !runs || v.status ≠ .running || !(v.node n).lookup then .refused (.notEnabled "PEWTER_LOOKUP_DONE")
    else match (v.node n).copy with
      | some c => match s.copyStep e v.tenant c with
        | (.more c, s) => .next (s.nodeCopy g n c)
        | (.hit, s) => .next (s.nodeHit g n)
        | (.miss, s) => .next (s.nodeMiss g n)
        | (.wait _, _) => .refused (.notEnabled "PEWTER_LOOKUP_DONE")
      | none => match s.nodeProbe v n with
        | (none, s) => .next ((s.submitNode g n true).checkGraph g)
        | (some q, s) =>
          let s := s.engDrop (Eng.sys v.part) (v.recVa n + 0x30) (natBytes 16 q.key.toNat)
          let s := s.modGraph g fun v => { v with ns := setAt v.ns n { v.node n with key := q.key } }
          match s.probe q with
          | (.hit _, s) => .next (s.nodeHit g n)
          | (.copy c, s) => .next (s.nodeCopy g n c)
          | (.miss, s) => .next (s.nodeMiss g n)

/-! Insert (R292). -/

/-- How an insert ends. -/
inductive Inserted where
  | placed | skipped | faulted
deriving DecidableEq, Repr

/-- R418: the hashing of an insert is checked at the level of the RUPUT's slot, and at S for a node's. -/
def State.insertEng (s : State) (id : Nat) (k : PewInsert) : Eng :=
  match s.slotNums.find? fun i => match (s.slot i).hold with
    | .insert n _ => n = id
    | _ => false with
  | some i => s.slotEng i
  | none => Eng.sys k.part

/-- R292 steps 3 and 4: the result is hashed and its entry placed. -/
def State.insertResult (s : State) (e : Eng) (k : PewInsert) : Inserted × State :=
  match s.engReadClean { e with part := k.part } k.raddr k.rbytes with
  | (.ok bs, s) =>
    match s.pewPlace
      { id := 0, key := k.key, raddr := k.raddr, part := k.part, tenant := k.tenant, rbytes := k.rbytes, rdig := digest16 bs, last := s.dclk
        hits := 0, pages := k.pages } with
    | (s, false) => (.placed, s)
    | (s, true) => (.skipped, s)
  | (.error _, s) => (.faulted, s.modTenant k.tenant fun t => { t with skipped := satCount (t.skipped + 1) })

/-- R295: a RUPUT whose insert is done writes its status and ends; a task that is no longer there writes nothing. -/
def State.endRuput (s : State) (id : Nat) (v : Word) : State :=
  match s.slotNums.findSome? fun i => match (s.slot i).hold with
    | .insert n d => if n = id then some (i, d) else none
    | _ => none with
  | some (i, d) => ((s.modSlot i fun sl => { sl with rukey := none }).writeDst i d v).complete i
  | none => s

/-- R292, R295: a pending insert is hashed and placed, or skipped because its region was written. -/
def execPewterInsert (i : Nat) (s : State) : Out :=
  match get? s.pw.inserts i with
  | none => .refused (.notEnabled "PEWTER_INSERT")
  | some k =>
    let s := s.modPw fun w => { w with inserts := del w.inserts i }
    .next (if k.spoiled then (s.modTenant k.tenant fun t => { t with skipped := satCount (t.skipped + 1) }).endRuput i 7
      else match s.insertResult (s.insertEng i k) k with
        | (.placed, s) => s.endRuput i 0
        | (.skipped, s) => s.endRuput i 2
        | (.faulted, s) => s.endRuput i 6)

/-! The instructions (R294 to R297). -/

/-- A store that the current head makes in its own execution: checked exactly, after its earlier accesses to
the same bytes (R160) and with no page of it in a flip (R239), and performed before `go`. -/
def State.storeThen (s : State) (i : Nat) (va : Word) (bs : List Byte) (go : State → State) : State :=
  let pieces := [(va, bs.length)]
  match s.checkAll i { acc := .w, align := 1 } pieces with
  | .error (.trap c a o) => s.trapAt i c a o
  | .error (.wait r) => s.stallFor i r
  | .error (.ok _) => s
  | .ok ps =>
    let a := s.mkAccess i 0 { kind := .store bs, need := { acc := .w, align := 1 }, pieces := pieces, hint := .none } ps
    if (s.slot i).pendAt a.parts || a.parts.any fun p => s.pageBusy p.pa then s.stallHead i
    else
    let s := s.touchTlb i [va]
    go ((List.range a.parts.length).foldl (init := s) fun s j => match a.parts[j]? with
      | some p => (s.movePiece i a j p).2
      | none => s)

/-- R295: a lookup block. -/
structure Block where
  code : BitVec 128
  args : Word
  fmt : Word
  dst : Word
  dbytes : Nat
deriving DecidableEq, Repr

def blockOf (bs : List Byte) : Block :=
  { code := BitVec.ofNat 128 (bytesNat (bs.take 16)), args := wordAt bs 2, fmt := wordAt bs 3, dst := wordAt bs 4
    dbytes := fld (wordAt bs 5) 31 0 }

/-- R295: a reserved field of the block is not zero. -/
def blockBad (bs : List Byte) : Bool :=
  fld (wordAt bs 3) 63 48 ≠ 0 || fld (wordAt bs 5) 63 32 ≠ 0 || (bs.drop 0x50).any (· ≠ 0)

def State.setRukey (s : State) (i : Nat) (v : Option (BitVec 128 × Word)) : State := s.modSlot i fun sl => { sl with rukey := v }

/-- R295: the RULOOK of slot `i` ends with a hit: the digest goes to the block. -/
def State.rulookHit (s : State) (i : Nat) (b : Word) (dig : BitVec 128) (ret : State → Word → State) : State :=
  s.storeThen i (b + 0x40) (natBytes 16 dig.toNat) fun s => ret s 0

/-- R295: the RULOOK of slot `i` copies its hit's result: the next chunk, or the final check. -/
def State.rulookCopy (s : State) (i : Nat) (d : Reg) (c : PewCopy) : State :=
  let t := (s.slot i).task
  let set (s : State) (l : Option PewCopy) : State := s.modSlot i fun sl => { sl with look := l, st := .stall }
  let ret (s : State) (v : Word) : State := (set s none).writeDone i [] d v
  match s.checkAll i { acc := .w, align := 1 } [(c.block + 0x40, 16)] with
  | .error (.wait r) => s.stallFor i r
  | _ => match s.copyStep { s.slotEng i with waits := true } t.tenant c with
  | (.more c, s) => set s (some c)
  | (.hit, s) => s.rulookHit i c.block c.rdig ret
  | (.miss, s) => ret (s.setRukey i (some (c.key, c.block))) 5
  | (.wait .poolFull, _) => ((s.poolPressure t.part t.ownEvent).getD s).stallHead i
  | (.wait _, _) => s.stallHead i

/-- R295: RULOOK. The copy of a hit goes on at the slot's turns. -/
def execRulook (d a : Reg) (s : State) : Out :=
  .next (match (s.slot s.cur).look with
    | some c => s.rulookCopy s.cur d c
    | none => s.withRegs s.cur [a] [d] fun s => s.needImpure fun s =>
      let i := s.cur
      let b := s.rv a
      s.loadThen i b 128 64 false fun s bs =>
        let t := (s.slot i).task
        let k := blockOf bs
        let e := s.slotEng i
        let s := s.setRukey i none
        let ret (s : State) (v : Word) : State := s.writeDone i [a] d v
        if blockBad bs then ret s 6
        else match s.descList e k.args true with
          | (none, s) => ret s 6
          | (some l, s) =>
            if l.any (·.res) || s.isDemoted t.tenant k.code then ret s 6
            else if (s.pewTenant t.tenant).quota = 0 then ret s 5
            else match s.tileDigests e l with
              | (none, s) => ret s 6
              | (some ds, s) =>
                let key := pewKey t.tenant k.code (k.fmt.extractLsb' 0 16) (k.fmt.extractLsb' 16 16) (k.fmt.extractLsb' 32 16) ds
                let q : Probe := { key := key, tenant := t.tenant, part := t.part, dst := k.dst, bytes := k.dbytes }
                match s.checkAll i { acc := .w, align := 1 } [(b + 0x30, 16), (b + 0x40, 16)] with
                | .error (.wait r) => s.stallFor i r
                | _ => s.storeThen i (b + 0x30) (natBytes 16 key.toNat) fun s =>
                  match s.probe q with
                  | (.miss, s) => ret (s.setRukey i (some (key, b))) 5
                  | (.hit dig, s) => s.rulookHit i b dig ret
                  | (.copy c, s) => (s.popPorts i [a]).modSlot i fun sl => { sl with look := some { c with block := b }, st := .stall })

/-- R295: RUPUT. -/
def execRuput (d a : Reg) (s : State) : Out :=
  .next (s.withRegs s.cur [a] [d] fun s => s.needImpure fun s =>
    let i := s.cur
    let b := s.rv a
    let ret (s : State) (v : Word) : State := (s.setRukey i none).writeDone i [a] d v
    match (s.slot i).rukey with
    | none => ret s 6
    | some (key, b0) =>
      if b0 ≠ b then ret s 6
      else s.loadThen i b 128 64 true fun s bs =>
        let t := (s.slot i).task
        let k := blockOf bs
        match s.watchResult (s.slotEng i) k.dst k.dbytes with
        | (none, s) => ret (s.modTenant t.tenant fun v => { v with skipped := satCount (v.skipped + 1) }) 6
        | (some pages, s) =>
          let ins : PewInsert :=
            { key := key, tenant := t.tenant, part := t.part, raddr := k.dst, rbytes := k.dbytes, pages := pages, spoiled := false }
          let (id, s) := s.newId
          ((s.popPorts i [a]).modPw fun w => { w with inserts := put w.inserts id ins }).holdFor i (.insert id ((s.slot i).bind d)))

/-- R296: every entry of a tenant is dropped; their count. -/
def State.dropTenant (s : State) (t : BitVec 16) : Nat × State :=
  let n := (s.dies.map fun d => (d.2.pew.entries.filter fun e => e.tenant = t).length).sum
  (n, { s with dies := mapVals (fun _ d => { d with pew := { entries := d.pew.entries.filter fun e => e.tenant ≠ t } }) s.dies })

/-- R296: RUDROP. -/
def execRudrop (d a : Reg) (m : DropMode) (s : State) : Out :=
  .next (s.withRegs s.cur [a] [d] fun s => s.needImpure fun s =>
    let i := s.cur
    let t := (s.slot i).task.tenant
    let ret (s : State) (v : Word) : State := s.writeDone i [a] d v
    match m with
    | .key => s.loadThen i (s.rv a) 16 8 false fun s bs =>
        let k := BitVec.ofNat 128 (bytesNat bs)
        if (s.pewProbe t k).isSome then ret (s.pewDrop t k) 1 else ret s 0
    | .all =>
      let (n, s) := s.dropTenant t
      ret s (BitVec.ofNat 64 n)
    | .dem =>
      let n := (s.pewTenant t).demoted.length
      ret (s.modTenant t fun v => { v with demoted := [] }) (BitVec.ofNat 64 n))

/-- R297: RUSTAT. -/
def execRustat (d a : Reg) (s : State) : Out :=
  .next (s.withRegs s.cur [a] [d] fun s => s.needImpure fun s =>
    let t := (s.slot s.cur).task.tenant
    let v := s.pewTenant t
    let out : Word := match (s.rv a).toNat with
      | 0 => BitVec.ofNat 64 (s.dies.map fun d => (d.2.pew.entries.filter fun e => e.tenant = t).length).sum
      | 1 => BitVec.ofNat 64 (v.quota % 512 + v.quota * 1024 * 2 ^ 16)
      | 2 => BitVec.ofNat 64 v.lookups
      | 3 => BitVec.ofNat 64 v.hits
      | 4 => BitVec.ofNat 64 v.inserts
      | 5 => BitVec.ofNat 64 v.invalidated
      | 6 => BitVec.ofNat 64 v.skipped
      | 7 => BitVec.ofNat 64 v.demoted.length
      | _ => allOnes
    s.writeDone s.cur [a] d out)

end Sys2Proof.Machine
end

