-- ==== Sys2Proof/Machine/Newt.lean ====
section
/-!
DEFINITION. Newt: dispatch of events to handler slots (R306, R307), the agents' instructions (R316 to R323), the rounds of global virtual
time (R325 to R332, R338), commit (R333), the delivery rings (R335 to R337) and GVTREQ (R340).
-/

namespace Sys2Proof.Machine

def State.newt? (s : State) (p : Nat) : Option NewtPart := (s.part? p).map (·.newt)

/-- Whether a partition exists and is not stopped by a gang switch. -/
def State.partRuns (s : State) (p : Nat) : Bool :=
  match s.part? p with
  | some v => v.gang = .running
  | none => false

/-! Dispatch (R306, R307). -/

/-- R306: the search over a table whose entry `i` is (selector, PC), as the reads give it. -/
def handlerSearch (sel : Nat) (entry : State → Nat → Option (Nat × Word) × State) (s : State) : Nat → Int → Int → Option (Option Word) × State
  | 0, _, _ => (some none, s)
  | fuel + 1, lo, hi =>
    if hi < lo then (some none, s)
    else
      let mid := (lo + hi) / 2
      match entry s mid.toNat with
      | (none, s) => (none, s)
      | (some (x, pc), s) =>
        if x = sel then (some (some pc), s)
        else if x < sel then handlerSearch sel entry s fuel (mid + 1) hi
        else handlerSearch sel entry s fuel lo (mid - 1)

/-- R306: entry `i` of the table at `htab`. -/
def State.handlerEntry (p : Nat) (tenant : BitVec 16) (htab : Word) (s : State) (i : Nat) : Option (Nat × Word) × State :=
  match s.sysRead p (htab + BitVec.ofNat 64 (16 * (i + 1))) 16 tenant with
  | (.ok e, s) => (some (fld (wordAt e 0) 31 0, wordAt e 1), s)
  | (.error _, s) => (none, s)

/-- R306: the handler of a selector, read with the agent's tenant; none where the event faults out with BAD_PC. -/
def State.findHandler (s : State) (p : Nat) (tenant : BitVec 16) (htab : Word) (sel : BitVec 32) : Option Word × State :=
  match s.sysRead p htab 8 tenant with
  | (.error _, s) => (none, s)
  | (.ok bs, s) =>
    let n := fld (bytesWord bs) 31 0
    match handlerSearch sel.toNat (State.handlerEntry p tenant htab) s 33 0 ((n : Int) - 1) with
    | (none, s) => (none, s)
    | (some (some pc), s) => (some pc, s)
    | (some none, s) =>
      if n = 0 then (none, s)
      else match State.handlerEntry p tenant htab s (n - 1) with
        | (some (x, pc), s) => (if x = 0xFFFFFFFF then some pc else none, s)
        | (none, s) => (none, s)

/-- R307: the handler slots that may take an event of an agent at home on stack `st`. -/
def State.intakeSlots (s : State) (p st : Nat) : List Nat :=
  match s.part? p with
  | none => []
  | some v => ((v.octets.filter fun o => o / 256 = st).foldl (fun acc o => insertNat o acc) []).flatMap fun o =>
      (List.range 64).filterMap fun j =>
        let i := 64 * o + j
        if s.duty i = .handler && s.role (i / 8) 31 = 0 && decide ((s.slot i).intake.length < 4) then some i else none

/-- R307: the slot with the fewest events in its intake, the lowest first. -/
def State.bestIntake (s : State) (p st : Nat) : Option Nat :=
  (s.intakeSlots p st).foldl (init := (none : Option Nat)) fun best i =>
    match best with
    | none => some i
    | some b => if (s.slot i).intake.length < (s.slot b).intake.length then some i else some b

/-- R307: agent `ag`'s earliest unprocessed event goes to an intake. -/
def execEventPlace (p ag : Nat) (s : State) : Out :=
  match s.newt? p, s.agent? p ag with
  | some n, some g =>
    let free := !(g.events.any fun e => match e.st with
      | .placed _ | .opened _ => true
      | _ => false)
    match g.earliest with
    | some e =>
      if s.partRuns p && g.st = .ready && g.rb.isNone && free && n.inWindow e.msg.ts then
        match s.bestIntake p g.home with
        | some i => .next ((s.modSlot i fun sl => { sl with intake := sl.intake ++ [e.num] }).modEvent p ag e.num fun v =>
            { v with st := .placed i })
        | none => .refused (.notEnabled "EVENT_PLACE")
      else .refused (.notEnabled "EVENT_PLACE")
    | none => .refused (.notEnabled "EVENT_PLACE")
  | _, _ => .refused (.notEnabled "EVENT_PLACE")

/-- The agent and the event with an entry number. -/
def NewtPart.eventNum (n : NewtPart) (num : Nat) : Option (Nat × Agent × NEvent) :=
  n.agents.findSome? fun a => (a.2.events.find? fun e => e.num = num).map fun e => (a.1, a.2, e)

/-- R307 step 4: a further checkpoint record has its place in the pool. -/
def NewtPart.roomForRecord (n : NewtPart) : Bool :=
  let recs := ((n.agents.flatMap fun a => a.2.events).filter fun e => e.st.undoable).length
  recs % 64 ≠ 0 || decide (n.used < n.pool)

/-- R307: the oldest event of the intake opens on the idle handler slot. DESIGN CHOICE (log 62): R66 leaves open what becomes of an event
that stands in the intake of a slot which is no handler slot any more when it goes idle; the event still opens there, with its port rights. -/
def execEventOpen (k sl : Nat) (s : State) : Out :=
  let i := 8 * k + sl
  match (s.slot i).intake, s.corePart k with
  | num :: _, some p => match s.newt? p with
    | none => .refused (.notEnabled "EVENT_OPEN")
    | some n => match n.eventNum num with
      | none => .refused (.notEnabled "EVENT_OPEN")
      | some (a, g, e) =>
        if (s.slot i).live || sl ≥ 8 || !s.partRuns p || g.rb.isSome || !e.st.isWaiting then .refused (.notEnabled "EVENT_OPEN")
        else if !n.roomForRecord then
          match s.poolPressure p (some (a, e.num)) with
          | some r => .next r
          | none => .refused (.notEnabled "EVENT_OPEN")
        else
          let (h, s) := s.findHandler p g.tenant g.htab e.msg.sel
          let s := s.modNewt p fun n => { n with pwait := n.pwait.filter (· ≠ (a, e.num)), told := false }
          let s := s.modEvent p a num fun v => { v with st := .opened i, lvt0 := g.lvt, ccur0 := g.ccur }
          let s := s.modAgent p a fun g => { g with st := .opened }
          match h with
          | none => .next (s.faultEvent p a num 4)
          | some pc =>
            let off := 0x1FE00 + 64 * sl
            let s := s.engDrop (Eng.sys p) (BitVec.ofNat 64 (lmAddr k off)) e.msg.bytes
            .next (s.startTask i { TaskInfo.empty with ntask := 1, part := p, tenant := g.tenant, evt := some num, agent := a } .u pc
              (BitVec.ofNat 64 (0x00FFFF0000000000 + off)) 0)
  | _, _ => .refused (.notEnabled "EVENT_OPEN")

/-! The agents' instructions (R317 to R323). -/

/-- R317, R418: every granule of the state region is mapped, writable and VER, in device memory, as the slot's own accesses find it. -/
def State.stateRegion (s : State) (k p : Nat) (lv : Level) (va : Word) : Nat → Bool × State
  | 0 => (true, s)
  | n + 1 => match s.leafNow k p va with
    | (none, s) => (false, s)
    | (some t, s) =>
      if t.leaf.w && t.leaf.ver && t.leaf.tgt = 0 && (lv ≠ .u || t.leaf.u) then s.stateRegion k p lv (va + 0x1000) n else (false, s)

/-- R317: the image's fields that must be zero or in range. -/
def imageOk (bs : List Byte) : Bool :=
  let w (j : Nat) : Word := wordAt bs j
  let home := fld (w 1) 39 32
  let ol := fld (w 12) 47 40
  let eq := fld (w 12) 39 32
  fld (w 1) 63 40 = 0 && fld (w 1) 31 0 = 0 && (home < 4 || home = 0xFF) && fld (w 2) 3 0 = 0 && fld (w 3) 11 0 = 0 &&
  fld (w 4) 11 0 = 0 && w 6 = 0 && w 7 = 0 && w 8 = 0 && w 9 = 0 && w 10 = 0 && w 11 = 0 && 4 ≤ ol && ol ≤ 16 && 4 ≤ eq && eq ≤ 16 &&
  fld (w 12) 31 0 = 0 && w 13 = 0 && fld (w 14) 63 32 = 0 && fld (w 14) 31 0 ≠ 0 && (bs.drop 0x78).all (· = 0)

/-- R301, R317: the agent that an image describes. -/
def agentOf (bs : List Byte) (home eqOff : Nat) : Agent :=
  let w (j : Nat) : Word := wordAt bs j
  let eqcap := fld (w 12) 39 32
  { lvt := w 0, lastf := 0, flt := false, st := .idle, home := home, htab := w 2, sbase := w 3, sbytes := w 4, cbase := w 5
    ccur := 0, ccom := 0, eq := eqOff, ol := eqOff + 64 * 2 ^ eqcap, nproc := 0, nanti := 0, nroll := 0
    tenant := BitVec.ofNat 16 (fld (w 12) 63 48), olcap := fld (w 12) 47 40, eqcap := eqcap, nseq := 0, ccap := fld (w 14) 31 0
    events := [], owed := 0, rb := none }

/-- R317: AGNEW. -/
def execAgnew (d a : Reg) (s : State) : Out :=
  .next (s.withRegs s.cur [a] [d] fun s => s.needImpure fun s =>
    let i := s.cur
    s.loadThen i (s.rv a) 256 64 false fun s bs =>
      let sl := s.slot i
      let p := sl.task.part
      let ret (s : State) (v : Word) : State := s.writeDone i [a] d v
      let home0 := fld (wordAt bs 1) 39 32
      let home := if home0 = 0xFF then stackOf (i / 8) else home0
      match s.newt? p with
      | none => ret s 6
      | some n =>
        if !imageOk bs then ret s 6
        else if BitVec.ofNat 16 (fld (wordAt bs 12) 63 48) ≠ sl.task.tenant && sl.lv = .u then ret s 6
        else match s.stateRegion (i / 8) p sl.lv (wordAt bs 3) ((wordAt bs 4).toNat / 4096) with
        | (false, s) => ret s 6
        | (true, s) =>
          let g := agentOf bs home n.free
          let last := g.ol + 64 * 2 ^ g.olcap
          if n.next = n.cap || n.size - 4096 * n.pool < last then ret s 2
          else
            let s := s.modNewt p fun v => { v with next := n.next + 1, free := last, agents := put v.agents n.next g }
            ret (s.putAcr p n.next) (BitVec.ofNat 64 (n.next * 2 ^ 32)))

/-- R318: AGSTAT. -/
def execAgstat (d a b : Reg) (s : State) : Out :=
  .next (s.withRegs s.cur [a, b] [d] fun s => s.needImpure fun s =>
    let p := (s.slot s.cur).task.part
    let id := (s.rv a).toNat
    let j := (s.rv b).toNat
    s.writeDone s.cur [a, b] d (match s.newt? p, s.agent? p id with
      | some n, some g => if j ≤ 31 then n.agentWord id g j else allOnes
      | _, _ => allOnes))

/-- Output-log places in use. -/
def Agent.logUsed (a : Agent) : Nat := (a.events.map fun e => e.log.length).sum + a.owed

def Agent.logFull (a : Agent) : Bool := decide (2 ^ a.olcap ≤ a.logUsed)

/-- R319: the sending stack's outbound buffer is full. -/
def State.outboundFull (s : State) (st : Nat) : Bool := decide (4096 ≤ (s.nmsgs.filter fun m => m.2.stack = st).length)

/-- R319: the message of an image. -/
def msgOf (bs : List Byte) : EvMsg :=
  let w := wordAt bs 1
  { ts := wordAt bs 0, sel := BitVec.ofNat 32 (fld w 63 32), ext := false, col := false, sign := false, rcv := fld w 23 0, seq := 0, snd := 0
    stime := 0, pay := (bs.drop 0x20).take 32 }

/-- R319: EVSEND. -/
def execEvsend (d a : Reg) (s : State) : Out :=
  .next (s.withRegs s.cur [a] [d] fun s => s.needImpure fun s =>
    let i := s.cur
    s.loadThen i (s.rv a) 64 64 true fun s bs =>
      let t := (s.slot i).task
      let p := t.part
      let st := stackOf (i / 8)
      let ret (s : State) (v : Word) : State := s.writeDone i [a] d v
      let m := msgOf bs
      match s.newt? p with
      | none => ret s 6
      | some n =>
        if fld (wordAt bs 1) 31 24 ≠ 0 || wordAt bs 2 ≠ 0 || wordAt bs 3 ≠ 0 || n.next ≤ m.rcv || m.ts = allOnes then ret s 6
        else match s.openEvent i, get? n.agents t.agent with
          | some e, some g =>
            if m.ts ≤ e.msg.ts then ret s 6
            else if g.logFull then ret s 2
            else if g.nseq = 0xFFFFFFFF then ret s 3
            else if s.outboundFull st then s.stallHead i
            else
              let m := { m with snd := t.agent, seq := g.nseq, stime := e.msg.ts, col := (n.unit st).colour }
              let s := s.modAgent p t.agent fun g => { g with nseq := g.nseq + 1 }
              let s := s.putLog p t.agent e.num (.send (freePlace (n.logPlaces t.agent)) m)
              ret (s.sendMsg p st m) 0
          | _, _ =>
            if m.ts < n.gvt then ret s 6
            else if s.outboundFull st then s.stallHead i
            else
              let m := { m with snd := 0xFFFFFFFF, seq := n.extCount % 2 ^ 32, stime := n.gvt, ext := true }
              let s := s.modNewt p fun n => { n with extCount := n.extCount + 1 }
              ret (s.sendMsg p st m) 0)

/-- R320: EVDONE. -/
def execEvdone (s : State) : Out :=
  let i := s.cur
  .next (s.needImpure fun s =>
    let sl := s.slot i
    if sl.task.evt.isNone then s.trapAt i .protection 0 7
    else if sl.cnt = Counters.zero && sl.vbusy = 0 then s.endTask i .halt
    else s.modSlot i fun sl => { sl with st := .waiting, waitFor := Counters.zero, hold := .evdone })

/-- R321: the agent that a context instruction names, where it may be changed; `open_` is the start length of the slot's event. -/
def State.ctxAgent (s : State) (i : Nat) (g : Word) : Option (Agent × Option Nat) :=
  let t := (s.slot i).task
  match s.agent? t.part g.toNat with
  | none => none
  | some v => match s.openEvent i with
    | some e => if g.toNat = t.agent then some (v, some e.ccur0) else none
    | none => if v.events.any fun e => !e.st.isAnti then none else some (v, none)

/-- R321: CTXAPP. -/
def execCtxapp (d a b : Reg) (s : State) : Out :=
  .next (s.withRegs s.cur [a, b] [d] fun s => s.needImpure fun s =>
    let i := s.cur
    let p := (s.slot i).task.part
    let g := s.rv a
    let n := (s.rv b).toNat
    let ret (s : State) (v : Word) : State := s.writeDone i [a, b] d v
    match s.ctxAgent i g with
    | none => ret s 6
    | some (v, _) =>
      let w := BitVec.ofNat 64 (v.ccur * 2 ^ 32)
      if v.ccap < v.ccur + n then ret s (w ||| 2)
      else ret (s.modAgent p g.toNat fun v => { v with ccur := v.ccur + n }) w)

/-- R321: CTXCUT. -/
def execCtxcut (d a b : Reg) (cm : Bool) (s : State) : Out :=
  .next (s.withRegs s.cur [a, b] [d] fun s => s.needImpure fun s =>
    let i := s.cur
    let part := (s.slot i).task.part
    let g := s.rv a
    let p := (s.rv b).toNat
    let ret (s : State) (v : Word) : State := s.writeDone i [a, b] d v
    match s.ctxAgent i g with
    | none => ret s 6
    | some (v, st) =>
      let w := BitVec.ofNat 64 (v.ccur * 2 ^ 32)
      let low : Bool := match st with
        | some c => decide (p < c)
        | none => false
      if p < v.ccom || v.ccur < p || low || (cm && st.isSome) then ret s (w ||| 6)
      else if cm then ret (s.modAgent part g.toNat fun v => { v with ccom := p }) w
      else ret (s.modAgent part g.toNat fun v => { v with ccur := p }) (BitVec.ofNat 64 (p * 2 ^ 32)))

/-- R322: IRREV. -/
def execIrrev (d a b : Reg) (s : State) : Out :=
  .next (s.withRegs s.cur [a, b] [d] fun s => s.needImpure fun s =>
    let i := s.cur
    let t := (s.slot i).task
    let r := (s.rv b).toNat
    let ret (s : State) (v : Word) : State := s.writeDone i [a, b] d v
    if (s.openEvent i).isNone then ret s 6
    else s.loadThen i (s.rv a) 48 8 false fun s bs =>
      match s.openEvent i, s.newt? t.part with
      | some e, some n =>
        let on : Bool := match get? n.rings r with
          | some g => g.en
          | none => false
        if 255 < r || !on then ret s 6
        else match get? n.agents t.agent with
          | none => ret s 6
          | some g =>
            if g.logFull then ret s 2
            else
              let idx := (e.log.filter fun l => match l with
                | .irrev .. => true
                | .send .. => false).length
              ret (s.putLog t.part t.agent e.num (.irrev (freePlace (n.logPlaces t.agent)) e.msg.ts idx r t.agent bs)) 0
      | _, _ => ret s 6)

/-- R323: VTWIN. -/
def execVtwin (d a : Reg) (s : State) : Out :=
  .next (s.needS fun s => s.withRegs s.cur [a] [d] fun s => s.needImpure fun s =>
    let p := (s.slot s.cur).task.part
    let v := s.rv a
    let old := ((s.newt? p).map (·.w0)).getD 0
    (s.modNewt p fun n => { n with w0 := v, w := if v < n.w then v else n.w }).writeDone s.cur [a] d old)

/-! Rounds (R325 to R332). -/

/-- R327: the stacks of every round: an agent may be at home on a stack that holds no octet of its partition (R317). -/
def stackUnits : List Nat := [0, 1, 2, 3]

/-- R329: the partitions of this module that run their rounds with `p`: the members of its GVT domain, ascending. -/
def State.roundParts (s : State) (p : Nat) : List Nat :=
  let mine (d : Nat × Nat) : Option Nat := if d.1 = s.host.module.toNat && (s.part? d.2).isSome then some d.2 else none
  match s.newt? p with
  | some n => insertNat p ((n.domain.filterMap mine).foldl (fun l q => insertNat q l) [])
  | none => []

/-- R329: whether the domain of `p` has members on other modules. -/
def State.farMembers (s : State) (p : Nat) : Bool :=
  ((s.newt? p).elim [] (·.domain)).any fun d => d.1 ≠ s.host.module.toNat

/-- R329: the other modules of the domain of `p`. -/
def State.farModules (s : State) (p : Nat) : List Nat :=
  ((s.newt? p).elim [] (·.domain)).foldl (fun l d => if d.1 = s.host.module.toNat then l else insertNat d.1 l) []

/-- The first word of a message of class 3: what it is (1 START, 2 a report, 3 a GVT), the partition and the round (log 34). -/
def State.laneWord (s : State) (p kind : Nat) : Word :=
  BitVec.ofNat 64 (kind + p * 2 ^ 8 + ((s.newt? p).elim 0 fun n => n.round.toNat) * 2 ^ 32)

/-- R329, R345: every other module of the domain of `p` is sent `ws`. -/
def State.sendFar (s : State) (p : Nat) (ws : List Word) : State :=
  (s.farModules p).foldl (init := s) fun s m => s.sendLane m ws

/-- R327 step 1, R329: a round of `p`'s domain starts, here and, by START on the GVT lanes, on its other modules. -/
def State.startRound (s : State) (p : Nat) : State :=
  ((s.roundParts p).foldl (init := s) fun s q => s.modNewt q fun n => { n with
    act := true, pend := false, timerAt := s.dclk + n.period
    ps := stackUnits.foldl (init := n.ps) fun m st => put m st { n.unit st with cut := false, report := none } }).sendFar p [s.laneWord p 1]

/-- R332: the round period of partition `p` expires; a firing is one with the further round that has already been asked for. -/
def execGvtTimer (p : Nat) (s : State) : Out :=
  match s.newt? p with
  | none => .refused (.notEnabled "GVT_TIMER")
  | some n =>
    if n.period = 0 || s.dclk < n.timerAt || n.pend || !s.partRuns p then .refused (.notEnabled "GVT_TIMER")
    else if n.act then .next (s.modNewt p fun n => { n with pend := true })
    else .next (s.startRound p)

/-- R332: a requested round starts in the core cycle after the close of the running one: the next cycle begins with it. -/
def State.startPending (s : State) : State :=
  (s.parts.map (·.1)).foldl (init := s) fun s p => match s.part? p with
    | some v => if !v.newt.act && v.newt.pend && v.gang = .running then s.startRound p else s
    | none => s

/-- R327 step 2: START reaches a stack. -/
def execGvtCut (p st : Nat) (s : State) : Out :=
  match s.part? p with
  | none => .refused (.notEnabled "GVT_CUT")
  | some v =>
    let u := v.newt.unit st
    if !v.newt.act || u.cut || !stackUnits.contains st || v.gang ≠ .running then .refused (.notEnabled "GVT_CUT")
    else .next (s.modUnit p st fun u => { u with colour := !u.colour, redMin := allOnes, cut := true, cutAt := s.dclk, report := none })

def minWord (a b : Word) : Word := if b < a then b else a

def maxWord (a b : Word) : Word := if a < b then b else a

/-- R326: the local minimum of stack `st`. -/
def State.localMin (s : State) (p st : Nat) : Word :=
  match s.newt? p with
  | none => allOnes
  | some n =>
    let mine := n.agents.filter fun a => a.2.home = st
    let evs := mine.flatMap fun a => (a.2.events.filter fun e => !e.st.isDone).map fun e => e.msg.ts
    let rbs := mine.filterMap fun a => a.2.rb.map (·.ts)
    let held := (s.nmsgs.filter fun m => m.2.part = p && m.2.stack = st && m.2.held).map fun m => m.2.msg.ts
    (evs ++ rbs ++ held).foldl minWord (n.unit st).redMin

/-- R327 step 3: a stack reports, every 64 core cycles after its cut. -/
def execGvtReport (p st : Nat) (s : State) : Out :=
  match s.part? p with
  | none => .refused (.notEnabled "GVT_REPORT")
  | some v =>
    let u := v.newt.unit st
    if !v.newt.act || !u.cut || u.report.isSome || v.gang ≠ .running || s.dclk ≤ u.cutAt || (s.dclk - u.cutAt) % 64 ≠ 0 ||
        !stackUnits.contains st then .refused (.notEnabled "GVT_REPORT")
    else
      let diff : Int := if u.colour then (u.sent0 : Int) - u.recv0 else (u.sent1 : Int) - u.recv1
      .next (s.modUnit p st fun u => { u with report := some (diff, s.localMin p st), cutAt := s.dclk })

/-- R328: the largest LVT of the agents of the partitions `ps`. -/
def State.topLvt (s : State) (ps : List Nat) : Word :=
  ((ps.flatMap fun q => (s.newt? q).elim [] (·.agents)).map (·.2.lvt)).foldl maxWord 0

/-- R327 step 4, R328: the GVT that a round gives: its minimum `m`, or, where it found no event at all, the largest LVT of its agents, of
which `far` is the largest on other modules. -/
def State.roundGvt (s : State) (ps : List Nat) (m far : Word) : Word :=
  if m = allOnes then maxWord far (s.topLvt ps) else m

/-- R328: the entry numbers of the events below `m` that the agents of stack `st` have processed. -/
def NewtPart.doneBelow (n : NewtPart) (st : Nat) (m : Word) : List Nat :=
  (n.agents.filter fun a => a.2.home = st).flatMap fun a => (a.2.events.filter fun e => e.st.isDone && decide (e.msg.ts < m)).map (·.num)

/-- R327 step 4: the round closes at partition `p` with minimum `m` and GVT `g`. What has been processed by then and lies below `m`
commits (R328): the events of each stack's agents. -/
def State.closePart (s : State) (m g : Word) (p : Nat) : State :=
  let clear (u : NewtPS) : NewtPS :=
    if u.colour then { u with sent0 := 0, recv0 := 0, report := none, cut := false }
    else { u with sent1 := 0, recv1 := 0, report := none, cut := false }
  (s.modNewt p fun n => { n with
    gvt := maxWord n.gvt g, round := n.round + 1, act := false
    ps := stackUnits.foldl (init := n.ps) fun l st => put l st (clear (n.unit st))
    commitM := stackUnits.map fun st => (st, n.doneBelow st m) }).wakeAgents p

/-- R327 step 4, R329: the round of `ps` closes with minimum `m`. -/
def State.closeRound (s : State) (ps : List Nat) (m far : Word) : State :=
  let g := s.roundGvt ps m far
  ps.foldl (init := s) fun s q => s.closePart m g q

/-- A difference of counts that a report from outside carries, as the agenda numbers it (log 34). -/
def farDiff (c : Nat) : Int := if c % 2 = 0 then ((c / 2 : Nat) : Int) else -(((c + 1) / 2 : Nat) : Int)

/-- R329: what the other modules of a domain add to a pass: their difference, their minimum and their largest LVT. It comes from outside the
device: three free choices (log 34). The sums are the same at whichever module is the root. -/
def State.farReport (s : State) (p : Nat) : (Int × Word × Word) × State :=
  if s.farMembers p then
    let (d, s) := s.choose
    let (m, s) := s.choose
    let (l, s) := s.choose
    ((farDiff d, allOnes - BitVec.ofNat 64 m, BitVec.ofNat 64 l), s)
  else ((0, allOnes, 0), s)

/-- R329: this module is the root of the domain of `p`. -/
def State.rootHere (s : State) (p : Nat) : Bool := (s.newt? p).elim true fun n => n.root = s.host.module.toNat

/-- R329: the combiner's report of a pass goes to the root module of the domain of `p`, where that is another. -/
def State.reportTo (s : State) (p : Nat) (ws : List Word) : State :=
  match s.newt? p with
  | some n => if s.rootHere p then s else s.sendLane n.root ws
  | none => s

/-- R327 step 3, R329: the combiner sums a pass of the round of `p`'s domain, under the lowest of its partitions. -/
def execGvtPass (p : Nat) (s : State) : Out :=
  let ps := (s.roundParts p).filter fun q => (s.newt? q).elim false (·.act)
  let ns := ps.filterMap s.part?
  let reps := ns.flatMap fun v => stackUnits.filterMap fun st => (v.newt.unit st).report
  if ps.head? ≠ some p || ns.any (fun v => v.gang ≠ .running) || reps.length ≠ 4 * ns.length then
    .refused (.notEnabled "GVT_PASS")
  else
    let own : Int := (reps.map (·.1)).sum
    let low := reps.foldl (fun x r => minWord x r.2) allOnes
    let s := s.reportTo p [s.laneWord p 2, BitVec.ofInt 64 own, low, s.topLvt ps]
    let (far, s) := s.farReport p
    if own + far.1 = 0 then
      let t := s.closeRound ps (minWord far.2.1 low) far.2.2
      .next (if s.rootHere p then t.sendFar p [s.laneWord p 3, (t.newt? p).elim 0 (·.gvt)] else t)
    else .next (ps.foldl (init := s) fun s q => s.modNewt q fun n => { n with ps := mapVals (fun _ u => { u with report := none }) n.ps })

/-- R340: GVTREQ. -/
def execGvtreq (s : State) : Out :=
  let i := s.cur
  .next (s.needImpure fun s =>
    let p := (s.slot i).task.part
    (match s.newt? p with
    | some n => if n.act || n.pend then s.modNewt p fun n => { n with pend := true } else s.startRound p
    | none => s).complete i)

/-! Commit (R333). -/

/-- R335: the delivery order of two records. -/
def recLess (a b : Triple × LogEntry) : Bool := tripleLess a.1 b.1

def insertRec (r : Triple × LogEntry) : List (Triple × LogEntry) → List (Triple × LogEntry)
  | [] => [r]
  | x :: t => if recLess r x then r :: x :: t else x :: insertRec r t

/-- R30, R333: the event no longer owns what it launched. -/
def State.disown (s : State) (p a e : Nat) : State :=
  let o : Option Owner := some { agent := a, entry := e }
  let free (k : Packet) : Packet := if k.owner = o then { k with owner := none } else k
  let s := s.modSk fun k => { k with
    graphs := mapVals (fun _ g => if g.part = p && g.owner = o then { g with owner := none } else g) k.graphs }
  s.modDisp fun d => { d with
    launches := mapVals (fun _ v => if v.part = p then { v with pkt := free v.pkt } else v) d.launches
    queues := mapVals (fun _ q => if q.part = p then { q with buf := q.buf.map free, spill := q.spill.map free } else q) d.queues }

/-- R333: the records of a committed event go to their rings. -/
def State.commitLog (s : State) (p a : Nat) (e : NEvent) : State :=
  e.log.foldl (init := s) fun s l => match l with
    | .send .. => s
    | .irrev _ _ _ r _ _ =>
      (s.modAgent p a fun g => { g with owed := g.owed + 1 }).modNewt p fun n => match get? n.rings r with
        | some v => { n with rings := put n.rings r { v with recs := insertRec (e.triple, l) v.recs } }
        | none => n

/-- R328, R333: of one agent's processed events those with the entry numbers `nums` commit. -/
def State.commitAgent (s : State) (p a : Nat) (nums : List Nat) : State :=
  match s.agent? p a with
  | none => s
  | some g => (g.events.filter fun e => e.st.isDone && nums.contains e.num).foldl (init := s) fun s e =>
      let s := (s.commitLog p a e).disown p a e.num
      s.modAgent p a fun g =>
        let rest := g.events.filter fun f => f.num ≠ e.num
        { g with events := rest, ccom := ((rest.find? (·.st.undoable)).map (·.ccur0)).getD g.ccur }

/-- R338: W after a round's commit. -/
def State.setWindow (s : State) (p : Nat) : State :=
  match s.newt? p with
  | none => s
  | some n =>
    let l := n.agents.foldl (fun x a => maxWord x a.2.lvt) 0
    let w : Word :=
      if 7 * n.pool < 8 * n.used then
        if l ≤ n.gvt then 0 else BitVec.ofNat 64 (min n.w.toNat (l.toNat - n.gvt.toNat) / 2)
      else if 2 * n.used < n.pool then n.w0
      else n.w
    (s.modNewt p fun n => { n with w := w }).wakeAgents p

/-- R333: stack `st` commits what the round's close found processed; after the last stack the window follows. -/
def execCommit (p st : Nat) (s : State) : Out :=
  match s.newt? p with
  | none => .refused (.notEnabled "COMMIT")
  | some n => match get? n.commitM st with
    | none => .refused (.notEnabled "COMMIT")
    | some nums =>
      let mine := (n.agents.filter fun a => a.2.home = st).map (·.1)
      let s := mine.foldl (init := s) fun s a => s.commitAgent p a nums
      let left := del n.commitM st
      let s := s.modNewt p fun n => { n with commitM := left }
      .next (if left.isEmpty then s.setWindow p else s)

/-! Delivery rings (R335 to R337). -/

def Ring.statusWord (r : Ring) : Word :=
  BitVec.ofNat 64 ((if r.stall then 2 ^ 63 else 0) + r.nstall * 2 ^ 32 + r.ndel.toNat)

/-- R337: the ring changes, and its status word is written. -/
def State.setRing (s : State) (p n : Nat) (r : Ring) : State :=
  (s.modNewt p fun v => { v with rings := put v.rings n r }).engDrop (Eng.sys p) r.statwa (wordBytes r.statusWord)

/-- R336: the ring with CIDX as the home stack reads it now. -/
def State.readCidx (s : State) (p : Nat) (r : Ring) : Ring × State :=
  match s.sysRead p r.cidxa 8 with
  | (.ok bs, s) => ({ r with cidx := (bytesWord bs).setWidth 32 }, s)
  | (.error _, s) => (r, s)

def Ring.full (r : Ring) : Bool := decide ((r.p - r.cidx).toNat = 2 ^ r.rsz)

/-- R335, R336: the next committed record of ring `r` is written, or the ring begins to stall. -/
def execRingDelivery (p r : Nat) (s : State) : Out :=
  match s.newt? p with
  | none => .refused (.notEnabled "RING_DELIVERY")
  | some n => match get? n.rings r with
    | none => .refused (.notEnabled "RING_DELIVERY")
    | some v => match v.recs with
      | [] => .refused (.notEnabled "RING_DELIVERY")
      | (_, x) :: rest =>
        if v.stall || !v.en || !n.commitM.isEmpty || !s.partRuns p then .refused (.notEnabled "RING_DELIVERY")
        else
          let (v, s) := if v.full then s.readCidx p v else (v, s)
          if v.full then
            let v := { v with stall := true, nstall := min 0x7FFFFFFF (v.nstall + 1), pollAt := s.dclk + 256 }
            .next ((s.setRing p r v).hostEvent 3 2 p r)
          else
            let s := s.engDrop (Eng.sys p) (v.base + BitVec.ofNat 64 (64 * (v.p.toNat % 2 ^ v.rsz))) x.bytes
            let s := s.engDrop (Eng.sys p) v.pidxa (wordBytes ((v.p + 1).setWidth 64))
            let ag : Nat := match x with
              | .irrev _ _ _ _ a _ => a
              | .send _ m => m.snd
            let s := s.modAgent p ag fun g => { g with owed := g.owed - 1 }
            .next (s.setRing p r { v with p := v.p + 1, ndel := v.ndel + 1, recs := rest })

/-- R336: a stalled ring rereads its consumer index. -/
def execRingCidxPoll (p r : Nat) (s : State) : Out :=
  match s.newt? p with
  | none => .refused (.notEnabled "RING_CIDX_POLL")
  | some n => match get? n.rings r with
    | none => .refused (.notEnabled "RING_CIDX_POLL")
    | some v =>
      if !v.stall || s.dclk < v.pollAt || !s.partRuns p then .refused (.notEnabled "RING_CIDX_POLL")
      else
        let (v, s) := s.readCidx p v
        if v.full then .next (s.modNewt p fun n => { n with rings := put n.rings r { v with pollAt := s.dclk + 256 } })
        else .next (s.setRing p r { v with stall := false })

end Sys2Proof.Machine
end

