-- ==== Sys2Proof/Machine/Sfn.lean ====
section
/-!
DEFINITION. The special functions (R142, R143). Each result is the exact function value rounded to nearest, ties to even. The values
that can be exact or tie are computed exactly; every other value is computed in fixed point with 320 fraction bits, far past what
decides the rounding of a 24-bit significand.
-/

namespace Sys2Proof.Machine

/-- The fraction bits of the fixed-point numbers. -/
def fxBits : Nat := 320

def fxOne : Nat := 2 ^ fxBits

/-- ln 2 and π, times 2^320, rounded down. -/
def fxLn2 : Nat := 0xb17217f7d1cf79abc9e3b39803f2f6af40f343267298b62d8a0d175b8baafa2be7b876206debac98

def fxPi : Nat := 0x3243f6a8885a308d313198a2e03707344a4093822299f31d0082efa98ec4e6c89452821e638d01378

/-- The sum of y^k / k! from the term `term` on: the exponential series. -/
def expSeries (y : Nat) : Nat → Nat → Nat → Nat
  | 0, _, _ => 0
  | fuel + 1, k, term => term + expSeries y fuel (k + 1) (term * y / fxOne / (k + 1))

/-- e^y for y in [0, 1), in fixed point. -/
def fxExp (y : Nat) : Nat := expSeries y 80 0 fxOne

/-- The sum of z^(2k+1) / (2k+1): the series of atanh. -/
def atanhSeries (z2 : Nat) : Nat → Nat → Nat → Nat
  | 0, _, _ => 0
  | fuel + 1, k, pow => pow / (2 * k + 1) + atanhSeries z2 fuel (k + 1) (pow * z2 / fxOne)

/-- ln of n / d for n / d in [1, 2), in fixed point. -/
def fxLn (n d : Nat) : Nat :=
  let z := (n - d) * fxOne / (n + d)
  2 * atanhSeries (z * z / fxOne) 110 0 z

/-- The alternating series of cos (first term 1, k = 0) and sin (first term y, k = 1), in fixed point. -/
def trigSeries (y2 : Nat) : Nat → Nat → Nat → Int
  | 0, _, _ => 0
  | fuel + 1, k, term => (term : Int) - trigSeries y2 fuel (k + 2) (term * y2 / fxOne / ((k + 1) * (k + 2)))

/-- sin(π n / d) and cos(π n / d) for 0 ≤ n / d ≤ 1/2, in fixed point. -/
def fxSinPi (n d : Nat) : Nat :=
  let y := fxPi * n / d
  (trigSeries (y * y / fxOne) 60 1 y).toNat

def fxCosPi (n d : Nat) : Nat :=
  let y := fxPi * n / d
  (trigSeries (y * y / fxOne) 60 0 fxOne).toNat

/-- A fixed-point number times 2^k as a value. -/
def fxVal (neg : Bool) (m : Nat) (k : Int) : Val := .fin neg m 1 (k - (fxBits : Int))

/-- 2^x for the finite x = (-1)^s n/d: a mantissa in fixed point and a power of two. -/
def exp2Parts (s : Bool) (n d : Nat) : Nat × Int :=
  let i := n / d
  let r := n % d
  if s then
    if r = 0 then (fxOne, -(i : Int)) else (fxExp ((d - r) * fxLn2 / d), -(i : Int) - 1)
  else (fxExp (r * fxLn2 / d), (i : Int))

/-- e^x for the finite x = (-1)^s n/d. -/
def expParts (s : Bool) (n d : Nat) : Nat × Int :=
  let x := n * fxOne / d
  let i := x / fxLn2
  let r := x % fxLn2
  if s then (if r = 0 then (fxOne, -(i : Int)) else (fxExp (fxLn2 - r), -(i : Int) - 1)) else (fxExp r, (i : Int))

/-- e^x as a value; far outside every format's range the end is given at once. -/
def expVal (s : Bool) (n d : Nat) : Val :=
  if n = 0 then .fin false 1 1 0
  else if 400 * d ≤ n then (if s then .fin false 1 1 (-400) else .fin false 1 1 400)
  else let p := expParts s n d; fxVal false p.1 p.2

def exp2Val (s : Bool) (n d : Nat) : Val :=
  if 400 * d ≤ n then (if s then .fin false 1 1 (-400) else .fin false 1 1 400)
  else let p := exp2Parts s n d; fxVal false p.1 p.2

/-- log2 of n / d > 0 (`toLn` false), or ln (`toLn` true). -/
def logVal (toLn : Bool) (n d : Nat) : Val :=
  let k := log2Ratio n d
  -- n / d = 2^k * a / b with a / b in [1, 2)
  let (a, b) := if 0 ≤ k then (n, d * 2 ^ k.toNat) else (n * 2 ^ (-k).toNat, d)
  let f := fxLn a b
  let t : Int := if toLn then k * (fxLn2 : Int) + (f : Int) else k * (fxOne : Int) + ((f * fxOne / fxLn2 : Nat) : Int)
  if t = 0 then .zero false else fxVal (decide (t < 0)) t.natAbs 0

/-- The square root of n / d, in fixed point with a last bit that is set when the root is not exact. -/
def sqrtVal (n d : Nat) : Val :=
  let k := log2Ratio n d
  let h : Int := 2 * fxBits - 2 * (k / 2)
  let x := if 0 ≤ h then n * 2 ^ h.toNat / d else n / (d * 2 ^ (-h).toNat)
  let exact : Bool := if 0 ≤ h then decide (n * 2 ^ h.toNat % d = 0) else decide (n % (d * 2 ^ (-h).toNat) = 0)
  let r := Nat.sqrt x
  let m := if exact && r * r = x then 2 * r else 2 * r + 1
  .fin false m 1 (k / 2 - (fxBits : Int) - 1)

/-- tanh of the magnitude n / d > 0. -/
def tanhVal (s : Bool) (n d : Nat) : Val :=
  if 200 * d ≤ n then .fin s (2 ^ 100 - 1) 1 (-100)
  else
    -- (1 - e^(-2x)) / (1 + e^(-2x))
    let p := expParts true (2 * n) d
    let e := p.1 / 2 ^ (-p.2).toNat
    let q := p.1 % 2 ^ (-p.2).toNat
    let _ := q
    .fin s (fxOne - e) (fxOne + e) 0

/-- The logistic function of x = (-1)^s n/d. -/
def sigmVal (s : Bool) (n d : Nat) : Val :=
  if n = 0 then .fin false 1 1 (-1)
  else if 400 * d ≤ n then (if s then .fin false 1 1 (-400) else .fin false (2 ^ 100 - 1) 1 (-100))
  else
    -- e^-|x| = m * 2^k with k ≤ 0
    let p := expParts true n d
    let one := fxOne * 2 ^ (-p.2).toNat
    if s then .fin false p.1 (one + p.1) 0 else .fin false one (one + p.1) 0

/-- sin(πx) or cos(πx) for x = (-1)^s n/d. -/
def trigVal (cos s : Bool) (n d : Nat) : Val :=
  -- x modulo 2, in halves: q quarters of a turn and a rest below 1/2
  let m := n % (2 * d)
  let q := 2 * m / d
  let r := 2 * m % d
  if r = 0 then
    let sv : Int := match q with | 0 => 0 | 1 => 1 | 2 => 0 | _ => -1
    let cv : Int := match q with | 0 => 1 | 1 => 0 | 2 => -1 | _ => 0
    let zero : Val := .zero (Config.trigZeroNeg cos s (2 * n / d))
    if cos then (if cv = 0 then zero else .ofInt cv)
    else if sv = 0 then zero else .ofInt (if s then -sv else sv)
  else
    let a := fxSinPi r (2 * d)
    let b := fxCosPi r (2 * d)
    let (sv, sn, cv, cn) := match q with
      | 0 => (a, false, b, false)
      | 1 => (b, false, a, true)
      | 2 => (a, true, b, true)
      | _ => (b, true, a, false)
    if cos then fxVal cn cv 0 else fxVal (sn != s) sv 0

/-- R142, R143: the exact value (or the special one) of a special function of a value that is not NaN. The spec states no sign
for the exact zeros of sin(πx) and cos(πx) at non-zero x: it is a constant without a body (log 20). -/
def sfnValue (fn : SfnOp) (v : Val) : Val :=
  match v with
  | .nan => .nan
  | .inf s => match fn with
    | .exp2 | .exp => if s then .zero false else .inf false
    | .log2 | .log | .sqrt => if s then .nan else .inf false
    | .rcp => .zero s
    | .rsqrt => if s then .nan else .zero false
    | .tanh => .fin s 1 1 0
    | .sigm => if s then .zero false else .fin false 1 1 0
    | .sinpi | .cospi => .nan
  | .fin s n d e =>
    let (a, b) := ratio n d e
    if n = 0 then match fn with
      | .log2 | .log => .inf true
      | .rcp | .rsqrt => .inf s
      | .sqrt | .sinpi | .tanh => .zero s
      | .exp2 | .exp | .cospi => .fin false 1 1 0
      | .sigm => .fin false 1 1 (-1)
    else match fn with
      | .exp2 => exp2Val s a b
      | .exp => expVal s a b
      | .log2 => if s then .nan else logVal false a b
      | .log => if s then .nan else logVal true a b
      | .rcp => .fin s b a 0
      | .sqrt => if s then .nan else sqrtVal a b
      | .rsqrt => if s then .nan else sqrtVal b a
      | .sinpi => trigVal false s a b
      | .cospi => trigVal true s a b
      | .tanh => tanhVal s a b
      | .sigm => sigmVal s a b

end Sys2Proof.Machine
end

