-- ==== Sys2Proof/Machine/Vec.lean ====
section
/-!
DEFINITION. What the vector and special-function instructions compute of their operands (R125, R126, R134 to R143): lanes in, lanes
out, with the draws they take and the NaNs they count.
-/

namespace Sys2Proof.Machine

/-- Lane `i` of width `w` (R125). -/
def lane (w v i : Nat) : Nat := (v >>> (w * i)) % 2 ^ w

def lanes (w n v : Nat) : List Nat := (List.range n).map (lane w v)

def ofLanes (w : Nat) : List Nat → Nat
  | [] => 0
  | x :: t => x % 2 ^ w + 2 ^ w * ofLanes w t

/-- R126: the mask bit of lane `i`; a lane is active with no mask. -/
def laneActive (w : Nat) (mask : Option (BitVec 16)) (i : Nat) : Bool :=
  match mask with
  | none => true
  | some m =>
    let p := i % (256 / w)
    m.getLsbD (if w = 8 then p / 2 else p)

/-- What a vector instruction works on: its registers (256 or 2,048 bits), the mask, VCTL and the x operands taken at issue, its
core's tables and the shadow words. -/
structure VIn where
  long : Bool
  reg : BitVec 4 → Nat
  mask : Option (BitVec 16)
  vctl : BitVec 16
  xa : Word
  xb : Word
  kfa : BitVec 16
  kfo : BitVec 16
  dt : Nat → Table
  draws : List (BitVec 32)

/-- What it gives: a vector or a scalar result and the NaNs counted; or an invalid format word with its position. -/
inductive VOut where
  | vec (v : Nat) (nans : Nat)
  | scalar (x : Word)
  | bad (word : BitVec 16) (pos : Nat)
deriving DecidableEq, Repr

def VIn.bits (v : VIn) : Nat := if v.long then 2048 else 256

def VIn.count (v : VIn) (w : Nat) : Nat := v.bits / w

def VIn.rm (v : VIn) : Nat := fld v.vctl 11 10

def VIn.nz (v : VIn) : Bool := v.vctl.getLsbD 9

/-- R138: the first lane that VINS and VMOVX name in segment SEG. -/
def VIn.seg (v : VIn) (w : Nat) : Nat := if v.long then fld v.vctl 15 13 * (256 / w) else 0

/-- R134: the format of a floating lane type. -/
def vtFmt : VType → FloatFmt
  | .f16 => fp16
  | .f32 => fp32
  | _ => bf16

def vtSigned : VType → Bool
  | .ns => false
  | _ => true

/-- An integer lane's value. -/
def intLane (signed : Bool) (w x : Nat) : Int :=
  if signed && x.testBit (w - 1) then (x : Int) - (2 ^ w : Nat) else (x : Int)

/-- R135: an exact integer result wraps or saturates to `w` bits. -/
def vtFit (t : VType) (w : Nat) (r : Int) : Nat :=
  let wrap (i : Int) : Nat := (i % (2 ^ w : Nat)).toNat
  match t with
  | .is => wrap (Max.max (-(2 ^ (w - 1) : Nat)) (Min.min ((2 ^ (w - 1) : Nat) - 1) r))
  | .ns => wrap (Max.max 0 (Min.min ((2 ^ w : Nat) - 1) r))
  | _ => wrap r

/-- The active flags of `n` lanes. -/
def activeList (w : Nat) (mask : Option (BitVec 16)) (n : Nat) : List Bool := (List.range n).map (laneActive w mask)

/-- R116, R135: how many draws a lanewise floating instruction takes: one for each active lane in mode 3. -/
def lanewiseDraws (w : Nat) (t : VType) (mask : Option (BitVec 16)) (vctl : BitVec 16) (n : Nat) : Nat :=
  if t.isFloat && fld vctl 11 10 = 3 then ((activeList w mask n).filter id).length else 0

/-- Lanes written where active; each active lane takes its draw in order; the NaNs it counts are added. -/
def overLanes (drawing : Bool) (f : Nat → Nat → Nat × Nat) : List Bool → List Nat → List (BitVec 32) → Nat → List Nat × Nat
  | [], _, _, _ => ([], 0)
  | a :: as_, old, ds, i =>
    let o := old.headD 0
    if a then
      let u := if drawing then (ds.headD 0).toNat else 0
      let r := f i u
      let rest := overLanes drawing f as_ (old.drop 1) (if drawing then ds.drop 1 else ds) (i + 1)
      (r.1 :: rest.1, r.2 + rest.2)
    else
      let rest := overLanes drawing f as_ (old.drop 1) ds (i + 1)
      (o :: rest.1, rest.2)

/-- A lanewise result: the new register, with inactive lanes of `vd` kept. -/
def VIn.lanewise (v : VIn) (w : Nat) (drawing : Bool) (vd : BitVec 4) (f : Nat → Nat → Nat × Nat) : VOut :=
  let n := v.count w
  let r := overLanes drawing f (activeList w v.mask n) (lanes w n (v.reg vd)) v.draws 0
  .vec (ofLanes w r.1) r.2

/-- R118: a NaN that an operation makes of operands that are not NaN counts as +0 in NaN-as-zero mode. -/
def madeNan (nz : Bool) (r : Val) : Val × Nat := if nz && r.isNan then (.zero false, 1) else (r, 0)

/-- R135: one floating operation, with the NaNs counted. -/
def floatOp2 (op : Val → Val → Val) (nz : Bool) (a b : Val) : Val × Nat :=
  let x := nanAsZero nz a
  let y := nanAsZero nz b
  let r := madeNan nz (op x.1 y.1)
  (r.1, x.2 + y.2 + r.2)

def floatFma (nz : Bool) (a b c : Val) : Val × Nat :=
  let p := floatOp2 Val.mul nz a b
  let z := nanAsZero nz c
  let r := madeNan nz (p.1.add z.1)
  (r.1, p.2 + z.2 + r.2)

/-- R135: an instruction of two operands. -/
def VIn.arith2 (v : VIn) (w : Nat) (t : VType) (vd va vb : BitVec 4) (fop : Val → Val → Val) (iop : Int → Int → Int) : VOut :=
  let a := v.reg va
  let b := v.reg vb
  if t.isFloat then
    let f := vtFmt t
    v.lanewise w (v.rm = 3) vd fun i u =>
      let r := floatOp2 fop v.nz (f.decode (lane w a i)) (f.decode (lane w b i))
      (f.encode v.rm u r.1, r.2)
  else
    v.lanewise w false vd fun i _ =>
      (vtFit t w (iop (intLane (vtSigned t) w (lane w a i)) (intLane (vtSigned t) w (lane w b i))), 0)

/-- R135: VFMA. -/
def VIn.fma (v : VIn) (w : Nat) (t : VType) (vd va vb vc : BitVec 4) : VOut :=
  let a := v.reg va
  let b := v.reg vb
  let c := v.reg vc
  if t.isFloat then
    let f := vtFmt t
    v.lanewise w (v.rm = 3) vd fun i u =>
      let r := floatFma v.nz (f.decode (lane w a i)) (f.decode (lane w b i)) (f.decode (lane w c i))
      (f.encode v.rm u r.1, r.2)
  else
    v.lanewise w false vd fun i _ =>
      let g (x : Nat) : Int := intLane (vtSigned t) w (lane w x i)
      (vtFit t w (g a * g b + g c), 0)

/-- R135: VABS. -/
def VIn.absv (v : VIn) (w : Nat) (t : VType) (vd va : BitVec 4) : VOut :=
  let a := v.reg va
  if t.isFloat then
    let f := vtFmt t
    v.lanewise w (v.rm = 3) vd fun i u =>
      let x := nanAsZero v.nz (f.decode (lane w a i))
      (f.encode v.rm u x.1.abs, x.2)
  else
    v.lanewise w false vd fun i _ => (vtFit t w ((intLane true w (lane w a i)).natAbs : Int), 0)

/-- R136: bits combined in the active lanes. -/
def VIn.bitwise (v : VIn) (w : Nat) (vd va vb : BitVec 4) (f : Nat → Nat → Nat) : VOut :=
  let a := v.reg va
  let b := v.reg vb
  v.lanewise w false vd fun i _ => (f (lane w a i) (lane w b i) % 2 ^ w, 0)

/-- The shift count of a lane: its low log2(w) bits (R136). -/
def shiftCount (w x : Nat) : Nat := x % w

/-- R137: whether the condition holds of two comparable values. -/
def cmpHolds (c : CmpCond) (lt eq nan : Bool) : Bool :=
  match c with
  | .eq => !nan && eq
  | .lt => !nan && lt
  | .le => !nan && (lt || eq)
  | .ne => nan || !eq

/-- R137: VCMP. -/
def VIn.cmp (v : VIn) (w : Nat) (vd va vb : BitVec 4) (c : CmpCond) (k : CmpKind) : VOut :=
  let a := v.reg va
  let b := v.reg vb
  let ones := 2 ^ w - 1
  let int (sg : Bool) : VOut := v.lanewise w false vd fun i _ =>
    let x := intLane sg w (lane w a i)
    let y := intLane sg w (lane w b i)
    (if cmpHolds c (decide (x < y)) (decide (x = y)) false then ones else 0, 0)
  let flt (f : FloatFmt) : VOut := v.lanewise w false vd fun i _ =>
    let x := nanAsZero v.nz (f.decode (lane w a i))
    let y := nanAsZero v.nz (f.decode (lane w b i))
    (if cmpHolds c (x.1.lt y.1) (x.1.eq y.1) (x.1.isNan || y.1.isNan) then ones else 0, x.2 + y.2)
  match k with
  | .s => int true
  | .n => int false
  | .fl => flt (if w = 16 then bf16 else fp32)
  | .f16 => flt fp16

/-- R137: VSEL. -/
def VIn.sel (v : VIn) (w : Nat) (vd va vb : BitVec 4) : VOut :=
  let a := v.reg va
  let b := v.reg vb
  let d := v.reg vd
  v.lanewise w false vd fun i _ => (if lane w d i ≠ 0 then lane w a i else lane w b i, 0)

/-- R138: VINS. -/
def VIn.ins (v : VIn) (w : Nat) (vd : BitVec 4) (n : Nat) : VOut :=
  let j := v.seg w + n
  let d := lanes w (v.count w) (v.reg vd)
  .vec (ofLanes w (if laneActive w v.mask j then setAt d j (fld v.xa (w - 1) 0) else d)) 0

/-- R138: VMOVX. -/
def VIn.movx (v : VIn) (w : Nat) (va : BitVec 4) (n : Nat) (sx : Bool) : VOut :=
  let f := lane w (v.reg va) (v.seg w + n)
  .scalar (if sx then sextNat w f else BitVec.ofNat 64 f)

/-- R139: VPERM. -/
def VIn.perm (v : VIn) (w : Nat) (vd va vb : BitVec 4) : VOut :=
  let n := v.count w
  let a := v.reg va
  let b := v.reg vb
  v.lanewise w false vd fun i _ => (lane w a (lane w b i % n), 0)

/-- R140: one level of the tree. -/
def redLevel {α : Type} (f : α → α → List (BitVec 32) → α × List (BitVec 32) × Nat) : List α → List (BitVec 32) → List α × List (BitVec 32) × Nat
  | a :: b :: t, ds =>
    let r := f a b ds
    let rest := redLevel f t r.2.1
    (r.1 :: rest.1, rest.2.1, r.2.2 + rest.2.2)
  | l, ds => (l, ds, 0)

/-- R140: the whole tree. -/
def redTree {α : Type} (f : α → α → List (BitVec 32) → α × List (BitVec 32) × Nat) : Nat → List α → List (BitVec 32) → List α × Nat
  | 0, l, _ => (l, 0)
  | fuel + 1, l, ds =>
    if l.length ≤ 1 then (l, 0)
    else
      let r := redLevel f l ds
      let rest := redTree f fuel r.1 r.2.1
      (rest.1, r.2.2 + rest.2)

/-- R140: VRED. -/
def VIn.red (v : VIn) (w : Nat) (va : BitVec 4) (op : RedOp) (t : VType) : VOut :=
  let n := v.count w
  let a := v.reg va
  let xs := ((List.range n).filter (laneActive w v.mask)).map (lane w a)
  if t.isFloat then
    let f := vtFmt t
    let leaf := xs.map fun x => nanAsZero v.nz (f.decode x)
    let nans := (leaf.map (·.2)).sum
    let g (x y : Val) : Val := match op with
      | .min => x.min y
      | .max => x.max y
      | _ => x.add y
    let step (x y : Val) (ds : List (BitVec 32)) : Val × List (BitVec 32) × Nat :=
      let r := madeNan v.nz (g x y)
      let u := if v.rm = 3 then (ds.headD 0).toNat else 0
      (f.decode (f.encode v.rm u r.1), if v.rm = 3 then ds.drop 1 else ds, r.2)
    let r := redTree step 9 (leaf.map (·.1)) v.draws
    let dflt : Val := match op with | .min => .inf false | .max => .inf true | _ => .zero false
    .vec (f.encode 0 0 (r.1.headD dflt)) (nans + r.2)
  else
    let is := xs.map (intLane (vtSigned t) w)
    let top : Int := if (vtSigned t) then (2 ^ (w - 1) : Nat) - 1 else (2 ^ w : Nat) - 1
    let bot : Int := if (vtSigned t) then -(2 ^ (w - 1) : Nat) else 0
    let r : Nat := match op with
      | .add => vtFit t w is.sum
      | .min => vtFit t w (is.foldl Min.min top)
      | .max => vtFit t w (is.foldl Max.max bot)
      | .and => xs.foldl (· &&& ·) (2 ^ w - 1)
      | .or => xs.foldl (· ||| ·) 0
      | .xor => xs.foldl (· ^^^ ·) 0
    .vec r 0

/-- R140: how many draws a VRED takes: one for each Op of the tree. -/
def redDraws (w : Nat) (t : VType) (mask : Option (BitVec 16)) (vctl : BitVec 16) (n : Nat) : Nat :=
  lanewiseDraws w t mask vctl n - 1

/-- R141: which conversion. -/
inductive ConvKind where
  | dec | enc | cvt
deriving DecidableEq, Repr

/-- R141: the format words that a conversion uses; `x0` when its vb field names x0. -/
def convWords (x0 : Bool) (xb : Word) (kfa kfo : BitVec 16) : BitVec 16 × BitVec 16 :=
  if x0 then (kfa, kfo) else (BitVec.ofNat 16 (fld xb 15 0), BitVec.ofNat 16 (fld xb 31 16))

/-- R109, R141: the two words checked: the parsed words, or the offending word and its position. -/
def convCheck (k : ConvKind) (x0 : Bool) (ws : BitVec 16 × BitVec 16) : Except (BitVec 16 × Nat) (Fmt × Fmt) :=
  match Fmt.parse ws.1 with
  | none => .error (ws.1, 0)
  | some fs =>
    if fs.sk ≠ 0 && (k ≠ .dec || x0) then .error (ws.1, 0)
    else match Fmt.parse ws.2 with
      | none => .error (ws.2, 1)
      | some fd => if fd.sk ≠ 0 && (k ≠ .enc || x0) then .error (ws.2, 1) else .ok (fs, fd)

/-- R141: the elements that a conversion of `bits` bits makes. -/
def convCount (bits : Nat) (fs fd : Fmt) : Nat := bits / Nat.max fs.elem.width fd.elem.width

/-- R141: the elements converted one by one, each taking its draw. -/
def convElems (fs fd : Fmt) (dt : Nat → Table) (step : Val → Val) (src : Nat) : Nat → Nat → List (BitVec 32) → List Nat × Nat
  | 0, _, _ => ([], 0)
  | fuel + 1, i, ds =>
    let v := step (fs.decode (dt fs.dt) (lane fs.elem.width src i))
    let z := nanAsZero fd.nz v
    let u := if fd.drawing then (ds.headD 0).toNat else 0
    let rest := convElems fs fd dt step src fuel (i + 1) (if fd.drawing then ds.drop 1 else ds)
    (fd.encode (dt fd.dt) u z.1 :: rest.1, z.2 + rest.2)

/-- R141: VDEC, VENC and VCVT; `x0` when vb names x0. -/
def VIn.conv (v : VIn) (k : ConvKind) (x0 : Bool) (va : BitVec 4) : VOut :=
  match convCheck k x0 (convWords x0 v.xb v.kfa v.kfo) with
  | .error e => .bad e.1 e.2
  | .ok (fs, fd) =>
    let step (x : Val) : Val := match k with
      | .dec => if fs.sk = 0 then x else x.scale (scaleField fs.sk v.xb)
      | .enc => if fd.sk = 0 then x else x.div (scaleField fd.sk v.xb)
      | .cvt => x
    let r := convElems fs fd v.dt step (v.reg va) (convCount v.bits fs fd) 0 v.draws
    .vec (ofLanes fd.elem.width r.1) r.2

/-- R142, R143: SFN. -/
def VIn.sfn (v : VIn) (w : Nat) (vd va : BitVec 4) (fn : SfnOp) (t : VType) : VOut :=
  let a := v.reg va
  let f := vtFmt t
  v.lanewise w false vd fun i _ =>
    let x := nanAsZero v.nz (f.decode (lane w a i))
    (f.encode 0 0 (sfnValue fn x.1), x.2)

/-- The result of a vector instruction (R135 to R143); none for an instruction that is not one. -/
def VIn.eval (v : VIn) (i : Instr) : Option VOut :=
  match i with
  | .vadd w vd va vb _ t => some (v.arith2 w.bits t vd va vb Val.add (· + ·))
  | .vsub w vd va vb _ t => some (v.arith2 w.bits t vd va vb (fun a b => a.add b.neg) (· - ·))
  | .vmul w vd va vb _ t => some (v.arith2 w.bits t vd va vb Val.mul (· * ·))
  | .vfma w vd va vb vc _ t => some (v.fma w.bits t vd va vb vc)
  | .vmin w vd va vb _ t => some (v.arith2 w.bits t vd va vb Val.min Min.min)
  | .vmax w vd va vb _ t => some (v.arith2 w.bits t vd va vb Val.max Max.max)
  | .vabs w vd va _ t => some (v.absv w.bits t vd va)
  | .vcmp w vd va vb _ c k => some (v.cmp w.bits vd va vb c k)
  | .vsel w vd va vb _ => some (v.sel w.bits vd va vb)
  | .vand w vd va vb _ => some (v.bitwise w.bits vd va vb (· &&& ·))
  | .vor w vd va vb _ => some (v.bitwise w.bits vd va vb (· ||| ·))
  | .vxor w vd va vb _ => some (v.bitwise w.bits vd va vb (· ^^^ ·))
  | .vshl w vd va vb _ => some (v.bitwise w.bits vd va vb fun a b => a <<< shiftCount w.bits b)
  | .vshr w vd va vb _ ar => some (v.bitwise w.bits vd va vb fun a b =>
      if ar then ((intLane true w.bits a >>> shiftCount w.bits b) % (2 ^ w.bits : Nat)).toNat else a >>> shiftCount w.bits b)
  | .vbcast w vd _ _ => some (v.lanewise w.bits false vd fun _ _ => (fld v.xa (w.bits - 1) 0, 0))
  | .vins w vd _ nl _ nh => some (v.ins w.bits vd (nl.toNat + 16 * nh.toNat))
  | .vmovx _ va nl nh sx szx => some (v.movx (vmovxWidth szx).bits va (nl.toNat + 16 * nh.toNat) sx)
  | .vidx w vd _ => some (v.lanewise w.bits false vd fun i _ => (i % 2 ^ w.bits, 0))
  | .vperm w vd va vb _ => some (v.perm w.bits vd va vb)
  | .vred w _ va op _ t => some (v.red w.bits va op t)
  | .vdec _ va xb => some (v.conv .dec (xb = 0) va)
  | .venc _ va xb => some (v.conv .enc (xb = 0) va)
  | .vcvt _ va xb => some (v.conv .cvt (xb = 0) va)
  | .sfn w vd va fn _ t => some (v.sfn w.bits vd va fn t)
  | _ => none

/-- All bits of the 256-bit lanes of width `w` that `f` chooses. -/
def laneBits (w : Nat) (f : Nat → Bool) : BitVec 256 :=
  BitVec.ofNat 256 (ofLanes w ((List.range (256 / w)).map fun i => if f i then 2 ^ w - 1 else 0))

/-- R126, R138, R140: the bits of its destination that a short-mode instruction writes: its active lanes, the one lane of VINS where the mask
lets it, and for VRED and the conversions the whole register. -/
def vecWrites (i : Instr) (mask : Option (BitVec 16)) : BitVec 256 :=
  let act (w : Width) : BitVec 256 := laneBits w.bits (laneActive w.bits mask)
  match i with
  | .vadd w .. | .vsub w .. | .vmul w .. | .vfma w .. | .vmin w .. | .vmax w .. | .vabs w .. | .vcmp w .. | .vsel w .. | .vand w ..
  | .vor w .. | .vxor w .. | .vshl w .. | .vshr w .. | .vbcast w .. | .vidx w .. | .vperm w .. | .sfn w .. => act w
  | .vins w _ _ nl _ nh => laneBits w.bits fun j => j = nl.toNat + 16 * nh.toNat && laneActive w.bits mask j
  | _ => BitVec.allOnes 256

end Sys2Proof.Machine
end

