-- ==== Sys2Proof/Machine/Vector.lean ====
section
/-!
DEFINITION. The vector and special-function pipes (R127 to R148): issue into the latch, the short-mode pipes, long mode with its windows,
queues and commands, and the vector loads and stores (R163).
-/

namespace Sys2Proof.Machine

/-! What a vector instruction names. -/

/-- The mask register that an instruction names. -/
def vecMask : Instr → Option (BitVec 3)
  | .vadd _ _ _ _ mk _ | .vsub _ _ _ _ mk _ | .vmul _ _ _ _ mk _ | .vfma _ _ _ _ _ mk _ | .vmin _ _ _ _ mk _ | .vmax _ _ _ _ mk _
  | .vabs _ _ _ mk _ | .vcmp _ _ _ _ mk _ _ | .vsel _ _ _ _ mk | .vand _ _ _ _ mk | .vor _ _ _ _ mk | .vxor _ _ _ _ mk
  | .vshl _ _ _ _ mk | .vshr _ _ _ _ mk _ | .vbcast _ _ _ mk | .vins _ _ _ _ mk _ | .vidx _ _ mk | .vperm _ _ _ _ mk
  | .vred _ _ _ _ mk _ | .sfn _ _ _ _ mk _ => mk
  | _ => none

/-- The vector register that an instruction writes. -/
def vecDest : Instr → BitVec 4
  | .vadd _ d _ _ _ _ | .vsub _ d _ _ _ _ | .vmul _ d _ _ _ _ | .vfma _ d _ _ _ _ _ | .vmin _ d _ _ _ _ | .vmax _ d _ _ _ _
  | .vabs _ d _ _ _ | .vcmp _ d _ _ _ _ _ | .vsel _ d _ _ _ | .vand _ d _ _ _ | .vor _ d _ _ _ | .vxor _ d _ _ _
  | .vshl _ d _ _ _ | .vshr _ d _ _ _ _ | .vbcast _ d _ _ | .vins _ d _ _ _ _ | .vidx _ d _ | .vperm _ d _ _ _
  | .vred _ d _ _ _ _ | .sfn _ d _ _ _ _ | .vdec d _ _ | .venc d _ _ | .vcvt d _ _ | .vld d _ _ _ | .vldx _ d _ _ _ _ => d
  | _ => 0

/-- The x register (x0 to x15) whose value VBCAST and VINS take. -/
def vecXa : Instr → BitVec 4
  | .vbcast _ _ xa _ | .vins _ _ xa _ _ _ => xa
  | _ => 0

/-- The x register (x0 to x15) that a conversion's vb field names. -/
def vecXb : Instr → BitVec 4
  | .vdec _ _ xb | .venc _ _ xb | .vcvt _ _ xb => xb
  | _ => 0

/-- R133: the core cycles that the pipe is busy. -/
def vecBusy : Instr → Nat
  | .vperm .. | .vred .. | .sfn .. => 4
  | _ => 2

/-- R133: the arithmetic cycles that a command holds the long-vector unit. -/
def lvBusy : Instr → Nat
  | .vperm .. | .vred .. | .sfn .. => 4
  | _ => 1

/-- R127: SFN uses the special-function pipe. -/
def usesSfn : Instr → Bool
  | .sfn .. => true
  | _ => false

/-- R141: which conversion an instruction is. -/
def convKind? : Instr → Option ConvKind
  | .vdec .. => some .dec
  | .venc .. => some .enc
  | .vcvt .. => some .cvt
  | _ => none

/-- R116, R135, R140, R141: how many draws the instruction takes on registers of `bits` bits. -/
def vecDraws (i : Instr) (mask : Option (BitVec 16)) (vctl : BitVec 16) (xb : Word) (kfa kfo : BitVec 16) (bits : Nat) : Nat :=
  let arith (w : Width) (t : VType) : Nat := lanewiseDraws w.bits t mask vctl (bits / w.bits)
  let conv (k : ConvKind) (x0 : Bool) : Nat :=
    match convCheck k x0 (convWords x0 xb kfa kfo) with
    | .ok (fs, fd) => if fd.drawing then convCount bits fs fd else 0
    | .error _ => 0
  match i with
  | .vadd w _ _ _ _ t | .vsub w _ _ _ _ t | .vmul w _ _ _ _ t | .vfma w _ _ _ _ _ t | .vmin w _ _ _ _ t | .vmax w _ _ _ _ t
  | .vabs w _ _ _ t => arith w t
  | .vred w _ _ _ _ t => redDraws w.bits t mask vctl (bits / w.bits)
  | .vdec _ _ x => conv .dec (x = 0)
  | .venc _ _ x => conv .enc (x = 0)
  | .vcvt _ _ x => conv .cvt (x = 0)
  | _ => 0

/-- R147: the instruction would make a stochastic draw. -/
def vecImpure (i : Instr) (vctl : BitVec 16) (xb : Word) (kfo : BitVec 16) : Bool :=
  let rm3 := fld vctl 11 10 = 3
  let conv (x : BitVec 4) : Bool := fld (convWords (x = 0) xb 0 kfo).2 11 10 = 3
  match i with
  | .vadd _ _ _ _ _ t | .vsub _ _ _ _ _ t | .vmul _ _ _ _ _ t | .vfma _ _ _ _ _ _ t | .vmin _ _ _ _ _ t | .vmax _ _ _ _ _ t
  | .vabs _ _ _ _ t | .vred _ _ _ _ _ t => rm3 && t.isFloat
  | .vdec _ _ x | .venc _ _ x | .vcvt _ _ x => conv x
  | _ => false

/-! Issue. -/

/-- R132: the slot is in long mode. -/
def Slot.longMode (sl : Slot) : Bool := sl.ctl.vctl.getLsbD 0

/-- R131: the next coprocessor ring entry of the core is free. -/
def CoreState.ringFree (c : CoreState) : Bool := (get? c.ring c.ringNext).isNone

/-- R131: the head of slot `i` takes the next ring entry. -/
def State.takeRing (s : State) (i : Nat) (mat : Bool := false) : Nat × State :=
  let k := i / 8
  let c := s.core k
  let sl := s.slot i
  let e : RingEntry :=
    { slot := i, task := sl.task.task, pc := sl.pc, busy := true, fault := false, order := c.ringCount, mat := mat }
  (c.ringNext, s.setCore k { c with
    ring := put c.ring c.ringNext e, ringNext := (c.ringNext + 1) % 64, ringCount := c.ringCount + 1 })

/-- The counter of a long-mode command. -/
def lvCnt : Instr → Option Cnt
  | .vld .. | .vldx .. => some .ld
  | .vst .. | .vstx .. => some .st
  | _ => none

/-- R129: a long-mode command enters the latch; that of a load or a store is counted. -/
def State.issueLong (s : State) (ins : Instr) (srcs : List Reg) (xa xb : Word) (d : Dst) : State :=
  let i := s.cur
  let sl := s.slot i
  let w := lvCnt ins
  let full : Bool := match w with
    | some c => decide (15 ≤ sl.cnt.get c)
    | none => false
  if sl.latch.isSome || full || !(s.core (i / 8)).ringFree then s.stallHead i
  else
    let (seq, s) := s.takeRing i
    let s := s.popPorts i srcs
    let s := match w with
      | some c => s.incCnt i c
      | none => s
    let l : Latch :=
      { instr := ins, xa := xa, xb := xb, mask := (match vecMask ins with
          | some m => s.mreg i m
          | none => 0), vctl := sl.ctl.vctl, dst := d, draws := [], pc := sl.pc, seq := seq, long := true, issued := s.dclk, sent := false
        res := none }
    (s.modSlot i fun sl => { sl with latch := some l, vbusy := sl.vbusy + 1 }).complete i

/-- R127, R129: a vector or special-function instruction issues. -/
def State.issueVec (s : State) (ins : Instr) (d : Dst) : State :=
  let i := s.cur
  let sl := s.slot i
  let xa := sl.readX ((vecXa ins).setWidth 5)
  let xb := sl.readX ((vecXb ins).setWidth 5)
  let mask := (vecMask ins).map fun m => s.mreg i m
  let bits := if sl.longMode then 2048 else 256
  let kfa := sl.task.kfa
  let kfo := sl.task.kfo
  let fmts : List Fmt := match convKind? ins with
    | some k => match convCheck k (vecXb ins = 0) (convWords (vecXb ins = 0) xb kfa kfo) with
      | .ok (fs, fd) => [fs, fd]
      | .error _ => []
    | none => []
  if sl.task.pure && vecImpure ins sl.ctl.vctl xb kfo then s.trapAt i .purity
  else if sl.longMode then
    if sl.latch.isSome || !(s.core (i / 8)).ringFree then s.stallHead i else (s.useTables i fmts).issueLong ins [] xa xb d
  else if sl.latch.isSome then s.stallHead i
  else
    let bad : Option (BitVec 16 × Nat) := match convKind? ins with
      | some k => match convCheck k (vecXb ins = 0) (convWords (vecXb ins = 0) xb kfa kfo) with
        | .error e => some e
        | .ok _ => none
      | none => none
    match bad with
    | some (w, pos) => s.badWord i ins w pos
    | none =>
      let (ds, s) := s.takeDraws (i / 8) (vecDraws ins mask sl.ctl.vctl xb kfa kfo bits)
      let l : Latch :=
        { instr := ins, xa := xa, xb := xb, mask := mask.getD 0, vctl := sl.ctl.vctl, dst := d, draws := ds, pc := sl.pc, seq := 0
          long := false, issued := s.dclk, sent := false, res := none }
      -- R83, R85: the word of a VMOVX to a port has its place in the outlet from its issue
      let s := match d with
        | .y n => if 28 ≤ n.toNat && n.toNat < 31 then s.pushHeld i (n.toNat - 28) else s
        | _ => s
      ((s.useTables i fmts).modSlot i fun sl => { sl with latch := some l }).complete i

/-- An instruction of vector registers only. -/
def State.vecOp (s : State) (ins : Instr) : Out := .next (s.issueVec ins (.x 0))

/-! The instructions (R133), each by its own name. -/

/-- R135: VADD. -/
def execVadd (w : Width) (vd va vb : BitVec 4) (mk : Option (BitVec 3)) (t : VType) (s : State) : Out := s.vecOp (.vadd w vd va vb mk t)

/-- R135: VSUB. -/
def execVsub (w : Width) (vd va vb : BitVec 4) (mk : Option (BitVec 3)) (t : VType) (s : State) : Out := s.vecOp (.vsub w vd va vb mk t)

/-- R135: VMUL. -/
def execVmul (w : Width) (vd va vb : BitVec 4) (mk : Option (BitVec 3)) (t : VType) (s : State) : Out := s.vecOp (.vmul w vd va vb mk t)

/-- R135: VFMA. -/
def execVfma (w : Width) (vd va vb vc : BitVec 4) (mk : Option (BitVec 3)) (t : VType) (s : State) : Out :=
  s.vecOp (.vfma w vd va vb vc mk t)

/-- R135: VMIN. -/
def execVmin (w : Width) (vd va vb : BitVec 4) (mk : Option (BitVec 3)) (t : VType) (s : State) : Out := s.vecOp (.vmin w vd va vb mk t)

/-- R135: VMAX. -/
def execVmax (w : Width) (vd va vb : BitVec 4) (mk : Option (BitVec 3)) (t : VType) (s : State) : Out := s.vecOp (.vmax w vd va vb mk t)

/-- R135: VABS. -/
def execVabs (w : Width) (vd va : BitVec 4) (mk : Option (BitVec 3)) (t : VType) (s : State) : Out := s.vecOp (.vabs w vd va mk t)

/-- R137: VCMP. -/
def execVcmp (w : Width) (vd va vb : BitVec 4) (mk : Option (BitVec 3)) (c : CmpCond) (k : CmpKind) (s : State) : Out :=
  s.vecOp (.vcmp w vd va vb mk c k)

/-- R137: VSEL. -/
def execVsel (w : Width) (vd va vb : BitVec 4) (mk : Option (BitVec 3)) (s : State) : Out := s.vecOp (.vsel w vd va vb mk)

/-- R136: VAND. -/
def execVand (w : Width) (vd va vb : BitVec 4) (mk : Option (BitVec 3)) (s : State) : Out := s.vecOp (.vand w vd va vb mk)

/-- R136: VOR. -/
def execVor (w : Width) (vd va vb : BitVec 4) (mk : Option (BitVec 3)) (s : State) : Out := s.vecOp (.vor w vd va vb mk)

/-- R136: VXOR. -/
def execVxor (w : Width) (vd va vb : BitVec 4) (mk : Option (BitVec 3)) (s : State) : Out := s.vecOp (.vxor w vd va vb mk)

/-- R136: VSHL. -/
def execVshl (w : Width) (vd va vb : BitVec 4) (mk : Option (BitVec 3)) (s : State) : Out := s.vecOp (.vshl w vd va vb mk)

/-- R136: VSHR. -/
def execVshr (w : Width) (vd va vb : BitVec 4) (mk : Option (BitVec 3)) (ar : Bool) (s : State) : Out := s.vecOp (.vshr w vd va vb mk ar)

/-- R138: VBCAST. -/
def execVbcast (w : Width) (vd xa : BitVec 4) (mk : Option (BitVec 3)) (s : State) : Out := s.vecOp (.vbcast w vd xa mk)

/-- R138: VINS. -/
def execVins (w : Width) (vd xa nl : BitVec 4) (mk : Option (BitVec 3)) (nh : BitVec 1) (s : State) : Out :=
  s.vecOp (.vins w vd xa nl mk nh)

/-- R138: VIDX. -/
def execVidx (w : Width) (vd : BitVec 4) (mk : Option (BitVec 3)) (s : State) : Out := s.vecOp (.vidx w vd mk)

/-- R139: VPERM. -/
def execVperm (w : Width) (vd va vb : BitVec 4) (mk : Option (BitVec 3)) (s : State) : Out := s.vecOp (.vperm w vd va vb mk)

/-- R140: VRED. -/
def execVred (w : Width) (vd va : BitVec 4) (op : RedOp) (mk : Option (BitVec 3)) (t : VType) (s : State) : Out :=
  s.vecOp (.vred w vd va op mk t)

/-- R141: VDEC. -/
def execVdec (vd va xb : BitVec 4) (s : State) : Out := s.vecOp (.vdec vd va xb)

/-- R141: VENC. -/
def execVenc (vd va xb : BitVec 4) (s : State) : Out := s.vecOp (.venc vd va xb)

/-- R141: VCVT. -/
def execVcvt (vd va xb : BitVec 4) (s : State) : Out := s.vecOp (.vcvt vd va xb)

/-- R142: SFN. -/
def execSfn (w : Width) (vd va : BitVec 4) (fn : SfnOp) (mk : Option (BitVec 3)) (t : VType) (s : State) : Out :=
  s.vecOp (.sfn w vd va fn mk t)

/-- R138: VMOVX. R85: in long mode a D that names a port takes ILLEGAL_OP. -/
def execVmovx (d : Reg) (va nl : BitVec 4) (nh : BitVec 1) (sx : Bool) (szx : BitVec 2) (s : State) : Out :=
  let i := s.cur
  let ins : Instr := .vmovx d va nl nh sx szx
  .next (if (s.slot i).longMode && (portOf d).isSome then s.headTrap i .illegalOp (encOps ((encode ins).getD ⟨0, 0, 0, 0⟩))
    else s.withRegs i [] [d] fun s => s.issueVec ins ((s.slot i).bind d))

/-! The vector loads and stores (R163). -/

/-- The pieces of VLD and VST. -/
def wholePieces (va : Word) : List (Word × Nat) := [(va, 32)]

/-- The pieces of VLDX and VSTX, one for each lane of registers of `bits` bits. -/
def lanePieces (base stride : Word) (w : Width) (bits : Nat) : List (Word × Nat) :=
  (laneAddrs base stride (bits / w.bits)).map fun a => (a, w.bits / 8)

/-- R163: 256 bytes at `va`, by the 128-byte lines they lie in; where `va` is not aligned, the one access that is refused for it. -/
def longPieces (acc : Acc) (va : Word) : Need × List (Word × Nat) :=
  if va.toNat % 256 = 0 then ({ acc := acc, align := 128, passed := true }, [(va, 128), (va + 128, 128)])
  else ({ acc := acc, align := 256, passed := true }, [(va, 256)])

/-- What a long-mode load or store asks for: what it needs, its pieces, hint and register. -/
def lvAccess (ins : Instr) (xa xb : Word) : Option (Need × List (Word × Nat) × Hint × BitVec 4) :=
  let ea (imm : BitVec 16) : Word := xa + imm.signExtend 64
  let whole (acc : Acc) (imm : BitVec 16) (h : Hint) (v : BitVec 4) : Need × List (Word × Nat) × Hint × BitVec 4 :=
    let x := longPieces acc (ea imm)
    (x.1, x.2, h, v)
  match ins with
  | .vld vd _ imm h => some (whole .r imm h vd)
  | .vst vd _ imm h => some (whole .w imm h vd)
  | .vldx w vd _ _ imm h => some ({ acc := .r, align := w.bits / 8, passed := true }, lanePieces (ea imm) xb w 2048, h, vd)
  | .vstx _ _ w vd imm h => some ({ acc := .w, align := w.bits / 8, passed := true }, lanePieces (ea imm) xb w 2048, h, vd)
  | _ => none

/-- R129, R163: a long-mode load or store issues. Its purity is checked here, exactly (R147, R283); every other fault comes late. -/
def State.issueLongMem (s : State) (ins : Instr) (srcs : List Reg) (xa xb : Word) : State :=
  let i := s.cur
  let bad : Option (Word × Nat) := match lvAccess ins xa xb with
    | some (q, pieces, _, _) => pieces.find? fun p => !s.pureCheck i q.acc.writes p.1 p.2
    | none => none
  match if (s.slot i).task.pure then bad else none with
  | some p => s.trapAt i .purity p.1
  | none => s.issueLong ins srcs xa xb (.x 0)

/-- R163: VLD. -/
def execVld (vd : BitVec 4) (a : Reg) (imm : BitVec 16) (h : Hint) (s : State) : Out :=
  .next (s.withRegs s.cur [a] [] fun s =>
    if (s.slot s.cur).longMode then s.issueLongMem (.vld vd a imm h) [a] (s.rv a) 0
    else s.issueAccess s.cur [a]
      { kind := .vload vd, need := { acc := .r, align := 32 }, pieces := wholePieces (s.ea a imm), hint := h })

/-- R163: VST. -/
def execVst (vd : BitVec 4) (a : Reg) (imm : BitVec 16) (h : Hint) (s : State) : Out :=
  .next (s.withRegs s.cur [a] [] fun s =>
    if (s.slot s.cur).longMode then s.issueLongMem (.vst vd a imm h) [a] (s.rv a) 0
    else s.issueAccess s.cur [a]
      { kind := .store (natBytes 32 (s.vreg s.cur vd).toNat), need := { acc := .w, align := 32 }, pieces := wholePieces (s.ea a imm)
        hint := h })

/-- R163: VLDX. -/
def execVldx (w : Width) (vd : BitVec 4) (a b : Reg) (imm : BitVec 16) (h : Hint) (s : State) : Out :=
  .next (s.withRegs s.cur [a, b] [] fun s =>
    if (s.slot s.cur).longMode then s.issueLongMem (.vldx w vd a b imm h) [a, b] (s.rv a) (s.rv b)
    else s.issueAccess s.cur [a, b]
      { kind := .vload vd, need := { acc := .r, align := w.bits / 8 }, pieces := lanePieces (s.ea a imm) (s.rv b) w 256, hint := h })

/-- R163: VSTX. -/
def execVstx (a b : Reg) (w : Width) (vd : BitVec 4) (imm : BitVec 16) (h : Hint) (s : State) : Out :=
  .next (s.withRegs s.cur [a, b] [] fun s =>
    if (s.slot s.cur).longMode then s.issueLongMem (.vstx a b w vd imm h) [a, b] (s.rv a) (s.rv b)
    else s.issueAccess s.cur [a, b]
      { kind := .store (natBytes 32 (s.vreg s.cur vd).toNat), need := { acc := .w, align := w.bits / 8 }
        pieces := lanePieces (s.ea a imm) (s.rv b) w 256, hint := h })

/-! The short-mode pipes (R67, R127). -/

/-- What a vector instruction of slot `i` works on. -/
def State.vecIn (s : State) (i : Nat) (l : Latch) (long : Bool) (reg : BitVec 4 → Nat) (vctl : BitVec 16) (ds : List (BitVec 32)) : VIn :=
  { long := long, reg := reg, mask := (vecMask l.instr).map fun _ => l.mask, vctl := vctl, xa := l.xa, xb := l.xb
    kfa := (s.slot i).task.kfa, kfo := (s.slot i).task.kfo, dt := fun t => s.table (i / 8) t, draws := ds }

/-- R67: entry `e` of the issue table gives the pipe to slot `sl`. -/
def tableGrants (e : Byte) (sfn : Bool) (sl : Nat) : Bool :=
  if sfn then !e.getLsbD 7 && fld e 6 4 = sl else !e.getLsbD 3 && fld e 2 0 = sl

/-- R67, R127: the latched instruction of slot `sl` of core `k` is given its pipe. -/
def execVectorGrant (k sl : Nat) (s : State) : Out :=
  let i := 8 * k + sl
  let c := s.core k
  match (s.slot i).latch with
  | none => .refused (.notEnabled "VECTOR_GRANT")
  | some l =>
    let sfn := usesSfn l.instr
    let free := if sfn then c.sfree else c.vfree
    if l.long || l.res.isSome || s.dclk < free || !s.octRuns (octetOf k) || !tableGrants (s.effEntry k (s.dclk % 32)) sfn sl then
      .refused (.notEnabled "VECTOR_GRANT")
    else
      let vctl := (s.slot i).ctl.vctl
      let need := vecDraws l.instr ((vecMask l.instr).map fun _ => l.mask) vctl l.xb (s.slot i).task.kfa (s.slot i).task.kfo 256
      let (more, s) := s.takeDraws k (need - l.draws.length)
      let v := s.vecIn i l false (fun n => (s.vreg i n).toNat) vctl (l.draws ++ more)
      let busy := vecBusy l.instr
      let none_ : VResult := { until_ := s.dclk + busy - 1, vw := none, lanes := vecWrites l.instr v.mask, xw := none, nans := 0 }
      let res : VResult := match v.eval l.instr with
        | some (.vec r n) => { none_ with vw := some (vecDest l.instr, BitVec.ofNat 256 r), nans := n }
        | some (.scalar x) => { none_ with xw := some (l.dst, x) }
        | _ => none_
      let s := s.modCore k fun c => if sfn then { c with sfree := s.dclk + busy } else { c with vfree := s.dclk + busy }
      .next (s.modSlot i fun sl => { sl with latch := some { l with res := some res } })

/-- R83, R127: a short-mode result is written to its x or y register; a port's word takes the place that it has held since its issue. -/
def State.writeHeld (s : State) (i : Nat) (d : Dst) (v : Word) : State :=
  match d with
  | .y n =>
    if 28 ≤ n.toNat && n.toNat < 31 then s.modCore (i / 8) fun c => { c with
      net := { c.net with
        outlet := c.net.outlet.map fun l => l.map fun x => if x = .hold i then .word v else x
        outAt := c.net.outAt.setIfInBounds (n.toNat - 28) s.dclk } }
    else s.writeDst i d v
  | _ => s.writeDst i d v

/-- R126, R127: the short-mode result is written, in the lanes that the instruction writes, at the end of the last busy core cycle. -/
def execVectorResult (k sl : Nat) (s : State) : Out :=
  let i := 8 * k + sl
  match (s.slot i).latch with
  | none => .refused (.notEnabled "VECTOR_RESULT")
  | some l => match l.res with
    | none => .refused (.notEnabled "VECTOR_RESULT")
    | some r =>
      if s.dclk < r.until_ then .refused (.notEnabled "VECTOR_RESULT")
      else
        let s := match r.vw with
          | some (d, v) => s.setVreg i d ((v &&& r.lanes) ||| (s.vreg i d &&& ~~~r.lanes))
          | none => s
        let s := match r.xw with
          | some (d, v) => s.writeHeld i d v
          | none => s
        .next ((s.addNan i r.nans).modSlot i fun sl => { sl with latch := none })

/-! Long mode (R128 to R131). -/

def LvWin.empty : LvWin := { holder := none, regs := Vector.replicate 16 0, queue := [] }

def State.win (s : State) (o w : Nat) : LvWin := look (s.oct o).wins w LvWin.empty

def State.setWin (s : State) (o w : Nat) (v : LvWin) : State := s.modOct o fun x => { x with wins := put x.wins w v }

/-- R128: the lowest-numbered free window of an octet. -/
def State.freeWindow (s : State) (o : Nat) : Option Nat :=
  (List.range 8).find? fun w => (s.win o w).holder.isNone

/-- R144: the slot's window is free. -/
def State.releaseWindow (s : State) (i : Nat) : State :=
  let o := octetOf (i / 8)
  match s.window? i with
  | some w => s.modOct o fun x => { x with wins := del x.wins w }
  | none => s

/-- R144: VMODE. -/
def execVmode (d : Reg) (m : Bool) (s : State) : Out :=
  let i := s.cur
  let o := octetOf (i / 8)
  .next (s.withRegs i [] [d] fun s =>
    let long (s : State) (b : Bool) : State := s.modSlot i fun sl => { sl with ctl := { sl.ctl with
      vctl := if b then sl.ctl.vctl ||| 1 else sl.ctl.vctl &&& ~~~(1 : BitVec 16) } }
    if m then
      if (s.slot i).longMode then s.writeDone i [] d 0
      else match s.freeWindow o with
        | none => s.writeDone i [] d 2
        | some w => (long (s.setWin o w { LvWin.empty with holder := some i }) true).writeDone i [] d 0
    else if (s.slot i).vbusy ≠ 0 then s.stallHead i
    else if (s.slot i).longMode then (long (s.releaseWindow i) false).writeDone i [] d 0
    else s.writeDone i [] d 0)

/-- R145: VFENCE. -/
def execVfence (s : State) : Out :=
  .next (if (s.slot s.cur).vbusy ≠ 0 then s.stallHead s.cur else s.complete s.cur)

/-- R131: a COPROC is raised for the slot. -/
def Slot.coprocRaised (sl : Slot) : Bool := sl.late.any fun t => match t with
  | .coproc .. | .engine .. => true
  | _ => false

/-- R146: VSTAT. -/
def execVstat (d : Reg) (s : State) : Out :=
  .next (s.compute [] d fun s =>
    let i := s.cur
    let sl := s.slot i
    let o := s.oct (octetOf (i / 8))
    let run : List Nat := match o.lvRun with
      | some r => if r.cmd.slot = i && !r.dead then [r.cmd.cmd.seq] else []
      | none => []
    let queued : List Nat := match s.window? i with
      | some w => (s.win (octetOf (i / 8)) w).queue.map fun q => q.cmd.seq
      | none => []
    let latched : List Nat := match sl.latch with
      | some l => if l.long && !l.sent then [l.seq] else []
      | none => []
    let b (x : Bool) (k : Nat) : Nat := if x then 2 ^ k else 0
    BitVec.ofNat 64 (((run ++ queued ++ latched).headD 0) * 2 ^ 10 + (run.length + queued.length) * 2 ^ 4
      + b sl.coprocRaised 1 + b sl.longMode 0))

/-- The command of window `w` that the unit runs counts among the eight that the window can hold (R128, R146). -/
def Octet.accepted (o : Octet) (w : Nat) : Nat :=
  (look o.wins w LvWin.empty).queue.length + (match o.lvRun with
    | some r => if r.win = w && !r.dead then 1 else 0
    | none => 0)

/-- R129: the long-mode command leaves the latch for its window's queue; a VMOVX stays until its value returns. On a replaying core commands leave
the queue only when they complete (R378). -/
def execLvCommandEnqueue (k sl : Nat) (s : State) : Out :=
  let i := 8 * k + sl
  let o := octetOf k
  match (s.slot i).latch, s.window? i with
  | some l, some w =>
    let v := s.win o w
    if !l.long || l.sent || (8 ≤ (s.oct o).accepted w && !s.replays k) then .refused (.notEnabled "LV_COMMAND_ENQUEUE")
    else
      let stays : Bool := match l.instr with
        | .vmovx .. => true
        | _ => false
      .next ((s.setWin o w { v with queue := v.queue ++ [{ slot := i, cmd := l }] }).modSlot i fun sl =>
        { sl with latch := if stays then some { l with sent := true } else none })
  | _, _ => .refused (.notEnabled "LV_COMMAND_ENQUEUE")

/-- R130: the next window with a command, from the one after the last served; a replaying core's commands are not started (R378). -/
def State.nextWindow (s : State) (o : Nat) : Option Nat :=
  ((List.range 8).map fun j => ((s.oct o).lvLast + 1 + j) % 8).find? fun w =>
    match (s.win o w).queue with
    | q :: _ => !s.replays (q.slot / 8)
    | [] => false

/-- R130: the long-vector unit starts the next window's oldest command, at an arithmetic-cycle boundary, before the turns of its core
cycle. -/
def execLvCommandStart (o : Nat) (s : State) : Out :=
  if s.dclk % 2 ≠ 0 || s.sched.begun || (s.oct o).lvRun.isSome || !s.octRuns o then .refused (.notEnabled "LV_COMMAND_START")
  else match s.nextWindow o with
    | none => .refused (.notEnabled "LV_COMMAND_START")
    | some w =>
      let v := s.win o w
      match v.queue with
      | [] => .refused (.notEnabled "LV_COMMAND_START")
      | q :: rest =>
        let run : LvRun :=
          { win := w, cmd := q, until_ := s.dclk + 2 * lvBusy q.cmd.instr - 1, src := v.regs.toList, dead := false }
        .next ((s.setWin o w { v with queue := rest }).modOct o fun x => { x with lvRun := some run, lvLast := w })

/-- R129: the command is complete: VBUSY and its counter fall. -/
def State.lvDone (s : State) (i : Nat) (ins : Instr) : State :=
  let s := s.modSlot i fun sl => { sl with vbusy := sl.vbusy - 1 }
  match lvCnt ins with
  | some c => s.decCnt i c
  | none => s.settle i

/-- A long-mode command in the latch is discarded. -/
def State.dropLvLatch (s : State) (i : Nat) : State :=
  match (s.slot i).latch with
  | some l =>
    if l.long && l.sent then s.modSlot i fun sl => { sl with latch := none }
    else if l.long then
      ((s.modCore (i / 8) fun c => { c with ring := del c.ring l.seq }).modSlot i fun sl => { sl with latch := none }).lvDone i l.instr
    else s
  | none => s

/-- R131: the running command faults: it writes nothing, the later commands of its window are discarded, and COPROC is raised. DESIGN
CHOICE (log 63): R131 names only the sequence number; the trap record has the address of a memory fault, or 0, and the code that the command
would have raised in bits 7:0 of the operands, as R185 gives them for a matrix operation. -/
def State.lvFault (s : State) (i : Nat) (l : Latch) (addr ops : Word) : State :=
  let k := i / 8
  let e := look (s.core k).ring l.seq { slot := i, task := 0, pc := l.pc, busy := true, fault := false, order := 0, mat := false }
  let s := s.modCore k fun c => { c with ring := put c.ring l.seq { e with busy := false, fault := true } }
  let s := ((s.dropVector i).dropLvLatch i).lvDone i l.instr
  s.raise i (.coproc l.seq e.order e.task l.pc addr ops)

/-- How a long-mode access finds its bytes: their places, a fault, a full rollback pool, or a page in a flip (R239). -/
inductive LvPlaces where
  | ok (ps : List Phys)
  | fault (c : TrapCode) (addr ops : Word)
  | poolFull
  | busy

/-- R129, R159: the walks, fills, grants and copies that a long-mode access meets are made in place. -/
def State.lvPlaces (s : State) (i : Nat) (q : Need) (pieces : List (Word × Nat)) : Nat → LvPlaces × State
  | 0 => (.busy, s)
  | fuel + 1 =>
    let k := i / 8
    let t := (s.slot i).task
    let lv := (s.slot i).lv
    let go (r : Option FoundTrap × State) : LvPlaces × State := match r with
      | (none, s) => s.lvPlaces i q pieces fuel
      | (some (c, a, o), s) => (.fault c a o, s)
    match s.checkAll i q pieces with
    | .ok ps => (.ok ps, s)
    | .error (.trap c a o) => (.fault c a o, s)
    | .error (.wait (.walk va acc _)) => match s.xlateNow k t.part lv (Acc.ofCode acc) va with
      | (.fault c a o, s) => (.fault c a o, s)
      | (_, s) => s.lvPlaces i q pieces fuel
    | .error (.wait (.stash b off acc)) =>
      if s.stashBusy k t.part b off then (.busy, s) else go (s.doFill k t lv b off acc)
    | .error (.wait (.own pa st)) => if s.pageBusy pa then (.busy, s) else go (s.doOwn k t lv pa st)
    | .error (.wait (.granule pa)) => match s.reserveCopy t pa with
      | some s => s.lvPlaces i q pieces fuel
      | none => (.poolFull, s)
    | .error (.wait (.line ..)) | .error (.ok _) => (.busy, s)

/-- A trap code in the operands of COPROC: bits 7:0 hold the code that the command would have raised (R371). -/
def codeOps (c : TrapCode) : Word := BitVec.ofNat 64 c.num

/-- R131, R163: the memory access of the running command is performed, in one step (log 64), after the slot's earlier accesses to the same
bytes (R229, R231); none where it must wait for them, for a flip or for the pool. -/
def State.lvMemory (s : State) (o : Nat) (r : LvRun) (q : Need) (pieces : List (Word × Nat)) (h : Hint) (vd : BitVec 4) : Option State :=
  let i := r.cmd.slot
  let k := i / 8
  let l := r.cmd.cmd
  let stop (s : State) : State := s.modOct o fun x => { x with lvRun := none }
  match s.lvPlaces i q pieces (8 * pieces.length + 8) with
  | (.fault c a _, s) => some ((stop s).lvFault i l a (codeOps c))
  | (.poolFull, _) => s.poolPressure (s.slot i).task.part (s.slot i).task.ownEvent
  | (.busy, _) => none
  | (.ok ps, s) =>
    let kind : AccKind := if q.acc.writes then .store (natBytes 256 ((r.src.getD vd.toNat 0).toNat)) else .vload vd
    let a := s.mkAccess i 0 { kind := kind, need := q, pieces := pieces, hint := h } ps
    let before (b : Access) : Bool := b.issued < l.issued && a.parts.any b.leftAt
    if (s.slot i).pend.any before || a.parts.any (fun p => s.pageBusy p.pa) then none
    else match s.poisonAt i a with
      | some va => some ((stop s).lvFault i l va (codeOps .poison))
      | none =>
        let (a, s) := (List.range a.parts.length).foldl (init := (a, s.touchTlb i (pieces.map (·.1)))) fun r j => match a.parts[j]? with
          | some p => r.2.movePiece i r.1 j p
          | none => r
        let w := s.win o r.win
        let s := if a.write then s
          else s.setWin o r.win { w with regs := w.regs.setIfInBounds vd.toNat (BitVec.ofNat 2048 (bytesNat a.got.flatten)) }
        some (((stop s).modCore k fun c => { c with ring := del c.ring l.seq }).lvDone i l.instr)

/-- R130: the long-vector unit completes its command. DESIGN CHOICE (log 63): R131 does not say whether a command with an invalid format
word raises its COPROC when it starts or when it ends; it does so when it ends. -/
def execLvCommandComplete (o : Nat) (s : State) : Out :=
  match (s.oct o).lvRun with
  | none => .refused (.notEnabled "LV_COMMAND_COMPLETE")
  | some r =>
    let i := r.cmd.slot
    let k := i / 8
    let l := r.cmd.cmd
    if s.dclk < r.until_ then .refused (.notEnabled "LV_COMMAND_COMPLETE")
    else
      let stop (s : State) : State := s.modOct o fun x => { x with lvRun := none }
      let finish (s : State) : State := ((stop s).modCore k fun c => { c with ring := del c.ring l.seq }).lvDone i l.instr
      if r.dead then .next (finish s)
      else match lvAccess l.instr l.xa l.xb with
        | some (q, pieces, h, vd) => match s.lvMemory o r q pieces h vd with
          | some s => .next s
          | none => .refused (.notEnabled "LV_COMMAND_COMPLETE")
        | none =>
          let t := (s.slot i).task
          let mask := (vecMask l.instr).map fun _ => l.mask
          let nd := vecDraws l.instr mask l.vctl l.xb t.kfa t.kfo 2048
          let (ds, s') := s.takeDraws k nd
          let s' := if nd = 0 then s' else s'.modCore k fun c => { c with lvDrew := some (s.dclk, l.seq) }
          let v := s'.vecIn i l true (fun n => (r.src.getD n.toNat 0).toNat) l.vctl ds
          match v.eval l.instr with
          | some (.vec x n) =>
            let w := s'.win o r.win
            let s' := s'.setWin o r.win { w with regs := w.regs.setIfInBounds (vecDest l.instr).toNat (BitVec.ofNat 2048 x) }
            .next (finish (s'.addNan i n))
          | some (.scalar x) =>
            .next (finish ((s'.writeDst i l.dst x).modSlot i fun sl => { sl with latch := none }))
          | some (.bad ..) => .next ((stop s).lvFault i l 0 (codeOps .illegalOp))
          | none => .next (finish s')

end Sys2Proof.Machine
end

