-- ==== Sys2Proof/Machine/Matrix.lean ====
section
/-!
DEFINITION. The matrix unit (R168 to R187): tiles and their arithmetic, the command queues and the B latches, the matrix instructions, the
happenings of the unit, and the wake-up message with the wake queue (R36, R37).
-/

namespace Sys2Proof.Machine

/-! Tiles (R171, R172). -/

/-- R171: K of an element's class; FP32 has none. -/
def tileK : Elem → Nat
  | .fp32 => 0
  | .bf16 | .fp16 => 32
  | .e4m3 | .e5m2 | .int8 | .tab8 => 64
  | .e2m1 | .int4 | .tab4 => 256

/-- R171: a tile's format word: valid, not FP32, and with a block no longer than K. -/
def tileFmt (w : BitVec 16) : Option Fmt :=
  (Fmt.parse w).filter fun f => f.elem ≠ .fp32 && (f.sk = 0 || f.sk = 3 || decide (f.bs ≤ tileK f.elem))

/-- How many blocks a row of A or a column of B has. -/
def Fmt.tileBlocks (f : Fmt) : Nat := if f.sk = 1 || f.sk = 2 then tileK f.elem / f.bs else 0

/-- R110, R111: the bytes of the block scales of `n` rows or columns. -/
def Fmt.scaleBytes (f : Fmt) (n : Nat) : Nat :=
  match f.sk with
  | 1 => n * f.tileBlocks
  | 2 => (12 * (n * f.tileBlocks) + 7) / 8
  | _ => 0

/-- The bytes of the elements of `n` rows of A, or columns of B. -/
def Fmt.tileBytes (f : Fmt) (n : Nat) : Nat := n * tileK f.elem * f.elem.width / 8

/-- R105: the code of element `i` of packed elements. -/
def elemCode (bs : List Byte) (w i : Nat) : Nat :=
  bytesNat ((bs.drop (i * w / 8)).take ((w + 7) / 8)) / 2 ^ (i * w % 8) % 2 ^ w

/-- R111: the stored scale of block `j`. -/
def scaleCode (sk : Nat) (bs : List Byte) (j : Nat) : BitVec 12 :=
  BitVec.ofNat 12 (elemCode bs (if sk = 1 then 8 else 12) j)

/-- An element as a latch holds it (R178): its E8M10 value, bit 19 for NaN. -/
def packElem (v : Val) : BitVec 20 := if v.isNan then 0x80000 else BitVec.ofNat 20 (e8m10.encode 0 0 v)

def unpackElem (x : BitVec 20) : Val := if x.getLsbD 19 then .nan else e8m10.decode (fld x 18 0)

/-- R172: the tile of `n` rows of A, or columns of B, whose elements and scales are `bs`. -/
def readTile (fw : BitVec 16) (f : Fmt) (t : Table) (n : Nat) (bs : List Byte) (sk3 : BitVec 32) : Tile :=
  let sc := bs.drop (f.tileBytes n)
  { fw := fw
    elems := (List.range (n * tileK f.elem)).map fun i => packElem (f.decode t (elemCode bs f.elem.width i))
    scales := (List.range (n * f.tileBlocks)).map (scaleCode f.sk sc)
    sk3 := sk3 }

/-- R112: element `idx` of a tile with its scale, that of block `j`; a product of an infinite element and a zero scale is NaN. -/
def Tile.value (t : Tile) (f : Fmt) (idx j : Nat) : Val :=
  let e := unpackElem (t.elems.getD idx 0)
  match f.sk with
  | 0 => e
  | 1 => e.scale (e8m0 (t.scales.getD j 0).toNat)
  | 2 => e.scale (ue8m4 (t.scales.getD j 0).toNat)
  | _ => e.scale (fp32.decode t.sk3.toNat)

/-- R172: A element (m, k). -/
def Tile.a (t : Tile) (f : Fmt) (m k : Nat) : Val := t.value f (m * tileK f.elem + k) (m * f.tileBlocks + k / f.bs)

/-- R172: B element (k, n). -/
def Tile.b (t : Tile) (f : Fmt) (k n : Nat) : Val := t.value f (k * 256 + n) (n * f.tileBlocks + k / f.bs)

/-! The sum (R173, R174). -/

/-- R173: one group: the exact sum of its products, rounded, and added to `c`; the second part counts the NaNs taken as zero. -/
def groupStep (rm : Nat) (nz : Bool) (c : Val × Nat) (g : List (Val × Val)) : Val × Nat :=
  let round (v : Val) : Val := fp32.decode (fp32.encode rm 0 v)
  let (s, n) : Val × Nat := g.foldl (init := (.zero false, c.2)) fun r p =>
    let (x, i) := nanAsZero nz (p.1.mul p.2)
    let (y, j) := nanAsZero nz (r.1.add x)
    (y, r.2 + i + j)
  let (x, j) := nanAsZero nz (c.1.add (round s))
  (round x, n + j)

/-- The groups of eight, in order. -/
def groupsOf8 {α : Type} : Nat → List α → List (List α)
  | 0, _ => []
  | n + 1, l => l.take 8 :: groupsOf8 n (l.drop 8)

/-- R173: the new accumulator value of one row and column, and its count. -/
def dotStep (rm : Nat) (nz : Bool) (c0 : BitVec 32) (as bs : List Val) : BitVec 32 × Nat :=
  let c := nanAsZero nz (fp32.decode c0.toNat)
  let r := (groupsOf8 (as.length / 8) (as.zip bs)).foldl (groupStep rm nz) c
  (BitVec.ofNat 32 (fp32.encode rm 0 r.1), r.2)

/-- What a TMMA gives: the new values of its rows, the rows that took a NaN as zero, and how many NaNs it took. -/
structure TmmaOut where
  rows : List (List (BitVec 32))
  hit : List Bool
  nans : Nat

/-- R173, R174: the product of `M` rows of A and B, added to `acc`; mode 3 is taken as mode 0. -/
def tmmaRun (a b : Tile) (fa fb : Fmt) (M rm : Nat) (nz : Bool) (acc : Nat → Nat → BitVec 32) : TmmaOut :=
  let rm := if rm = 3 then 0 else rm
  let K := tileK fa.elem
  let arow (m : Nat) : List (Val × Nat) := (List.range K).map fun k => nanAsZero nz (a.a fa m k)
  let bcol (n : Nat) : List (Val × Nat) := (List.range K).map fun k => nanAsZero nz (b.b fb k n)
  let count (l : List (Val × Nat)) : Nat := (l.map (·.2)).sum
  let cols := (List.range 256).map bcol
  let nb := (cols.map count).sum
  let out := (List.range M).map fun m =>
    let av := arow m
    let vals := (List.range 256).zipWith (fun n c => dotStep rm nz (acc m n) (av.map (·.1)) (c.map (·.1))) cols
    let n := count av + (vals.map (·.2)).sum
    (vals.map (·.1), n)
  { rows := out.map (·.1), hit := out.map fun r => decide (0 < r.2) || decide (0 < nb), nans := (out.map (·.2)).sum + nb }

/-! The accumulators. -/

def MatCore.accAt (c : MatCore) (row n : Nat) : BitVec 32 := look c.acc (256 * row + n) 0

def State.modMat (s : State) (k : Nat) (f : MatCore → MatCore) : State := s.modCore k fun c => { c with mat := f c.mat }

/-- The accumulator with `vs` in row `row`; a +0 is not listed. -/
def setRow (acc : AMap (BitVec 32)) (row : Nat) (vs : List (BitVec 32)) : AMap (BitVec 32) :=
  ((List.range vs.length).zip vs).foldl (init := acc) fun a p =>
    if p.2 = 0 then del a (256 * row + p.1) else put a (256 * row + p.1) p.2

/-- The rows `lo` to `hi` (exclusive) become +0. -/
def zeroRows (acc : AMap (BitVec 32)) (lo hi : Nat) : AMap (BitVec 32) :=
  acc.filter fun e => e.1 / 256 < lo || hi ≤ e.1 / 256

/-- The bits `lo` to `hi` (exclusive) of a row mask. -/
def rowMask (lo hi : Nat) : BitVec 128 := BitVec.ofNat 128 (2 ^ hi - 2 ^ lo)

/-! The latches (R170). -/

def MatOctet.latch (m : MatOctet) (l : BitVec 1) : BLatch := if l = 0 then m.l0 else m.l1

def State.modMatOct (s : State) (o : Nat) (f : MatOctet → MatOctet) : State := s.modOct o fun v => { v with mat := f v.mat }

def State.modLatch (s : State) (o : Nat) (l : BitVec 1) (f : BLatch → BLatch) : State :=
  s.modMatOct o fun m => if l = 0 then { m with l0 := f m.l0 } else { m with l1 := f m.l1 }

/-- R170: a tile waiting in the incoming buffer moves into an EMPTY latch at once. -/
def BLatch.settle (b : BLatch) : BLatch :=
  if b.st = .empty && b.inc.isSome then { b with st := .full, tile := b.inc, inc := none } else b

/-- R170: a release of latch `l` is performed. -/
def State.performRelease (s : State) (o : Nat) (l : BitVec 1) : State :=
  s.modLatch o l fun b => BLatch.settle { b with st := .empty, tile := none, done := b.done + 1, run := none }

/-- R170: the unit that a TBPASS of octet `o` sends to: the same row, x one greater, 15 followed by 0. -/
def nextUnit (o : Nat) : Nat := o / 16 * 16 + (o % 16 + 1) % 16

/-- The latch of a matrix instruction. -/
def matLatch : Instr → BitVec 1
  | .tmma _ _ _ _ _ l => l
  | .tbld _ _ _ l => l
  | .tbpass _ l => l
  | _ => 0

def isTmma : Instr → Bool
  | .tmma .. => true
  | _ => false

def isTdrain : Instr → Bool
  | .tdrain .. => true
  | _ => false

/-- R170: a TMMA of latch `l` that issued before `order` has not completed in octet `o`. -/
def State.tmmaBefore (s : State) (o : Nat) (l : BitVec 1) (order : Nat) : Bool :=
  (List.range 8).any fun j =>
    let m := (s.core (8 * o + j)).mat
    let late (q : MatOp) : Bool := isTmma q.instr && matLatch q.instr = l && decide (q.order < order)
    m.queue.any late || match m.run with
      | some r => late r.op
      | none => false

/-! Pure tasks (R186, R283). -/

/-- R186: whether slot `i`, in pure mode, may load the B image of `n` bytes at `va`: its own local memory, argument tiles, and constant
pages, but no code and no descriptor list. -/
def State.pureImage (s : State) (i : Nat) (va : Word) (n : Nat) : Bool :=
  let v := va.toNat
  let own (a : Nat) : Bool := decide (a ≤ v) && decide (v + n ≤ a + 0x20000)
  let tiles := (s.slot i).task.regions.filter fun r => !r.list
  let t := s.modSlot i fun sl => { sl with task := { sl.task with regions := tiles } }
  own 0x00FFFF0000000000 || own (lmAddr (i / 8) 0) ||
  (!inWindows va && fld va 63 56 = 0 && t.pureCover i false false (tiles.length + n / 65536 + 2) v (v + n))

/-- R172, R283: the word that holds an operand's tensor scale, where it is read through the shadow pointer `ks`, is one that slot `i`, in pure
mode, may read. -/
def State.pureScale (s : State) (i : Nat) (f : Option Fmt) (r : Reg) (ks : Word) : Bool :=
  match f with
  | some f => f.sk ≠ 3 || r ≠ .x 0 || s.pureCheck i false ks 4
  | none => true

/-! Issue (R168). -/

/-- R62, R168: the places of the command queue that are taken: one that an operation has left in this core cycle comes free after it. -/
def MatCore.busy (m : MatCore) (c : Nat) : Nat := m.queue.length + (if m.leftAt = c then m.leftN else 0)

/-- R168: a matrix operation issues, if its core's queue has room and a ring entry is free; `fws` are the format words it decodes or
encodes through (R119). On a replaying core operations leave the queue only when they complete, and the record says when the head issues (R378). -/
def State.issueMatrix (s : State) (ins : Instr) (srcs : List Reg) (a b c : Word) (fws : List (BitVec 16)) : State :=
  let i := s.cur
  let k := i / 8
  let o := octetOf k
  let sl := s.slot i
  if (16 ≤ (s.core k).mat.busy s.dclk && !s.replays k) || !(s.core k).ringFree || 15 ≤ sl.cnt.tl then s.stallHead i
  else
    let (seq, s) := s.takeRing i true
    let m := (s.oct o).mat
    let op : MatOp :=
      { slot := i, seq := seq, pc := sl.pc, instr := ins, a := a, b := b, c := c, ti := sl.task, lv := sl.lv
        epoch := (m.latch (matLatch ins)).issued, order := m.count, issued := s.dclk }
    let s := s.modMatOct o fun m => { m with count := m.count + 1 }
    let s := match ins with
      | .tbpass _ l => s.modLatch o l fun b => { b with issued := b.issued + 1 }
      | _ => s
    let s := s.modMat k fun m => { m with queue := m.queue ++ [op] }
    let s := s.modSlot i fun sl => { sl with task := { sl.task with dtuse := sl.task.dtuse ||| dtuseOf fws } }
    ((s.popPorts i srcs).incCnt i .tl).complete i

/-- The format word of A or B: the shadow word where the override is x0. -/
def tileWord (r : Reg) (v : Word) (shadow : BitVec 16) : BitVec 16 := if r = .x 0 then shadow else v.extractLsb' 0 16

/-- R176: the output word of a TMMA. -/
def tmmaOut (r : Reg) (v : Word) (shadow : BitVec 16) : BitVec 16 := if r = .x 0 then shadow else v.extractLsb' 16 16

/-- R180: the output word of a TDRAIN. -/
def drainOut (b : Word) (kfo : BitVec 16) : BitVec 16 := if b.getLsbD 48 then b.extractLsb' 32 16 else kfo

/-- R109, R176: the output word of a TMMA is valid; its format may be 0, since no element is written in it. -/
def outWordOk (w : BitVec 16) : Bool := (Fmt.parse w).isSome || (fld w 4 0 = 0 && fld w 15 13 = 0 && (fld w 8 7 = 0 || 1 ≤ fld w 6 5 && fld w 6 5 ≤ 2))

/-- R176: TMMA. -/
def execTmma (a c : Reg) (row0 m1 : BitVec 7) (z : Bool) (l : BitVec 1) (s : State) : Out :=
  .next (s.withRegs s.cur [a, c] [] fun s =>
    let t := (s.slot s.cur).task
    let fw := tileWord c (s.rv c) t.kfa
    if t.pure && !s.pureScale s.cur (tileFmt fw) c t.ksa then s.trapAt s.cur .purity t.ksa
    else s.issueMatrix (.tmma a c row0 m1 z l) [a, c] (s.rv a) 0 (s.rv c) [fw])

/-- R177: TZERO. -/
def execTzero (a : Reg) (s : State) : Out :=
  .next (s.withRegs s.cur [a] [] fun s => s.issueMatrix (.tzero a) [a] (s.rv a) 0 0 [])

/-- The bytes of a B image. -/
def Fmt.imageBytes (f : Fmt) : Nat := f.tileBytes 256 + f.scaleBytes 256

/-- R178, R186: TBLD. -/
def execTbld (a b : Reg) (h : Hint) (l : BitVec 1) (s : State) : Out :=
  .next (s.withRegs s.cur [a, b] [] fun s =>
    let i := s.cur
    let t := (s.slot i).task
    let fw := tileWord b (s.rv b) t.kfb
    let n := match tileFmt fw with
      | some f => f.imageBytes
      | none => 0
    if t.pure && !s.pureImage i (s.rv a) n then s.trapAt i .purity (s.rv a)
    else if t.pure && !s.pureScale i (tileFmt fw) b t.ksb then s.trapAt i .purity t.ksb
    else s.issueMatrix (.tbld a b h l) [a, b] (s.rv a) (s.rv b) 0 [fw])

/-- R179, R186: TBPASS. -/
def execTbpass (drop : Bool) (l : BitVec 1) (s : State) : Out :=
  .next (s.needImpure fun s => s.issueMatrix (.tbpass drop l) [] 0 0 0 [])

/-- The core whose local memory an address names, seen from core `k`, with the bytes left in its window. -/
def windowOf (k : Nat) (va : Word) : Option (Nat × Nat) :=
  let v := va.toNat
  if lmBase ≤ v && v < lmEnd then some (lmCore v, 0x20000 - lmOff v)
  else if 0x00FFFF0000000000 ≤ v && v < 0x00FFFF0000020000 then some (k, 0x00FFFF0000020000 - v)
  else none

/-- R180, R186: TDRAIN. -/
def execTdrain (a b c : Reg) (imm : BitVec 16) (z wk fl : Bool) (s : State) : Out :=
  .next (s.withRegs s.cur [a, b, c] [] fun s =>
    let i := s.cur
    let t := (s.slot i).task
    let dst := s.ea a imm
    let fw := drainOut (s.rv b) t.kfo
    let own : Bool := match windowOf (i / 8) dst with
      | some (k, _) => k = i / 8
      | none => false
    if t.pure && (wk || !own || fld fw 11 10 = 3) then s.trapAt i .purity
    else s.issueMatrix (.tdrain a b c imm z wk fl) [a, b, c] dst (s.rv b) (s.rv c) [fw])

/-- R182: TFENCE. -/
def execTfence (s : State) : Out :=
  .next (if (s.slot s.cur).cnt.tl ≠ 0 then s.stallHead s.cur else s.complete s.cur)

def LatchSt.num : LatchSt → Nat
  | .empty => 0 | .loading => 1 | .full => 2 | .sending => 3

/-- R183: the sequence number of the core's oldest incomplete matrix operation. -/
def State.oldestMatrix (s : State) (k : Nat) : Nat :=
  let m := (s.core k).mat
  let o := (s.oct (octetOf k)).mat
  let run (r : Option (Nat × MatRun)) : List MatOp := match r with
    | some (j, r) => if j = k then [r.op] else []
    | none => []
  let ops := m.queue ++ (match m.run with
    | some r => [r.op]
    | none => []) ++ run o.l0.run ++ run o.l1.run
  match ops with
  | [] => 0
  | q :: t => (t.foldl (fun (p : MatOp) (x : MatOp) => if x.order < p.order then x else p) q).seq

/-- R183: TSTAT. -/
def execTstat (d : Reg) (clr : Bool) (w : BitVec 2) (s : State) : Out :=
  let i := s.cur
  let k := i / 8
  .next (s.withRegs i [] [d] fun s =>
    let m := (s.core k).mat
    let o := (s.oct (octetOf k)).mat
    let lo : BitVec 64 := m.nanRows.extractLsb' 0 64
    let hi : BitVec 64 := m.nanRows.extractLsb' 64 64
    match w.toNat with
    | 1 => ((if clr then s.modMat k fun m => { m with nanRows := m.nanRows &&& ~~~(rowMask 0 64) } else s).writeReg i d lo).complete i
    | 2 => ((if clr then s.modMat k fun m => { m with nanRows := m.nanRows &&& rowMask 0 64 } else s).writeReg i d hi).complete i
    | _ =>
      let b (x : Bool) (n : Nat) : Nat := if x then 2 ^ n else 0
      let fp := (s.core k).ring.any fun e => e.2.slot = i && e.2.fault && e.2.mat
      s.writeDone i [] d (BitVec.ofNat 64 (s.oldestMatrix k * 2 ^ 26 + b fp 25 + b (m.nanRows ≠ 0) 24 + m.weight.toNat * 2 ^ 20
        + o.l1.st.num * 2 ^ 18 + o.l0.st.num * 2 ^ 16 + b o.l1.inc.isSome 15 + b o.l0.inc.isSome 14 + m.queue.length)))

/-- R184: TWGT. -/
def execTwgt (d a b : Reg) (s : State) : Out :=
  let i := s.cur
  .next (s.withRegs i [a, b] [d] fun s =>
    let c := 8 * octetOf (i / 8) + fld (s.rv b) 2 0
    let w : BitVec 4 := (s.rv a).extractLsb' 0 4
    let old := (s.core c).mat.weight
    (s.modMat c fun m => { m with weight := w }).writeDone i [a, b] d (old.setWidth 64))

/-! Ends of operations. -/

/-- The operation is complete: its ring entry is free and tl falls. -/
def State.matDone (s : State) (op : MatOp) : State :=
  (s.modCore (op.slot / 8) fun c => { c with ring := del c.ring op.seq }).decCnt op.slot .tl

/-- R185: the operation faults: later operations of the slot in the queue are discarded, tl falls, and COPROC is raised. -/
def State.matFault (s : State) (op : MatOp) (quiet : Bool) (code : TrapCode) (addr : Word) : State :=
  let k := op.slot / 8
  if quiet then s.matDone op
  else
    let e := look (s.core k).ring op.seq
      { slot := op.slot, task := op.ti.task, pc := op.pc, busy := true, fault := false, order := 0, mat := true }
    let s := s.modCore k fun c => { c with ring := put c.ring op.seq { e with busy := false, fault := true } }
    let s := (s.dropMatrix op.slot op.order).decCnt op.slot .tl
    s.raise op.slot (.coproc op.seq e.order e.task op.pc addr (codeOps code))

/-- The engine that moves a matrix operation's bytes. -/
def MatOp.eng (op : MatOp) (h : Hint) : Eng := { core := some (op.slot / 8), part := op.ti.part, lv := op.lv, ti := op.ti, hint := h, waits := true }

/-- Why a unit cannot have its bytes now: a fault with its code and address; none while a page is in a flip (R239). -/
abbrev ImageErr := Option (TrapCode × Word)

/-- A read of a tile or a scale: the bytes, or the code and the address of the first fault. -/
def State.imageRead (s : State) (e : Eng) (va : Word) (n : Nat) : Except ImageErr (List Byte) × State :=
  (wordPieces va n).foldl (init := (.ok [], s)) fun r p =>
    match r with
    | (.error x, s) => (.error x, s)
    | (.ok bs, s) => match s.engReadWord e p.1 p.2 with
      | (.ok cs, s) => if cs.any (·.2) then (.error (some (.poison, p.1)), s) else (.ok (bs ++ cs.map (·.1)), s)
      | (.error (.fault c a _), s) => (.error (some (c, a)), s)
      | (.error .busy, s) => (.error none, s)
      | (.error _, s) => (.error (some (.protection, p.1)), s)

/-- R172: the tensor scale of scale kind 3: bits 63:32 of the override, or the FP32 word at the shadow pointer. -/
def State.tensorScale (s : State) (op : MatOp) (f : Fmt) (r : Reg) (v ks : Word) : Except ImageErr (BitVec 32) × State :=
  if f.sk ≠ 3 then (.ok 0, s)
  else if r ≠ .x 0 then (.ok (v.extractLsb' 32 32), s)
  else if ks.toNat % 4 ≠ 0 then (.error (some (.misalign, ks)), s)
  else match s.imageRead (op.eng .none) ks 4 with
    | (.ok bs, s) => (.ok (BitVec.ofNat 32 (bytesNat bs)), s)
    | (.error x, s) => (.error x, s)

/-- R176: the bytes of an A tile, wholly in TOB banks of core `k`. -/
def State.tobRead (s : State) (k : Nat) (va : Word) (n : Nat) : Except (TrapCode × Word) (List Byte) :=
  let bad : Option (TrapCode × Word) := match windowOf k va with
    | some (j, left) =>
      if j ≠ k || left < n then some (.protection, va)
      else ((wordPieces va n).find? fun p => match windowOf k p.1 with
        | some (_, l) => s.role k ((0x20000 - l) / 0x1000) ≠ 3
        | none => true).map fun p => (.protection, p.1)
    | none => some (.protection, va)
  match bad with
  | some x => .error x
  | none =>
    let off := match windowOf k va with
      | some (_, l) => 0x20000 - l
      | none => 0
    match (wordPieces va n).find? fun p => s.poisoned (lmAddr k (off + (p.1 - va).toNat)) p.2 with
    | some p => .error (.poison, p.1)
    | none => .ok (s.rdBytes (lmAddr k off) n)

/-- R176: what a TMMA reads when it starts: its A tile, or its fault. DESIGN CHOICE (log 75): ADDR of a record with ILLEGAL_OP, of a bad
format word here, in `State.tbldStart` or in `State.drainPlan`, is the tile's, the image's or the destination's address, where R185 gives the
faulting address and R367 gives 0 where none applies. -/
def State.tmmaTile (s : State) (op : MatOp) (c : Reg) (M : Nat) (b : Tile) : Except ImageErr Tile × State :=
  let k := op.slot / 8
  let fw := tileWord c op.c op.ti.kfa
  match tileFmt fw, tileFmt b.fw with
  | some fa, some fb =>
    if tileK fa.elem ≠ tileK fb.elem || !outWordOk (tmmaOut c op.c op.ti.kfo) then (.error (some (.illegalOp, op.a)), s)
    else if op.a.toNat % 64 ≠ 0 then (.error (some (.misalign, op.a)), s)
    else match s.tobRead k op.a (fa.tileBytes M + fa.scaleBytes M) with
      | .error x => (.error (some x), s)
      | .ok bs => match s.tensorScale op fa c op.c op.ti.ksa with
        | (.error x, s) => (.error x, s)
        | (.ok sk3, s) => (.ok (readTile fw fa (s.table k fa.dt) M bs sk3), s)
  | _, _ => (.error (some (.illegalOp, op.a)), s)

/-- R172, R178: what a TBLD checks and reads when it starts: its tensor scale, or its fault. DESIGN CHOICE (log 67): the rule says that bits
31:16 of the override must be zero and names no fault; another value is COPROC with ILLEGAL_OP. -/
def State.tbldStart (s : State) (op : MatOp) (b : Reg) : Except ImageErr (BitVec 32) × State :=
  match tileFmt (tileWord b op.b op.ti.kfb) with
  | none => (.error (some (.illegalOp, op.a)), s)
  | some f =>
    if b ≠ .x 0 && fld op.b 31 16 ≠ 0 then (.error (some (.illegalOp, op.a)), s)
    else if op.a.toNat % 64 ≠ 0 then (.error (some (.misalign, op.a)), s)
    else s.tensorScale op f b op.b op.ti.ksb

/-- R180: what a TDRAIN does: its output format, its first row and count, the bytes from row to row and the target core. -/
structure DrainPlan where
  f : Fmt
  row : Nat
  cnt : Nat
  rowBytes : Nat
  pitch : Nat
  target : Nat

/-- R180: the checks of a TDRAIN when it starts. -/
def State.drainPlan (s : State) (op : MatOp) (fl : Bool) : Except (TrapCode × Word) DrainPlan :=
  let k := op.slot / 8
  let dst := op.a
  let row := fld op.b 6 0
  let cnt := fld op.b 15 8
  let plan : Option (Fmt × Nat) := match Fmt.parse (drainOut op.b op.ti.kfo) with
    | some f =>
      if fld op.b 63 49 ≠ 0 || op.b.getLsbD 7 || 128 < row + cnt || f.sk ≠ 0 then none else some (f, 32 * f.elem.width)
    | none => none
  match plan with
  | none => .error (.illegalOp, dst)
  | some (f, rb) =>
    let pitch := if fld op.b 31 16 = 0 then rb else fld op.b 31 16
    if dst.toNat % 64 ≠ 0 || pitch % 64 ≠ 0 then .error (.misalign, dst)
    else
      let span := if cnt = 0 then 0 else (cnt - 1) * pitch + rb
      match windowOf k dst with
      | none => .error (.translation, dst)
      | some (t, left) =>
        if left < span || (fl && 0x20000 < left + 8) then .error (.translation, dst)
        else if s.corePart t ≠ some op.ti.part then .error (.protection, dst)
        else .ok { f := f, row := row, cnt := cnt, rowBytes := rb, pitch := pitch, target := t }

/-! Starting (R168 to R170). -/

/-- Besides its turn at the array (R169), the head of core `k`'s queue may start. -/
def State.headMayStart (s : State) (k : Nat) : Bool :=
  let o := octetOf k
  let m := (s.oct o).mat
  let c := (s.core k).mat
  match c.queue, (s.oct o).part with
  | op :: _, some p =>
    let b := m.latch (matLatch op.instr)
    s.partRuns p && !s.replays k && (match op.instr with
      | .tmma .. => c.run.isNone && decide (m.free ≤ s.dclk) && b.st = .full && b.done = op.epoch
      | .tzero _ | .tdrain .. => c.run.isNone
      | .tbld .. => b.st = .empty && b.inc.isNone
      | .tbpass drop l =>
        let u := nextUnit o
        b.st = .full && b.run.isNone && !s.tmmaBefore o l op.order
          && (drop || ((s.oct u).part = some p && ((s.oct u).mat.latch l).inc.isNone))
      | _ => false)
  | _, _ => false

/-- R169: the core of octet `o` whose TMMA has the next turn, and the turns it has used then. -/
def State.tmmaTurn (s : State) (o : Nat) : Option (Nat × Nat) :=
  let m := (s.oct o).mat
  let ready (j : Nat) : Bool := (match (s.core (8 * o + j)).mat.queue with
    | op :: _ => isTmma op.instr
    | [] => false) && s.headMayStart (8 * o + j)
  let S := (List.range 8).filter ready
  if S.isEmpty then none
  else
    let w (j : Nat) : Nat :=
      if S.all fun i => (s.core (8 * o + i)).mat.weight = 0 then 1 else (s.core (8 * o + j)).mat.weight.toNat
    if S.contains m.cur && 0 < w m.cur && m.used < w m.cur then some (m.cur, m.used + 1)
    else (((List.range 8).map fun j => (m.cur + 1 + j) % 8).find? fun j => S.contains j && 0 < w j).map fun j => (j, 1)

/-- R168: the head of core `k`'s queue starts at this arithmetic-cycle boundary, before the turns of its core cycle. -/
def State.matrixStarts (s : State) (k : Nat) : Bool :=
  s.dclk % 2 = 0 && !s.sched.begun && s.headMayStart k && match (s.core k).mat.queue with
    | op :: _ => !isTmma op.instr || (s.tmmaTurn (octetOf k)).any fun t => 8 * octetOf k + t.1 = k
    | [] => false

/-- R178: a B image in the own core's local memory. -/
def tbldOwn (op : MatOp) : Bool :=
  match windowOf (op.slot / 8) op.a with
  | some (k, _) => k = op.slot / 8
  | none => false

/-- R178: the core cycles that a load of `f`'s image from the own local memory takes. -/
def tbldCycles (op : MatOp) (b : Reg) : Nat :=
  if tbldOwn op then match tileFmt (tileWord b op.b op.ti.kfb) with
    | some f => 2 * ((f.imageBytes + 511) / 512)
    | none => 1
  else 1

/-- R62: the core cycle of a start counts the operations that start in it: what a start brings to a slot comes at the end of it. -/
def MatCore.leave (m : MatCore) (rest : List MatOp) (c : Nat) : MatCore :=
  { m with queue := rest, leftAt := c, leftN := (if m.leftAt = c then m.leftN else 0) + 1 }

/-- R168: the head of core `k`'s matrix queue starts. An operation that faults at its start, and TBPASS.drop, end with their core cycle. R169:
a TMMA that faults has its turn at this boundary; DESIGN CHOICE (log 75): the array is free again at the next boundary, where the spec does not
say whether it is held for 32 arithmetic cycles. -/
def execMatrixOpStart (k : Nat) (s : State) : Out :=
  let o := octetOf k
  match s.matrixStarts k, (s.core k).mat.queue with
  | true, op :: rest =>
    let turn := s.tmmaTurn o
    let s := s.modMat k fun m => m.leave rest s.dclk
    let run : MatRun :=
      { op := op, until_ := s.dclk, tile := none, btile := none, sent := false, quiet := false, fault := none, sk3 := 0, rows := 0 }
    let onCore (s : State) (r : MatRun) : Out := .next (s.modMat k fun m => { m with run := some r })
    match op.instr with
    | .tmma _ c row0 m1 z l =>
      let s := match turn with
        | some (j, n) => s.modMatOct o fun m => { m with cur := j, used := n }
        | none => s
      match ((s.oct o).mat.latch l).tile with
      | none => .refused (.notEnabled "MATRIX_OP_START")
      | some b => match s.tmmaTile op c (m1.toNat + 1) b with
        | (.error none, _) => .refused (.notEnabled "MATRIX_OP_START")
        | (.error x, s) => onCore (s.modMatOct o fun m => { m with free := s.dclk + 2 }) { run with fault := x }
        | (.ok a, s) =>
          let s := if z then s.modMat k fun m => { m with
            nanRows := m.nanRows &&& ~~~(rowMask row0.toNat (row0.toNat + m1.toNat + 1)) } else s
          onCore (s.modMatOct o fun m => { m with free := s.dclk + 64 }) { run with until_ := s.dclk + 63, tile := some a, btile := some b }
    | .tzero _ => onCore s { run with until_ := s.dclk + 1 }
    | .tbld _ b _ l =>
      let loading (s : State) (r : MatRun) : Out := .next (s.modLatch o l fun v => { v with st := .loading, run := some (k, r) })
      match s.tbldStart op b with
      | (.error none, _) => .refused (.notEnabled "MATRIX_OP_START")
      | (.error x, s) => loading s { run with fault := x }
      | (.ok sk3, s) => loading s { run with until_ := s.dclk + tbldCycles op b - 1, sk3 := sk3 }
    | .tbpass drop l =>
      if drop then .next (s.modLatch o l fun v => { v with run := some (k, run) })
      else .next (s.modLatch o l fun v => { v with st := .sending, run := some (k, { run with until_ := s.dclk + 63 }) })
    | .tdrain _ _ _ _ _ _ fl => match s.drainPlan op fl with
      | .error x => onCore s { run with fault := some x }
      | .ok _ => onCore s run
    | _ => .refused (.notEnabled "MATRIX_OP_START")
  | _, _ => .refused (.notEnabled "MATRIX_OP_START")

/-- The operation that core `k` runs ends with its fault. -/
def State.endFault (s : State) (k : Nat) (r : MatRun) (x : TrapCode × Word) : State :=
  (s.modMat k fun m => { m with run := none }).matFault r.op r.quiet x.1 x.2

/-- R176: the running TMMA of core `k` writes its rows and completes. -/
def execTmmaComplete (k : Nat) (s : State) : Out :=
  match (s.core k).mat.run with
  | none => .refused (.notEnabled "TMMA_COMPLETE")
  | some r => match r.op.instr, r.fault, r.tile, r.btile with
    | .tmma .., some x, _, _ => if s.dclk < r.until_ then .refused (.notEnabled "TMMA_COMPLETE") else .next (s.endFault k r x)
    | .tmma _ c row0 m1 z _, none, some a, some b =>
      if s.dclk < r.until_ then .refused (.notEnabled "TMMA_COMPLETE")
      else match tileFmt a.fw, tileFmt b.fw with
        | some fa, some fb =>
          let fo := tmmaOut c r.op.c r.op.ti.kfo
          let mc := (s.core k).mat
          let out := tmmaRun a b fa fb (m1.toNat + 1) (fld fo 11 10) (fo.getLsbD 9) fun m n => if z then 0 else mc.accAt (row0.toNat + m) n
          let rows := (List.range out.rows.length).map (row0.toNat + ·)
          let acc := (rows.zip out.rows).foldl (init := mc.acc) fun x p => setRow x p.1 p.2
          let bits : BitVec 128 := (rows.zip out.hit).foldl (init := mc.nanRows) fun x p =>
            if p.2 then x ||| rowMask p.1 (p.1 + 1) else x
          let s := s.modMat k fun m => { m with acc := acc, nanRows := bits, run := none }
          .next ((s.addNan r.op.slot out.nans).matDone r.op)
        | _, _ => .refused (.notEnabled "TMMA_COMPLETE")
    | _, _, _, _ => .refused (.notEnabled "TMMA_COMPLETE")

/-- R177: the rows that a TZERO names. -/
def tzeroRows (a : Reg) (v : Word) : Nat × Nat :=
  if a = .x 0 then (0, 128) else (fld v 6 0, min 128 (fld v 6 0 + fld v 15 8))

/-- R177: the running TZERO of core `k` ends. -/
def execTzeroComplete (k : Nat) (s : State) : Out :=
  match (s.core k).mat.run with
  | none => .refused (.notEnabled "TZERO_COMPLETE")
  | some r => match r.op.instr with
    | .tzero a =>
      if s.dclk < r.until_ then .refused (.notEnabled "TZERO_COMPLETE")
      else
        let (lo, hi) := tzeroRows a r.op.a
        .next ((s.modMat k fun m => { m with
          acc := zeroRows m.acc lo hi, nanRows := m.nanRows &&& ~~~(rowMask lo hi), run := none }).matDone r.op)
    | _ => .refused (.notEnabled "TZERO_COMPLETE")

/-- R178: the B tile that a started TBLD loads, or its fault. -/
def State.tbldTile (s : State) (r : MatRun) (b : Reg) (h : Hint) : Except ImageErr Tile × State :=
  let op := r.op
  let fw := tileWord b op.b op.ti.kfb
  match r.fault, tileFmt fw with
  | some x, _ => (.error (some x), s)
  | none, none => (.error (some (.illegalOp, op.a)), s)
  | none, some f => match s.imageRead (op.eng h) op.a f.imageBytes with
    | (.error x, s) => (.error x, s)
    | (.ok bs, s) => (.ok (readTile fw f (s.table (op.slot / 8) f.dt) 256 bs r.sk3), s)

/-- R178: the load of latch `l` of octet `o` ends: the latch is FULL, or EMPTY after a fault. -/
def execTbldComplete (o : Nat) (l : BitVec 1) (s : State) : Out :=
  match ((s.oct o).mat.latch l).run with
  | none => .refused (.notEnabled "TBLD_COMPLETE")
  | some (_, r) => match r.op.instr with
    | .tbld _ b h _ =>
      if s.dclk < r.until_ then .refused (.notEnabled "TBLD_COMPLETE")
      else match s.tbldTile r b h with
        | (.ok t, s) => .next ((s.modLatch o l fun v => { v with st := .full, tile := some t, run := none }).matDone r.op)
        | (.error (some (code, a)), s) =>
          .next ((s.modLatch o l fun v => BLatch.settle { v with st := .empty, tile := none, run := none }).matFault r.op r.quiet code a)
        | (.error none, _) => .refused (.notEnabled "TBLD_COMPLETE")
    | _ => .refused (.notEnabled "TBLD_COMPLETE")

/-- R170, R179: the move of a tile to the next unit ends, or the drop of one; the release is performed. -/
def execTbpassMoveEnd (o : Nat) (l : BitVec 1) (s : State) : Out :=
  match ((s.oct o).mat.latch l).run with
  | none => .refused (.notEnabled "TBPASS_MOVE_END")
  | some (_, r) => match r.op.instr with
    | .tbpass drop _ =>
      if s.dclk < r.until_ then .refused (.notEnabled "TBPASS_MOVE_END")
      else
        let t := ((s.oct o).mat.latch l).tile
        let s := s.performRelease o l
        if drop then .next (s.matDone r.op)
        else .next ((s.modLatch (nextUnit o) l fun v => BLatch.settle { v with inc := t }).matDone r.op)
    | _ => .refused (.notEnabled "TBPASS_MOVE_END")

/-! Draining (R180, R181). -/

/-- R115 to R117, R180: a row of the accumulator in the output format: its bytes, and the NaNs taken as zero. -/
def drainRow (f : Fmt) (t : Table) (vs : List (BitVec 32)) (ds : List (BitVec 32)) : List Byte × Nat :=
  let r := ((List.range vs.length).zip vs).map fun p =>
    let z := nanAsZero f.nz (fp32.decode p.2.toNat)
    (f.encode t (ds.getD p.1 0).toNat z.1, z.2)
  (natBytes (vs.length * f.elem.width / 8) (ofLanes f.elem.width (r.map (·.1))), (r.map (·.2)).sum)

/-- What one row of a TDRAIN gave: the state after it and the first word refused or faulting; or why it cannot be written now, with
nothing of it written. -/
inductive DrainRow where
  | done (s : State) (bad : Option (TrapCode × Word))
  | poolFull
  | busy

/-- R180: the bytes of row `j` of a TDRAIN, and the NaNs taken as zero; its draws are made. -/
def State.drainBytes (s : State) (op : MatOp) (p : DrainPlan) (j : Nat) : (List Byte × Nat) × State :=
  let k := op.slot / 8
  let (ds, s) := s.takeDraws k (if p.f.drawing then 256 else 0)
  let vs := (List.range 256).map fun n => (s.core k).mat.accAt (p.row + j) n
  (drainRow p.f (s.table k p.f.dt) vs ds, s)

/-- R180: row `j` is drained: it is zeroed where `.z` asks, and its `n` NaNs are counted. -/
def State.drained (s : State) (op : MatOp) (p : DrainPlan) (z : Bool) (j n : Nat) : State :=
  (if z then s.modMat (op.slot / 8) fun m => { m with acc := zeroRows m.acc (p.row + j) (p.row + j + 1) } else s).addNan op.slot n

/-- R180: row `j` of a TDRAIN is written, then zeroed where `.z` asks, and its NaNs are counted. -/
def State.drainStep (s : State) (op : MatOp) (p : DrainPlan) (z : Bool) (j : Nat) : DrainRow :=
  let e := op.eng .none
  let ((bs, n), s) := s.drainBytes op p j
  let va := op.a + BitVec.ofNat 64 (j * p.pitch)
  let refused : Option Word := (wordPieces va bs.length).findSome? fun q => match (s.engPlace e .w q.1).1 with
    | .error .refused => some q.1
    | _ => none
  let after (s : State) (bad : Option (TrapCode × Word)) : DrainRow := .done (s.drained op p z j n) bad
  match s.engWrite e va (cleanBytes bs) with
  | (.ok _, s) => after s (refused.map fun a => (.protection, a))
  | (.error (.fault c a _), s) => after s (some (c, a))
  | (.error .busy, _) => .busy
  | (.error _, _) => .poolFull

/-- R180: the rows of a running TDRAIN from the first that is not written, as far as they can be: the operation as it then stands, the state,
and whether every row is written or what the next one waits for. -/
def State.drainRows (s : State) (r : MatRun) (p : DrainPlan) (z : Bool) : Nat → MatRun × State × Option DrainRow
  | 0 => (r, s, none)
  | n + 1 =>
    if p.cnt ≤ r.rows then (r, s, none)
    else match s.drainStep r.op p z r.rows with
      | .done s bad => s.drainRows { r with rows := r.rows + 1, fault := r.fault.or bad } p z n
      | w => (r, s, some w)

/-- The address `off` of core `k`'s own-core alias. -/
def aliasAddr (va : Word) : Word := BitVec.ofNat 64 (0x00FFFF0000000000 + va.toNat % 0x20000)

/-- R180, R181: the rows of a TDRAIN are written, and none was refused: its flag word is written, and its message leaves. -/
def State.drainClose (s : State) (k : Nat) (r : MatRun) (p : DrainPlan) (wk fl : Bool) : Option State :=
  let flag := if fl then s.engWrite (r.op.eng .none) (r.op.a - 8) (cleanBytes (wordBytes (BitVec.ofNat 64 (p.cnt * p.rowBytes))))
    else (.ok false, s)
  match flag with
  | (.ok false, s) =>
    let w : WakeMsg :=
      { target := p.target, pc := if wk then some r.op.c else none, dst := aliasAddr r.op.a, sender := r.op.slot, ti := r.op.ti, core := k
        dead := false }
    let (n, s) := s.newId
    some ((s.modNet fun x => { x with wakes := put x.wakes n w }).modMat k fun m => { m with run := some { r with sent := true } })
  | (.ok true, s) => some (s.endFault k r (.protection, r.op.a - 8))
  | (.error (.fault c a _), s) => some (s.endFault k r (c, a))
  | (.error .poolFull, _) => s.poolPressure r.op.ti.part r.op.ti.ownEvent
  | (.error _, _) => none

/-- R116: the results of one core cycle draw in ascending sequence number: the draws of a TDRAIN wait for the next core cycle where a
long-vector command of a higher number has drawn in this one (log 70). -/
def State.drawsLate (s : State) (k : Nat) (op : MatOp) : Bool :=
  (s.core k).lvDrew.any fun d => d.1 = s.dclk && op.seq < d.2 && match op.instr with
    | .tdrain .. => (Fmt.parse (drainOut op.b op.ti.kfo)).any (·.drawing)
    | _ => false

/-- R180: the running TDRAIN of core `k` writes its rows; then its flag word, and its message leaves (R181). -/
def execTdrainComplete (k : Nat) (s : State) : Out :=
  match (s.core k).mat.run with
  | none => .refused (.notEnabled "TDRAIN_COMPLETE")
  | some r => match r.op.instr with
    | .tdrain _ _ _ _ z wk fl =>
      if r.sent || s.dclk < r.until_ || s.drawsLate k r.op then .refused (.notEnabled "TDRAIN_COMPLETE")
      else match s.drainPlan r.op fl with
        | .error x => .next (s.endFault k r (r.fault.getD x))
        | .ok p =>
          if r.fault.isSome && r.rows = 0 then .next (s.endFault k r (r.fault.getD (.protection, 0)))
          else
            let (r', t, w) := s.drainRows r p z p.cnt
            let kept := t.modMat k fun m => { m with run := some r' }
            let out : Option State := match w with
              | some w =>
                if r.rows < r'.rows then some kept
                else match w with
                  | .poolFull => t.poolPressure r.op.ti.part r.op.ti.ownEvent
                  | _ => none
              | none => match r'.fault with
                | some x => some (kept.endFault k r' x)
                | none =>
                  if r'.quiet then some ((kept.modMat k fun m => { m with run := none }).matDone r.op)
                  else match kept.drainClose k r' p wk fl with
                    | some s => some s
                    | none => if r.rows < r'.rows then some kept else none
            match out with
            | some s => .next s
            | none => .refused (.notEnabled "TDRAIN_COMPLETE")
    | _ => .refused (.notEnabled "TDRAIN_COMPLETE")

/-- R181: what the task that a wake-up message starts is given. -/
def TaskInfo.wakeup (t : TaskInfo) : TaskInfo :=
  { TaskInfo.empty with
    ntask := 1, part := t.part, tenant := t.tenant, kfa := t.kfa, kfb := t.kfb, kfo := t.kfo, ksa := t.ksa, ksb := t.ksb
    dtuse := dtuseOf [t.kfa, t.kfb, t.kfo] }

/-- R36: the free slot of core `k` on which the next code line starts: the lowest (log 8) of those that have had a turn since their last task
retired (R32). -/
def State.freeTaskSlot (s : State) (k : Nat) : Option Nat :=
  (coreSlots k).find? fun i => s.duty i = .task && !(s.slot i).live && decide ((s.slot i).freeAt ≤ s.dclk)

/-- R37, R374: waiting code lines start on free task slots, the oldest first; none while the partition stops. -/
def State.startWakes (s : State) (k : Nat) : State :=
  let rec go : Nat → State → State
    | 0, s => s
    | n + 1, s => match s.freeTaskSlot k, (s.core k).wakeQ with
      | some i, q :: rest => go n ((s.modCore k fun c => { c with wakeQ := rest }).startTask i q.ti .u q.pc q.x1 q.x2)
      | _, _ => s
  if s.octRuns (octetOf k) then go 8 s else s

/-- R181: the TDRAIN of core `k` whose message is placed or withdrawn completes. -/
def State.endDrain (s : State) (k : Nat) : State :=
  match (s.core k).mat.run with
  | some r => if r.sent then (s.modMat k fun m => { m with run := none }).matDone r.op else s
  | none => s

/-- R181, R36, R37: wake-up message `i` arrives: its code line starts or waits, and the TDRAIN completes. While its partition is stopped it
waits. -/
def execWakeupMessage (i : Nat) (s : State) : Out :=
  match get? s.net.wakes i with
  | none => .refused (.notEnabled "WAKEUP_MESSAGE")
  | some w =>
    let gone (s : State) : State := (s.modNet fun n => { n with wakes := del n.wakes i }).endDrain w.core
    let stopped : Bool := match s.part? w.ti.part with
      | some v => (match v.gang with
        | .stopped _ => true
        | _ => false)
      | none => false
    if stopped then .refused (.notEnabled "WAKEUP_MESSAGE")
    else if w.dead then .next (gone s)
    else match w.pc with
      | none => .next (gone s)
      | some pc =>
        let c := s.core w.target
        if c.wakeQ.length < 16 && s.corePart w.target = some w.ti.part then
          let line : WakeLine := { pc := pc, x1 := w.dst, x2 := BitVec.ofNat 64 w.sender, ti := w.ti.wakeup }
          .next (gone ((s.modCore w.target fun c => { c with wakeQ := c.wakeQ ++ [line] }).startWakes w.target))
        else .refused (.notEnabled "WAKEUP_MESSAGE")

end Sys2Proof.Machine
end

