-- ==== Sys2Proof/Machine/Copy.lean ====
section
/-!
DEFINITION. The copy engine (R188 to R196, R205 to R207) with prefetches (R221), mailboxes (R197, R201, R202) and user-level interrupts (R203,
R204).
-/

namespace Sys2Proof.Machine

/-! The request words (R188, R189). -/

def CopyReq.kind (r : CopyReq) : Nat := fld r.w0 7 0

def CopyReq.fw (r : CopyReq) : Bool := r.w0.getLsbD 8

def CopyReq.qt (r : CopyReq) : Bool := r.w0.getLsbD 9

def CopyReq.nt (r : CopyReq) : Bool := r.w0.getLsbD 10

def CopyReq.param (r : CopyReq) : Nat := fld r.w0 31 16

/-- The byte or element count in w3. -/
def CopyReq.n (r : CopyReq) : Nat := fld r.w3 31 0

def hintOf (n : Nat) : Hint := Hint.ofBits (BitVec.ofNat 2 n)

/-- The engine as a reader and as a writer of a request. -/
def CopyReq.src (r : CopyReq) : Eng :=
  { core := some (r.slot / 8), part := r.ti.part, lv := r.lv, ti := r.ti, hint := hintOf (fld r.w0 12 11), waits := true }

def CopyReq.dst (r : CopyReq) : Eng := { r.src with hint := hintOf (fld r.w0 14 13) }

/-- The format words of a CONVERT. -/
def CopyReq.fs (r : CopyReq) : Option Fmt := Fmt.parse (r.w3.extractLsb' 32 16)

def CopyReq.fd (r : CopyReq) : Option Fmt := (Fmt.parse (r.w3.extractLsb' 48 16)).filter fun f => f.sk = 0

/-- R194: the bytes of a CONVERT's source elements, and of the scales that follow them. -/
def convSource (f : Fmt) (n : Nat) : Nat × Nat :=
  ((n * f.elem.width + 7) / 8, match f.sk with
    | 1 => n / f.bs
    | 2 => (12 * (n / f.bs) + 7) / 8
    | 3 => 4
    | _ => 0)

/-- R195, R196: FP32 or BF16, as the selections name it. -/
def selFmt (n : Nat) : Option (FloatFmt × Nat) :=
  match n with
  | 1 => some (fp32, 4)
  | 2 => some (bf16, 2)
  | _ => none

/-- R196: the inverse temperature is finite and positive. -/
def goodTemp (w : Nat) : Bool :=
  match fp32.decode w with
  | .fin s n _ _ => !s && decide (0 < n)
  | _ => false

/-- R190: the request completes REFUSED when it starts. -/
def CopyReq.refused (r : CopyReq) : Bool :=
  let p := r.param
  let top := fld r.w3 63 32 ≠ 0
  r.w0.getLsbD 15 || (r.fw && r.w2.toNat % 8 ≠ 0) || (match r.kind with
    | 0 | 3 => p ≠ 0 || top
    | 1 | 2 => decide (12 < p % 16) || r.w3.toNat % 4 ≠ 0
    | 4 => p ≠ 0 || (match r.fs, r.fd with
      | some fs, some _ => (fs.sk = 1 || fs.sk = 2) && r.n % fs.bs ≠ 0
      | _, _ => true)
    | 5 => p ≠ 0 || top || r.w2.toNat % 8 ≠ 0
    | 6 => decide (16 ≤ p) || (selFmt (p % 16)).isNone || r.w2 ≠ 0 || top || decide (0x100000 < r.n) || r.fw
    | 7 => decide (2048 ≤ p) || (selFmt (p % 16)).isNone || p / 16 % 128 = 0 || decide (64 < p / 16 % 128) || !goodTemp (fld r.w3 63 32)
    | _ => true)

/-- R190, R192: where the flag word of a request lies, if one is to be written. -/
def CopyReq.flagAt (r : CopyReq) : Option Word :=
  match r.what with
  | .words => if r.fw && r.w2.toNat % 8 = 0 && r.kind ≠ 6 then some (r.w2 - 8) else none
  | _ => none

/-! Moving bytes (R192, R193). -/

/-- What a request has written so far. -/
structure CopySt where
  s : State
  written : Nat
  refused : Bool
  stop : Option EngErr

/-- R192, R193: a chunk or an element is written: none of it where a word faults; the allowed words where some are refused. -/
def CopySt.put (e : Eng) (d : CopySt) (va : Word) (bs : List EByte) : CopySt :=
  if d.stop.isSome then d
  else match d.s.engFault e va bs.length with
    | (some x, s) => { d with s := s, stop := some x }
    | (none, s) => (cutWords va (bs.length / 8 + 2) bs).foldl (init := { d with s := s }) fun d p =>
      if d.stop.isSome then d
      else match d.s.engWriteWord e p.1 p.2 with
        | (.ok _, s) => { d with s := s, written := d.written + p.2.length }
        | (.error .refused, s) => { d with s := s, refused := true }
        | (.error x, s) => { d with s := s, stop := some x }

/-- A write that a request is to make, with the NaNs that its conversion took as zero. -/
structure CopyWrite where
  va : Word
  bs : List EByte
  nans : Nat

/-- R192: the whole source is read before any write: what `f` reads for each chunk or element, up to the first error. -/
def planOver {α : Type} (f : State → α → Except EngErr CopyWrite × State) (s : State) (l : List α) :
    List CopyWrite × Option EngErr × State :=
  l.foldl (init := ([], none, s)) fun r x =>
    if r.2.1.isSome then r
    else match f r.2.2 x with
      | (.ok w, s) => (r.1 ++ [w], none, s)
      | (.error e, s) => (r.1, some e, s)

/-- R193: what has been read is written, then the error that ended the reading stops the request. -/
def runPlan (e : Eng) (p : List CopyWrite × Option EngErr × State) : CopySt :=
  let d := p.1.foldl (init := { s := p.2.2, written := 0, refused := false, stop := none }) fun d w => d.put e w.va w.bs
  if d.stop.isSome then d else { d with stop := p.2.1 }

/-- R193: the 128-byte chunks of a destination, as offset and length. DESIGN CHOICE (log 74): they are its aligned 128-byte lines, not
counted from dst, which the spec leaves open. -/
def chunksOf (dst : Word) : Nat → Nat → Nat → List (Nat × Nat)
  | 0, _, _ => []
  | fuel + 1, o, n =>
    if n ≤ o then []
    else
      let c := min (n - o) (128 - (dst.toNat + o) % 128)
      (o, c) :: chunksOf dst fuel (o + c) n

def dstChunks (dst : Word) (n : Nat) : List (Nat × Nat) := chunksOf dst (n / 128 + 2) 0 n

/-- How a request ended: its state, what it reports, the bytes it wrote, and the fault it meets. -/
structure CopyOut where
  s : State
  status : Nat
  word1 : Nat
  written : Nat := 0
  extra : Nat
  tag : Nat
  fault : Option (TrapCode × Word)

/-- How a request ends, or what it waits for: the rollback pool (R339), or a page in a flip (R239). -/
abbrev CopyEnd := Except EngErr CopyOut

/-- R192, R193: the end of a request that reports `st` and `w1` where nothing stops it. -/
def CopySt.out (d : CopySt) (r : CopyReq) (st : Nat) (w1 : CopySt → Nat) : CopyEnd :=
  let o : CopyOut :=
    { s := d.s, status := if d.refused then 6 else st, word1 := w1 d, written := d.written, extra := 0, tag := fld r.w0 63 32, fault := none }
  match d.stop with
  | none => .ok o
  | some .refused => .ok { o with status := 6, word1 := d.written }
  | some (.fault c a _) => .ok { o with status := 6, word1 := d.written, fault := some (c, a) }
  | some x => .error x

def CopySt.start (s : State) : CopySt := { s := s, written := 0, refused := false, stop := none }

/-- A request that a read stopped before it wrote anything. -/
def CopySt.fail (s : State) (x : EngErr) : CopySt := { CopySt.start s with stop := some x }

/-- R190: the end of a refused request. -/
def CopyReq.refuse (r : CopyReq) (s : State) : CopyOut :=
  { s := s, status := 6, word1 := 0, extra := 0, tag := fld r.w0 63 32, fault := none }

/-! The kinds (R189). -/

/-- R189: COPY. -/
def copyCopy (s : State) (r : CopyReq) : CopyEnd :=
  let read (s : State) (c : Nat × Nat) : Except EngErr CopyWrite × State :=
    match s.engRead r.src (r.w1 + BitVec.ofNat 64 c.1) c.2 with
    | (.ok bs, s) => (.ok { va := r.w2 + BitVec.ofNat 64 c.1, bs := bs, nans := 0 }, s)
    | (.error x, s) => (.error x, s)
  (runPlan r.dst (planOver read s (dstChunks r.w2 r.n))).out r 0 (·.written)

/-- R189: GATHER and SCATTER. -/
def copyIndexed (gather : Bool) (s : State) (r : CopyReq) : CopyEnd :=
  let es := 2 ^ (r.param % 16)
  let read (s : State) (i : Nat) : Except EngErr CopyWrite × State :=
    match s.engReadClean r.src (r.w3 + BitVec.ofNat 64 (4 * i)) 4 with
    | (.error x, s) => (.error x, s)
    | (.ok ix, s) =>
      let j := bytesNat ix
      match s.engRead r.src (r.w1 + BitVec.ofNat 64 ((if gather then j else i) * es)) es with
      | (.ok bs, s) => (.ok { va := r.w2 + BitVec.ofNat 64 ((if gather then i else j) * es), bs := bs, nans := 0 }, s)
      | (.error x, s) => (.error x, s)
  (runPlan r.dst (planOver read s (List.range (r.param / 16)))).out r 0 (·.written)

/-- R189: FILL. -/
def copyFill (s : State) (r : CopyReq) : CopyEnd :=
  let pat := wordBytes r.w1
  let read (s : State) (c : Nat × Nat) : Except EngErr CopyWrite × State :=
    (.ok { va := r.w2 + BitVec.ofNat 64 c.1, bs := (List.range c.2).map fun j => (pat.getD ((c.1 + j) % 8) 0, false), nans := 0 }, s)
  (runPlan r.dst (planOver read s (dstChunks r.w2 r.n))).out r 0 (·.written)

/-- R189: HASH. -/
def copyHash (s : State) (r : CopyReq) : CopyEnd :=
  match s.engReadClean r.src r.w1 r.n with
  | (.error x, s) => (CopySt.fail s x).out r 0 fun _ => 16
  | (.ok bs, s) => ((CopySt.start s).put r.dst r.w2 (cleanBytes (shake256 bs 16))).out r 0 fun _ => 16

/-- A scale or element field of `w` bits at bit `b` of bytes that carry poison. -/
def ebits (bs : List EByte) (w b : Nat) : Nat × Bool :=
  let part := (bs.drop (b / 8)).take ((b % 8 + w + 7) / 8)
  (bytesNat (part.map (·.1)) / 2 ^ (b % 8) % 2 ^ w, part.any (·.2))

/-- R194: the scale bytes that elements `i0` to `i1 - 1` need: the first, and how many. -/
def convScales (f : Fmt) (i0 i1 : Nat) : Nat × Nat :=
  let g := i0 / f.bs
  let h := (i1 - 1) / f.bs + 1
  match f.sk with
  | 1 => (g, h - g)
  | 2 => (12 * g / 8, (12 * h + 7) / 8 - 12 * g / 8)
  | 3 => (0, 4)
  | _ => (0, 0)

/-- R194: the scale of element `i`, from the scale bytes from byte `o` on. -/
def convScale (f : Fmt) (sc : List EByte) (o i : Nat) : Val × Bool :=
  match f.sk with
  | 1 => let x := ebits sc 8 (8 * (i / f.bs - o)); (e8m0 x.1, x.2)
  | 2 => let x := ebits sc 12 (12 * (i / f.bs) - 8 * o); (ue8m4 x.1, x.2)
  | 3 => let x := ebits sc 32 0; (fp32.decode x.1, x.2)
  | _ => (.fin false 1 1 0, false)

/-- R194: element `i` converted: its code, whether it carries poison, and whether a NaN was taken as zero; `src` holds the source bytes from
bit `b0` on, and `sc` the scale bytes from byte `o` on. -/
def convElem (fs fd : Fmt) (ts td : Table) (src sc : List EByte) (b0 o i : Nat) : Nat × Bool × Nat :=
  let x := ebits src fs.elem.width (i * fs.elem.width - b0)
  let y := convScale fs sc o i
  let v := fs.decode ts x.1
  let z := nanAsZero fd.nz (if fs.sk = 0 then v else v.scale y.1)
  let fd := { fd with rm := if fd.rm = 3 then 0 else fd.rm }
  (fd.encode td 0 z.1, x.2 || (fs.sk ≠ 0 && y.2), z.2)

/-- Byte `o` of elements of width `w`, the first of which is element `i0`. -/
def packByte (w i0 o : Nat) (es : List (Nat × Bool × Nat)) : EByte :=
  if 8 ≤ w then
    let e := es.getD (o / (w / 8) - i0) (0, false, 0)
    (BitVec.ofNat 8 (e.1 / 2 ^ (8 * (o % (w / 8)))), e.2.1)
  else
    let a := es.getD (2 * o - i0) (0, false, 0)
    let b := es.getD (2 * o + 1 - i0) (0, false, 0)
    (BitVec.ofNat 8 (a.1 + 16 * b.1), a.2.1 || b.2.1)

/-- R193, R194: CONVERT; a chunk's source is its elements and the scales that they need. DESIGN CHOICE (log 74): the NaNs of a chunk that was
read but not written count in NANCNT, where the spec does not say. -/
def copyConvert (s : State) (r : CopyReq) : CopyEnd :=
  match r.fs, r.fd with
  | some fs, some fd =>
    let k := r.slot / 8
    let wd := fd.elem.width
    let ws := fs.elem.width
    let total := (r.n * wd + 7) / 8
    let sb := convSource fs r.n
    let read (s : State) (c : Nat × Nat) : Except EngErr CopyWrite × State :=
      let i0 := c.1 * 8 / wd
      let i1 := min r.n (((c.1 + c.2) * 8 + wd - 1) / wd)
      let b0 := i0 * ws / 8
      match s.engRead r.src (r.w1 + BitVec.ofNat 64 b0) ((i1 * ws + 7) / 8 - b0) with
      | (.error x, s) => (.error x, s)
      | (.ok src, s) => match s.engRead r.src (r.w1 + BitVec.ofNat 64 (sb.1 + (convScales fs i0 i1).1)) (convScales fs i0 i1).2 with
        | (.error x, s) => (.error x, s)
        | (.ok sc, s) =>
          let es := (List.range (i1 - i0)).map fun j =>
            convElem fs fd (s.table k fs.dt) (s.table k fd.dt) src sc (8 * b0) (convScales fs i0 i1).1 (i0 + j)
          -- an element that straddles two chunks counts in the one that holds its first bit
          let n := (((List.range (i1 - i0)).zip es).map fun p => if c.1 * 8 ≤ (i0 + p.1) * wd then p.2.2.2 else 0).sum
          (.ok { va := r.w2 + BitVec.ofNat 64 c.1, bs := (List.range c.2).map fun j => packByte wd i0 (c.1 + j) es, nans := n }, s)
    let plan := planOver read s (dstChunks r.w2 total)
    let d := runPlan r.dst plan
    let nans := (plan.1.map (·.nans)).sum
    let d : CopySt := { d with s := d.s.addNan r.slot nans }
    (d.out r 0 (·.written)).map fun o =>
      if d.stop.isNone && !d.refused then { o with word1 := total } else o
  | _, _ => .ok (r.refuse s)

/-! Selections (R195, R196, R205). -/

/-- R195: a weight: NaN and values below 0 count as 0. -/
def weightOf (v : Val) : Val := if v.isNan || v.lt (.zero false) then .zero false else v

/-- R195: the weights; one that is +∞ makes every finite one 0. -/
def weightsOf (vs : List Val) : List Val :=
  let ws := vs.map weightOf
  if ws.any fun w => w.eq (.inf false) then ws.map fun w => if w.eq (.inf false) then .fin false 1 1 0 else .zero false else ws

/-- R195: the first index whose prefix sum passes u / 2^32 of the sum `total`. -/
def selectFrom (u : Nat) (total : Val) : Nat → Val → List Val → Option Nat
  | _, _, [] => none
  | i, p, w :: t =>
    let p := p.add w
    if (Val.zero false).lt w && ((Val.ofInt u).mul total).lt (p.mul (.fin false 1 1 32)) then some i else selectFrom u total (i + 1) p t

/-- R195: the index selected by the draw `u`; none is MISS. -/
def selectIdx (u : Nat) (ws : List Val) : Option Nat :=
  let total := ws.foldl Val.add (.zero false)
  if total.eq (.zero false) then none else selectFrom u total 0 (.zero false) ws

/-- `n` elements of format `f` from clean bytes. -/
def floatElems (f : FloatFmt) (w : Nat) (bs : List Byte) (n : Nat) : List Val :=
  (List.range n).map fun i => f.decode (bytesNat ((bs.drop (w * i)).take w))

/-- R195: SELACC. -/
def copySelacc (s : State) (r : CopyReq) : CopyEnd :=
  match selFmt (r.param % 16) with
  | none => .ok (r.refuse s)
  | some (f, w) => match s.engReadClean r.src r.w1 (w * r.n) with
    | (.error x, s) => (CopySt.fail s x).out r 0 fun _ => 0
    | (.ok bs, s) => match selectIdx r.u1.toNat (weightsOf (floatElems f w bs r.n)) with
      | some i => (CopySt.start s).out r 0 fun _ => i
      | none => (CopySt.start s).out r 5 fun _ => 0xFFFFFFFF

/-- R196: the ranked candidates with (index, value) put in, the first `k` kept. -/
def rankInsert (k : Nat) (c : Nat × Val) (l : List (Nat × Val)) : List (Nat × Val) :=
  let rec go : List (Nat × Val) → List (Nat × Val)
    | [] => [c]
    | d :: t => if d.2.lt c.2 then c :: d :: t else d :: go t
  (go l).take k

/-- R196: the weight of a kept logit, as an FP32 code. -/
def selWeight (m invT v : Val) : Nat :=
  let one := fp32.encode 0 0 (.fin false 1 1 0)
  if m.eq (.inf false) then (if v.eq (.inf false) then one else 0)
  else fp32.encode 0 0 (sfnValue .exp (fp32.decode (fp32.encode 0 0 ((v.add m.neg).mul invT))))

/-- R196: SELMEM. -/
def copySelmem (s : State) (r : CopyReq) : CopyEnd :=
  match selFmt (r.param % 16) with
  | none => .ok (r.refuse s)
  | some (f, w) => match s.engReadClean r.src r.w1 (w * r.n) with
    | (.error x, s) => (CopySt.fail s x).out r 0 fun _ => 0
    | (.ok bs, s) =>
      let k := r.param / 16 % 128
      let vs := floatElems f w bs r.n
      let top := ((List.range vs.length).zip vs).foldl (init := []) fun l c =>
        if c.2.isNan || c.2.eq (.inf true) then l else rankInsert k c l
      let m := (top.map (·.2)).headD (.zero false)
      let ws := top.map fun c => selWeight m (fp32.decode (fld r.w3 63 32)) c.2
      let recs := (top.zip ws).flatMap fun p => natBytes 4 p.1.1 ++ natBytes 4 p.2
      let chunks := (dstChunks r.w2 recs.length).map fun c =>
        ({ va := r.w2 + BitVec.ofNat 64 c.1, bs := cleanBytes ((recs.drop c.1).take c.2), nans := 0 } : CopyWrite)
      let d := runPlan r.dst (chunks, none, s)
      match selectIdx r.u1.toNat (ws.map fun x => fp32.decode x) with
      | some j => d.out r 0 fun _ => ((top.map (·.1)).getD j 0) + j * 2 ^ 32 + top.length * 2 ^ 40
      | none => d.out r 5 fun _ => 0xFFFFFFFF

/-- R205: an element of p or q: NaN, ∞ and values below 0 count as 0. -/
def probOf (v : Val) : Val :=
  match v with
  | .fin false n d e => .fin false n d e
  | _ => .zero false

/-- R205: the test and the selection of TOKACC, once p(t) and q(t) are known. -/
def tokAccept (u1 : Nat) (P Q : Val) : Bool × Bool :=
  let z := Val.zero false
  if Q.eq z then (z.lt P, true) else (((Val.ofInt u1).mul Q).lt (P.mul (.fin false 1 1 32)), false)

/-- R205: TOKACC, of the descriptor at `desc` and the token in `draft`. -/
def copyTokacc (desc draft : Word) (s : State) (r : CopyReq) : CopyEnd :=
  let bad (s : State) (tag : Nat) : CopyOut := { s := s, status := 6, word1 := 0xFFFFFFFF, extra := 0, tag := tag, fault := none }
  let fail (s : State) (x : EngErr) (tag : Nat) : CopyEnd :=
    ((CopySt.fail s x).out r 6 fun _ => 0).map fun o => { o with tag := tag }
  if desc.toNat % 8 ≠ 0 then .ok (bad s 0xFFFFFFFF)
  else match s.engReadClean r.src desc 32 with
    | (.error x, s) => fail s x 0xFFFFFFFF
    | (.ok bs, s) =>
      let p := wordAt bs 0
      let q := wordAt bs 1
      let vf := wordAt bs 2
      let n := fld vf 31 0
      let tag := fld (wordAt bs 3) 31 0
      let t := draft.toNat
      match selFmt (fld vf 35 32) with
      | none => .ok (bad s tag)
      | some (f, w) =>
        if fld vf 63 36 ≠ 0 || fld (wordAt bs 3) 63 32 ≠ 0 || n = 0 || 0x100000 < n || n ≤ t then .ok (bad s tag)
        else
          let elems (s : State) (a : Word) (i m : Nat) : Except EngErr (List Val) × State :=
            match s.engReadClean r.src (a + BitVec.ofNat 64 (w * i)) (w * m) with
            | (.ok bs, s) => (.ok ((floatElems f w bs m).map probOf), s)
            | (.error x, s) => (.error x, s)
          let draftElems (s : State) (i m : Nat) : Except EngErr (List Val) × State :=
            if q = 0 then (.ok ((List.range m).map fun j => if i + j = t then .fin false 1 1 0 else .zero false), s) else elems s q i m
          match elems s p t 1 with
          | (.error x, s) => fail s x tag
          | (.ok P, s) => match draftElems s t 1 with
            | (.error x, s) => fail s x tag
            | (.ok Q, s) =>
              let (acc, zq) := tokAccept r.u1.toNat (P.headD (.zero false)) (Q.headD (.zero false))
              let b (x : Bool) (v : Nat) : Nat := if x then v else 0
              if acc then .ok { s := s, status := 0, word1 := t, extra := 1 + b zq 2, tag := tag, fault := none }
              else match elems s p 0 n with
                | (.error x, s) => fail s x tag
                | (.ok ps, s) => match draftElems s 0 n with
                  | (.error x, s) => fail s x tag
                  | (.ok qs, s) =>
                    let rs := ps.zipWith (fun a c => Val.max (.zero false) (a.add c.neg)) qs
                    match selectIdx r.u2.toNat rs with
                    | some j => .ok { s := s, status := 0, word1 := j, extra := b zq 2, tag := tag, fault := none }
                    | none => .ok { s := s, status := 5, word1 := 0xFFFFFFFF, extra := b zq 2, tag := tag, fault := none }

/-- R221: the lines of a prefetch, from the first: one that translates to device memory is placed or touched at its home, one that translates
elsewhere is skipped, and one that fails translation ends the request (log 27). The request waits while a page that it is to touch is in a
flip (R239): none. -/
def pftLines (e : Eng) (s : State) : List Word → Option State
  | [] => some s
  | va :: t => match s.engXlate e .r va with
    | (.ok (pa, some f), s) =>
      if f.tgt ≠ 0 then pftLines e s t
      else if s.pageBusy pa then none
      else pftLines e (s.llcAccess (lineAddr pa) e.hint e.ti.tenant false) t
    | (.ok (_, none), s) | (.error .refused, s) => pftLines e s t
    | (.error _, s) => some s

/-- R221: a prefetch; it waits where its descriptor or a line of it does (R239). -/
def copyPft (desc : Word) (h : Hint) (s : State) (r : CopyReq) : Option State :=
  if desc.toNat % 8 ≠ 0 then some s
  else match s.engReadClean r.src desc 32 with
    | (.error .busy, _) => none
    | (.error _, s) => some s
    | (.ok bs, s) =>
      let base := wordAt bs 0
      let w := wordAt bs 1
      let n := fld w 31 0
      let rows := (List.range (fld w 63 48)).flatMap fun j2 => (List.range (fld w 47 32)).map fun j1 =>
        base + BitVec.ofNat 64 j2 * wordAt bs 3 + BitVec.ofNat 64 j1 * wordAt bs 2
      pftLines { r.src with hint := h } s (rows.flatMap fun row =>
        let first := row.toNat / 128
        (List.range (if n = 0 then 0 else (row.toNat + n + 127) / 128 - first)).map fun j => BitVec.ofNat 64 (128 * (first + j)))

/-! Issue (R200, R205, R221). -/

/-- What the slot's push finds: OK, FULL or BUSY (R200). -/
def State.pushStatus (s : State) (i : Nat) (need : Bool) : Nat :=
  let sl := s.slot i
  if 8 ≤ (s.core (i / 8)).cpy.fifo.length then 2
  else if 15 ≤ sl.cnt.cp || (need && 16 ≤ sl.mbox.length + sl.mboxRsv) then 1
  else 0

/-- R200: a request is pushed. -/
def State.pushReq (s : State) (i : Nat) (what : CopyWhat) (w0 w1 w2 w3 : Word) (need : Bool) (nd : Nat) : State :=
  let sl := s.slot i
  let (ds, s) := s.takeDraws (i / 8) nd
  let (n, s) := s.newId
  let r : CopyReq :=
    { slot := i, pc := sl.pc, ti := sl.task, lv := sl.lv, what := what, w0 := w0, w1 := w1, w2 := w2, w3 := w3
      u1 := ds.getD 0 0, u2 := ds.getD 1 0, order := n, issued := s.dclk, dead := false }
  let s := s.modCore (i / 8) fun c => { c with cpy := { fifo := c.cpy.fifo ++ [r] } }
  (s.incCnt i .cp).modSlot i fun sl => { sl with mboxRsv := if need then sl.mboxRsv + 1 else sl.mboxRsv }

/-- R206: the ranges that a request of a pure task names: address, bytes, and whether it writes there. -/
def pureRanges (r : CopyReq) : List (Word × Nat × Bool) :=
  let flag := if r.fw then [(r.w2 - 8, 8, true)] else []
  (match r.kind with
    | 0 => [(r.w1, r.n, false), (r.w2, r.n, true)]
    | 3 => [(r.w2, r.n, true)]
    | 4 => match r.fs, r.fd with
      | some fs, some fd =>
        let sb := convSource fs r.n
        [(r.w1, sb.1 + sb.2, false), (r.w2, (r.n * fd.elem.width + 7) / 8, true)]
      | _, _ => []
    | 5 => [(r.w1, r.n, false), (r.w2, 16, true)]
    | _ => []) ++ flag

/-- R206: the request may be pushed by the pure task of slot `i`. -/
def State.pureReq (s : State) (i : Nat) (r : CopyReq) : Bool :=
  !(r.kind = 1 || r.kind = 2 || r.kind = 6 || r.kind = 7) && (pureRanges r).all fun p => s.pureCheck i p.2.2 p.1 p.2.1

/-- R200: the request in the registers of group `q` (x4q to x4q+3). -/
def State.reqOf (s : State) (i : Nat) (q : BitVec 3) : CopyReq :=
  let sl := s.slot i
  let w (j : Nat) : Word := sl.readX (BitVec.ofNat 5 (4 * q.toNat + j))
  { slot := i, pc := sl.pc, ti := sl.task, lv := sl.lv, what := .words, w0 := w 0, w1 := w 1, w2 := w 2, w3 := w 3
    u1 := 0, u2 := 0, order := 0, issued := 0, dead := false }

/-- R200: the push of CPY and CPYT. -/
def State.pushWords (s : State) (i : Nat) (r : CopyReq) : State :=
  let d : BitVec 2 := if r.kind = 4 then dtuseOf [r.w3.extractLsb' 32 16, r.w3.extractLsb' 48 16] else 0
  let s := s.pushReq i .words r.w0 r.w1 r.w2 r.w3 (!r.qt) (if r.kind = 6 || r.kind = 7 then 1 else 0)
  s.modSlot i fun sl => { sl with task := { sl.task with dtuse := sl.task.dtuse ||| d } }

/-- R206: the purity check of a request, then `go`. -/
def State.withPure (s : State) (i : Nat) (r : CopyReq) (go : State → State) : State :=
  if (s.slot i).task.pure && !s.pureReq i r then s.trapAt i .purity else go s

/-- R200: CPY. -/
def execCpy (q : BitVec 3) (s : State) : Out :=
  let i := s.cur
  let r := s.reqOf i q
  .next (s.withPure i r fun s =>
    if s.pushStatus i (!r.qt) ≠ 0 then s.stallHead i else (s.pushWords i r).complete i)

/-- R200: CPYT. -/
def execCpyt (d : Reg) (q : BitVec 3) (s : State) : Out :=
  let i := s.cur
  let r := s.reqOf i q
  .next (s.withRegs i [] [d] fun s => s.withPure i r fun s =>
    let st := s.pushStatus i (!r.qt)
    (if st = 0 then s.pushWords i r else s).writeDone i [] d (BitVec.ofNat 64 st))

/-- R202: MBXPOP, of the pair x2p and x2p+1. -/
def execMbxpop (p : BitVec 4) (s : State) : Out :=
  let i := s.cur
  let d (j : Nat) : Reg := .x (BitVec.ofNat 5 (2 * p.toNat + j))
  .next (match (s.slot i).mbox with
    | [] => ((s.writeReg i (d 0) 0x5FF).writeReg i (d 1) 0).complete i
    | m :: t => (((s.modSlot i fun sl => { sl with mbox := t }).writeReg i (d 0) m.w0).writeReg i (d 1) m.w1).complete i)

/-- R201: WFM. -/
def execWfm (s : State) : Out :=
  .next (if (s.slot s.cur).mbox.isEmpty then s.parkOn s.cur .wfm else s.complete s.cur)

/-- R203: UIEN. -/
def execUien (d a b : Reg) (s : State) : Out :=
  let i := s.cur
  .next (s.withRegs i [a, b] [d] fun s =>
    let on := (s.rv b).getLsbD 0
    let pc := s.rv a
    let old := (s.slot i).ctl.uictl
    (s.modSlot i fun sl => { sl with ctl := { sl.ctl with
      uivec := if on then pc else sl.ctl.uivec
      uictl := (sl.ctl.uictl &&& 2) ||| (if on then 1 else 0) } }).writeDone i [a, b] d (old.setWidth 64))

/-- R203: UIRET. -/
def execUiret (s : State) : Out :=
  let i := s.cur
  .next (if !(s.slot i).inUi then s.trapAt i .privilege
    else
      let pc := (s.slot i).pc
      (s.modSlot i fun sl => { sl.enter sl.ctl.uipc sl.pc with
        st := .ready, hold := .none, ctl := { sl.ctl with uictl := sl.ctl.uictl &&& 1 } }).stepTrap i pc)

/-- R205: TOKACC. -/
def execTokacc (a b : Reg) (imm : BitVec 16) (s : State) : Out :=
  let i := s.cur
  .next (s.withRegs i [a, b] [] fun s => s.needImpure fun s =>
    if s.pushStatus i true ≠ 0 then s.stallHead i
    else (((s.pushReq i (.tokacc (s.ea a imm) (s.rv b)) 8 0 0 0 true 2).popPorts i [a, b])).complete i)

/-- R221: PFT. -/
def execPft (a : Reg) (imm : BitVec 16) (h : Hint) (s : State) : Out :=
  let i := s.cur
  .next (s.withRegs i [a] [] fun s =>
    if s.pushStatus i false ≠ 0 then s.stallHead i
    else ((s.pushReq i (.pft (s.ea a imm) h) 0x200 0 0 0 false 0).popPorts i [a]).complete i)

/-! Service (R191, R192). -/

/-- The long-mode commands of slot `i` that are not complete. -/
def State.lvOpen (s : State) (i : Nat) : List Latch :=
  let o := octetOf (i / 8)
  (match (s.slot i).latch with
    | some l => if l.long && !l.sent then [l] else []
    | none => []) ++
  (match s.window? i with
    | some w => (s.win o w).queue.map (·.cmd)
    | none => []) ++
  (match (s.oct o).lvRun with
    | some r => if r.cmd.slot = i && !r.dead then [r.cmd.cmd] else []
    | none => [])

/-- R192, R234: the request's slot has performed every access that it issued before it, those of long-mode commands among them. -/
def State.storesDone (s : State) (r : CopyReq) : Bool :=
  (s.slot r.slot).pend.all (fun a => r.order < a.id) && (s.lvOpen r.slot).all fun l => r.issued < l.issued || (lvCnt l.instr).isNone

/-- R191: the request at the head of core `k`'s FIFO that may start, in round robin. -/
def State.copyHead (s : State) (k : Nat) : Option CopyReq :=
  let o := octetOf k
  let c := (s.oct o).cpy
  let head (j : Nat) : Option CopyReq := ((s.core (8 * o + j)).cpy.fifo.head?).filter fun r => s.storesDone r && !s.replays (8 * o + j)
  let next := ((List.range 8).map fun j => (c.last + 1 + j) % 8).find? fun j => (head j).isSome
  let runs : Bool := match (s.oct o).part with
    | some p => s.partRuns p
    | none => false
  if !runs || 8 ≤ c.flight.length || c.started = s.dclk / 2 + 1 || next ≠ some (k % 8) then none else head (k % 8)

/-- R191: the engine starts the request at the head of core `k`'s FIFO, if `mine` says that it is of the kind, by the effect `go`. -/
def State.startCopy (s : State) (k : Nat) (name : String) (mine : CopyReq → Bool) (go : State → CopyReq → CopyEnd) : Out :=
  match s.copyHead k with
  | none => .refused (.notEnabled name)
  | some r =>
    if !mine r then .refused (.notEnabled name)
    else match go s r with
      | .error .poolFull => match s.poolPressure r.ti.part r.ti.ownEvent with
        | some s => .next s
        | none => .refused (.notEnabled name)
      | .error _ => .refused (.notEnabled name)
      | .ok out =>
        let run : CopyRun :=
          { core := k, req := r, status := BitVec.ofNat 8 out.status, tag := BitVec.ofNat 32 out.tag, extra := BitVec.ofNat 2 out.extra
            word1 := BitVec.ofNat 64 out.word1, wrote := BitVec.ofNat 64 out.written, flag := r.flagAt, fault := out.fault }
        let s := out.s.modCore k fun c => { c with cpy := { fifo := c.cpy.fifo.drop 1 } }
        .next (s.modOct (octetOf k) fun v => { v with cpy :=
          { flight := v.cpy.flight ++ [run], last := k % 8, started := s.dclk / 2 + 1 } })

/-- A request of CPY or CPYT of kind `n`. -/
def isKind (n : Nat) (r : CopyReq) : Bool :=
  match r.what with
  | .words => r.kind = n
  | _ => false

/-- R190: a request of CPY or CPYT: refused when it starts, or run. -/
def orRefused (go : State → CopyReq → CopyEnd) (s : State) (r : CopyReq) : CopyEnd :=
  if r.refused then .ok (r.refuse s) else go s r

/-- R189, R190: COPY; a reserved KIND starts, and is refused, in the same way. -/
def execCopyKindCopy (k : Nat) (s : State) : Out :=
  s.startCopy k "COPY_KIND_COPY" (fun r => isKind 0 r || (match r.what with
    | .words => decide (9 ≤ r.kind)
    | _ => false)) (orRefused copyCopy)

/-- R189: GATHER. -/
def execCopyKindGather (k : Nat) (s : State) : Out := s.startCopy k "COPY_KIND_GATHER" (isKind 1) (orRefused (copyIndexed true))

/-- R189: SCATTER. -/
def execCopyKindScatter (k : Nat) (s : State) : Out := s.startCopy k "COPY_KIND_SCATTER" (isKind 2) (orRefused (copyIndexed false))

/-- R189: FILL. -/
def execCopyKindFill (k : Nat) (s : State) : Out := s.startCopy k "COPY_KIND_FILL" (isKind 3) (orRefused copyFill)

/-- R194: CONVERT. -/
def execCopyKindConvert (k : Nat) (s : State) : Out := s.startCopy k "COPY_KIND_CONVERT" (isKind 4) (orRefused copyConvert)

/-- R189: HASH. -/
def execCopyKindHash (k : Nat) (s : State) : Out := s.startCopy k "COPY_KIND_HASH" (isKind 5) (orRefused copyHash)

/-- R195: SELACC. -/
def execCopyKindSelacc (k : Nat) (s : State) : Out := s.startCopy k "COPY_KIND_SELACC" (isKind 6) (orRefused copySelacc)

/-- R196: SELMEM. -/
def execCopyKindSelmem (k : Nat) (s : State) : Out := s.startCopy k "COPY_KIND_SELMEM" (isKind 7) (orRefused copySelmem)

/-- R205: TOKACC; KIND 0x08 that came through CPY or CPYT is refused (R190). -/
def execCopyKindTokacc (k : Nat) (s : State) : Out :=
  s.startCopy k "COPY_KIND_TOKACC" (fun r => match r.what with
    | .tokacc .. => true
    | .words => r.kind = 8
    | .pft .. => false) fun s r => match r.what with
      | .tokacc d t => copyTokacc d t s r
      | _ => .ok (r.refuse s)

/-- R221: a prefetch. -/
def execPrefetchRequest (k : Nat) (s : State) : Out :=
  s.startCopy k "PREFETCH_REQUEST" (fun r => match r.what with
    | .pft .. => true
    | _ => false) fun s r => match r.what with
      | .pft d h => match copyPft d h s r with
        | some s => .ok (r.refuse s)
        | none => .error .busy
      | _ => .error .refused

/-- R193: the operands of a copy COPROC. -/
def CopyRun.ops (r : CopyRun) (c : TrapCode) : Word :=
  BitVec.ofNat 64 (c.num + r.req.kind * 2 ^ 8 + r.tag.toNat * 2 ^ 32)

/-- R193: the issuing slot is to take COPROC, unless NT = 1 or its task was cancelled. -/
def State.copyFault (s : State) (r : CopyRun) (c : TrapCode) (addr : Word) : State :=
  if r.req.dead || r.req.nt then s
  else s.raise r.req.slot (.engine r.req.order r.req.ti.task r.req.pc addr (r.ops c))

def State.setFlight (s : State) (o : Nat) (l : List CopyRun) : State := s.modOct o fun v => { v with cpy := { v.cpy with flight := l } }

/-- R193: request `i` in flight meets its fault. -/
def execCopyRequestFault (o i : Nat) (s : State) : Out :=
  match (s.oct o).cpy.flight[i]? with
  | none => .refused (.notEnabled "COPY_REQUEST_FAULT")
  | some r => match r.fault with
    | none => .refused (.notEnabled "COPY_REQUEST_FAULT")
    | some (c, a) => .next ((s.setFlight o ((s.oct o).cpy.flight.set i { r with fault := none })).copyFault r c a)

/-- R190: the request is one that the engine refuses at its start, for which no COPROC is taken. -/
def CopyReq.refusedAtStart (r : CopyReq) : Bool :=
  match r.what with
  | .words => r.refused
  | _ => false

/-- R192, R193: the flag word of a request: the status and word 1 that it leaves, or what it waits for. A flag word that faults makes the
status REFUSED and word 1 the bytes written. DESIGN CHOICE (log 74): where the request has already met a fault, that of its flag word raises a
COPROC of its own. -/
def State.writeFlag (s : State) (r : CopyRun) : Except EngErr ((Nat × Word) × State) :=
  match r.flag with
  | none => .ok ((r.status.toNat, r.word1), s)
  | some a =>
    let v := if r.status = 0 || r.status = 5 then r.word1 else allOnes
    match s.engWrite r.req.dst a (cleanBytes (wordBytes v)) with
    | (.ok false, s) => .ok ((r.status.toNat, r.word1), s)
    | (.ok true, s) => .ok ((6, r.word1), s)
    | (.error (.fault c x _), s) => .ok ((6, r.wrote), if r.req.refusedAtStart then s else s.copyFault r c x)
    | (.error x, _) => .error x

/-- R197, R205: the message of a request. -/
def CopyRun.msg (r : CopyRun) (st : Nat × Word) : Msg :=
  { w0 := BitVec.ofNat 64 (r.req.kind + st.1 * 2 ^ 8 + r.extra.toNat * 2 ^ 16 + r.tag.toNat * 2 ^ 32), w1 := st.2 }

/-- R192: request `i` in flight completes: its flag word, its message, and the fall of cp. -/
def execCopyRequestComplete (o i : Nat) (s : State) : Out :=
  let l := (s.oct o).cpy.flight
  match l[i]? with
  | none => .refused (.notEnabled "COPY_REQUEST_COMPLETE")
  | some r =>
    if r.fault.isSome || (l.take i).any fun q => q.core = r.core then .refused (.notEnabled "COPY_REQUEST_COMPLETE")
    else
      let gone (s : State) : State := s.setFlight o (l.eraseIdx i)
      let j := r.req.slot
      if r.req.dead then .next ((gone s).decCnt j .cp)
      else match s.writeFlag r with
        | .error .poolFull => match s.poolPressure r.req.ti.part r.req.ti.ownEvent with
          | some s => .next s
          | none => .refused (.notEnabled "COPY_REQUEST_COMPLETE")
        | .error _ => .refused (.notEnabled "COPY_REQUEST_COMPLETE")
        | .ok (st, s) =>
          let s := gone s
          let s := if r.req.qt then s else s.postMsg j (r.msg st)
          .next (s.decCnt j .cp)

/-! User-level interrupts (R204). -/

/-- R204: the PC that the interrupt saves for slot `sl`, where it may be interrupted. -/
def Slot.uiResume (sl : Slot) : Option Word :=
  if !sl.ctl.uictl.getLsbD 0 || sl.inUi || sl.inh || sl.mbox.isEmpty then none
  else match sl.st, sl.park, sl.hold with
    | .ready, _, _ => some sl.pc
    | .stall, _, .none => some sl.pc
    | .waiting, _, _ => some sl.pc
    | .parked, .wfm, _ => some sl.npc
    | .parked, .park, _ => some sl.npc
    | _, _, _ => none

/-- R204: slot `sl` of core `k` takes its user-level interrupt at its turn. DESIGN CHOICE (log 61): R60 gives ADDR of a trap on the first line
entry of the handler as the PC at which the interrupt was taken; for a slot parked by WFM or PARK that is the PC of that head, not the next
one that UIPC holds. -/
def execUiEntry (k sl : Nat) (s : State) : Out :=
  let i := 8 * k + sl
  match (s.slot i).uiResume with
  | none => .refused (.notEnabled "UI_ENTRY")
  | some pc => .next (s.modSlot i fun v => { v.enter v.ctl.uivec v.pc with
      st := .ready, park := .none, hold := .none, req := .none, found := .none
      ctl := { v.ctl with uipc := pc, uictl := v.ctl.uictl ||| 2 } })

end Sys2Proof.Machine
end

