-- ==== Sys2Proof/Machine/Network.lean ====
section
/-!
DEFINITION. Links, streams and collectives (R342 to R365): the mesh and the Frerrayx ports, virtual streams and markers, and collectives.
-/

namespace Sys2Proof.Machine

/-- R359, R360: a plan for one chunk of a collective of `n` ranks: which two values each of its n - 1 steps combines (log 8). -/
def State.plan (s : State) (n : Nat) : List Nat × State := s.visit (fun s _ => s.choose) (List.range (2 * (n - 1)))

/-! Frerrayx flits (R343 to R345). -/

/-- R343: the CRC-64 of ECMA-182, most significant bit first, from 0. -/
def crc64Byte (c : Word) (b : Byte) : Word :=
  (List.range 8).foldl (init := c ^^^ (b.setWidth 64 <<< 56)) fun c _ =>
    if c.msb then (c <<< 1) ^^^ 0x42F0E1EBA9EA3693 else c <<< 1

def crc64 (bs : List Byte) : Word := bs.foldl crc64Byte 0

/-- R343: the first word of a flit: CLASS, STREAM, DMOD, SMOD, NW, SEQ, CRED. -/
def LinkMsg.word0 (m : LinkMsg) (seq : BitVec 16) (cred : List Nat) : Word :=
  BitVec.ofNat 64 (m.cls + m.stream * 2 ^ 4 + m.dmod * 2 ^ 16 + m.smod * 2 ^ 22 + m.pay.length * 2 ^ 28 + seq.toNat * 2 ^ 32 +
    (cred.zipIdx.map fun c => c.1 * 2 ^ (48 + 4 * c.2)).sum)

/-- R343: a flit. -/
def LinkMsg.flit (m : LinkMsg) (seq : BitVec 16) (cred : List Nat) : BitVec 1024 :=
  let body := wordBytes (m.word0 seq cred) ++ (wordsBytes m.pay ++ List.replicate 112 0).take 112
  BitVec.ofNat 1024 (bytesNat (body ++ wordBytes (crc64 body)))

def flitBytes (f : BitVec 1024) : List Byte := natBytes 128 f.toNat

/-- R343: what a flit carries. -/
def linkMsg (bs : List Byte) : LinkMsg :=
  let w := wordAt bs 0
  { cls := fld w 3 0, stream := fld w 15 4, dmod := fld w 21 16, smod := fld w 27 22
    pay := (List.range (min 14 (fld w 31 28))).map fun j => wordAt bs (j + 1) }

/-- R343: the SEQ of a flit. -/
def flitSeq (bs : List Byte) : BitVec 16 := BitVec.ofNat 16 (fld (wordAt bs 0) 47 32)

/-- R343: the credits that a flit returns for class `c`. -/
def flitCred (bs : List Byte) (c : Nat) : Nat := fld (wordAt bs 0) (51 + 4 * c) (48 + 4 * c)

/-- R345: the oldest of class `c` that waits, where the port holds a credit for it. -/
def FPort.next (f : FPort) (c : Nat) : Option LinkMsg :=
  if f.cred.getD c 0 = 0 then none else f.queue.find? (·.cls = c)

/-- R345: what leaves next: class 3, then class 2, then classes 0 and 1 in turn. -/
def FPort.choice (f : FPort) : Option LinkMsg :=
  let (a, b) := if f.odd then (1, 0) else (0, 1)
  (((f.next 3).or (f.next 2)).or (f.next a)).or (f.next b)

/-- R345: one more flit of class `c` finds a credit. -/
def FPort.hasRoom (f : FPort) (c n : Nat) : Bool := decide ((f.queue.filter (·.cls = c)).length + n ≤ f.cred.getD c 0)

/-- R343 to R345: in a core cycle a port sends one flit: it takes a credit of its class, returns what the port owes, and stays in the replay
buffer. -/
def State.linkCycle (s : State) (n : Nat) : State :=
  let f := s.fport n
  match if f.up then f.choice else none with
  | none => s
  | some m =>
    let back := f.owed.toList.map (min 15)
    let flit := m.flit f.txSeq back
    let s := s.setFport n { f with
      flits := f.flits + 1, txSeq := f.txSeq + 1
      cred := f.cred.setIfInBounds m.cls (f.cred.getD m.cls 0 - 1)
      owed := f.owed.map fun c => c - min 15 c
      odd := if m.cls < 2 then m.cls = 0 else f.odd
      queue := f.queue.erase m
      sent := (f.sent ++ [flit]).drop (f.sent.length - 63) }
    s.modNet fun x => { x with linkOut := x.linkOut ++ [(n, flit)] }

/-- R344: the peer of port `n` asks for a replay: the flits from that SEQ on are repeated from the replay buffer. -/
def State.repeatFrom (s : State) (n : Nat) (seq : BitVec 16) : State :=
  let again := (s.fport n).sent.dropWhile fun f => flitSeq (flitBytes f) ≠ seq
  s.modNet fun x => { x with linkOut := x.linkOut ++ again.map fun f => (n, f) }

/-- R344, R360: the collective sequencer hears that port `n` changed its width or is down. A running collective of a member on a module that no
port leads to any more ends with REFUSED, its remaining chunks unwritten; of another with DET = 0 and members on other modules the remaining
chunks are planned again. -/
def State.linkReport (s : State) : State :=
  s.net.colls.foldl (init := s) fun s e =>
    let v := e.2
    let far := (v.members.filter (·.post.isNone)).map (·.mod)
    let cut := far.any fun m => (s.routePort m v.stream).isNone || (s.routePort m (v.stream + 1)).isNone
    if far.isEmpty then s
    else if cut then s.modNet fun x => { x with
      colls := put x.colls e.1 { v with members := v.members.map fun m => if m.done then m else { m with status := 6 } }
      chunks := x.chunks.filter fun c => c.2.coll ≠ e.1 }
    else if v.det then s
    else
      let pieces := ((s.net.chunks.filter fun c => c.2.coll = e.1).map (·.2.piece)).eraseDups
      let (plans, s) := s.visit (fun s j => let (l, s) := s.plan v.members.length; ((j, l), s)) pieces
      s.modNet fun x => { x with chunks := mapVals (fun _ c =>
        if c.coll = e.1 then { c with plan := look plans c.piece c.plan } else c) x.chunks }

/-- R304: an event message from its 64 bytes. -/
def evMsgOf (bs : List Byte) : EvMsg :=
  let w1 := wordAt bs 1
  let w2 := wordAt bs 2
  { ts := wordAt bs 0, sel := BitVec.ofNat 32 (fld w1 63 32), ext := w1.getLsbD 26, col := w1.getLsbD 25, sign := w1.getLsbD 24
    rcv := fld w1 23 0, seq := fld w2 63 32, snd := fld w2 31 0, stime := wordAt bs 3, pay := (bs.drop 32).take 32 }

/-- R329, R345: a message of class 2 from module `m` enters the partition whose GVT domain holds that module and its receiver. -/
def State.linkEvent (s : State) (m : Nat) (e : EvMsg) : Option State :=
  (s.parts.find? fun p => (p.2.newt.domain.any fun x => x.1 = m) && (get? p.2.newt.agents e.rcv).isSome).map fun p =>
    let home := match get? p.2.newt.agents e.rcv with
      | some a => a.home
      | none => 0
    let (n, s) := s.newId
    { s with nmsgs := put s.nmsgs n { part := p.1, stack := home, msg := e, held := false } }

/-- R344: a flit that passed its checks: for this module, or to be sent on. -/
def State.acceptFlit (s : State) (port : Nat) (flit : BitVec 1024) : State :=
  let bs := flitBytes flit
  let m := linkMsg bs
  let keep := s.modNet fun x => { x with linkIn := x.linkIn ++ [(port, flit)] }
  if m.dmod ≠ s.host.module.toNat then
    match s.routePort m.dmod (if m.cls = 2 then 0 else m.stream) with
    | some n => s.sendLink n m
    | none => keep
  else if m.cls = 2 then (s.linkEvent m.smod (evMsgOf ((bs.drop 8).take 64))).getD keep
  else keep

/-- R344: a flit fails its checks: a replay is asked for; after 8 consecutive failed replays the port retrains at half its width, or is
down after 1 lane. At a retrain a replay is asked for anew, of which 8 more may fail. -/
def State.failFlit (s : State) (port : Nat) : State :=
  let f := s.fport port
  let f := { f with rpl := min 65535 (f.rpl + 1), fails := f.fails + 1, asked := true }
  let ask (s : State) : State := s.modNet fun x => { x with linkAsk := x.linkAsk ++ [(port, f.rxSeq)] }
  if f.fails < 9 then ask (s.setFport port f)
  else if f.lanes = 1 then ((s.setFport port { f with up := false, lanes := 0, fails := 0 }).hostEvent 4 5 0 port).linkReport
  else (ask ((s.setFport port { f with lanes := f.lanes / 2, fails := 1 }).hostEvent 4 4 0 port)).linkReport

/-- R343, R344: a flit reaches Frerrayx port `port`. Once a replay has been asked for, what was sent before it is passed over. -/
def State.receiveFlit (s : State) (port : Nat) (flit : BitVec 1024) : State :=
  let f := s.fport port
  let bs := flitBytes flit
  if wordAt bs 15 ≠ crc64 (bs.take 120) then s.failFlit port
  else if flitSeq bs = f.rxSeq then
    let c := fld (wordAt bs 0) 3 0
    (s.setFport port { f with
      rxSeq := f.rxSeq + 1, fails := 0, asked := false
      cred := Vector.ofFn fun c => f.cred[c] + flitCred bs c.val
      owed := f.owed.setIfInBounds c (f.owed.getD c 0 + 1) }).acceptFlit port flit
  else if f.asked then s
  else s.failFlit port

/-- R344: Frerrayx port `port` receives a flit, or its peer's request for a replay. -/
def execLinkFlitReceive (port : Nat) (x : LinkIn) (s : State) : Out :=
  if 16 ≤ port || !(s.fport port).up then .refused (.notEnabled "LINK_FLIT_RECEIVE")
  else match x with
    | .flit flit => .next (s.receiveFlit port flit)
    | .replay seq => .next (s.repeatFrom port seq)

/-! Stream entries (R346, R347). -/

/-- R347: an endpoint; `ok` says that its reserved fields are as they must be. -/
def endpointOf (w : Nat) : Bool × Option Endpoint :=
  let loc := w.testBit 21
  let mod := w / 2 ^ 15 % 64
  let port := w / 2 ^ 13 % 4
  if w / 2 ^ 22 % 512 ≠ 0 then (false, none)
  else if !w.testBit 31 then (true, none)
  else if port = 3 || (loc && mod ≠ 0) then (false, none)
  else (true, some { loc := loc, mod := mod, port := port, core := w % 8192 })

/-- R347: a stream descriptor: its number and its sets; none where it is refused. -/
def streamDesc (bs : List Byte) : Option (Nat × List (List Endpoint)) :=
  let w := wordAt bs 0
  let n := fld w 13 12
  let ep (j : Nat) : Nat := bytesNat ((bs.drop (16 + 4 * j)).take 4)
  let set (j : Nat) : List (Bool × Option Endpoint) := (List.range 4).map fun i => endpointOf (ep (4 * j + i))
  let sets := (List.range (n + 1)).map fun j => (set j).filterMap (·.2)
  let bad := fld w 63 14 ≠ 0 || wordAt bs 1 ≠ 0 || ((bs.drop 0x50).take 48).any (· ≠ 0)
    || (List.range (n + 1)).any (fun j => (set j).any fun e => !e.1)
    || (List.range 4).any (fun j => n < j && (List.range 4).any fun i => ep (4 * j + i) ≠ 0)
    || sets.any fun l => l.isEmpty || (l.any (fun e => e.port = 2) && decide (1 < l.length))
  if bad then none else some (fld w 11 0, sets)

/-- R347: the endpoint lies on this module. -/
def State.isOwnEp (s : State) (e : Endpoint) : Bool := e.loc || e.mod = s.host.module.toNat

def State.modStreams (s : State) (st : Nat) (f : AMap StreamEntry → AMap StreamEntry) : State :=
  s.modDie st fun d => { d with net := { streams := f d.net.streams } }

def State.modNetCore (s : State) (k : Nat) (f : NetCore → NetCore) : State := s.modCore k fun c => { c with net := f c.net }

/-- R353: the port rights of STREAMSET and MARK, then purity. -/
def State.needPort (s : State) (p : BitVec 2) (go : State → State) : State :=
  if p ≠ 3 && !(s.slot s.cur).portRights s.cur then s.trapAt s.cur .portRights else s.needImpure go

/-- R354: the stream `n` is installed by core `k`, and bound to port `p` where p < 3. -/
def State.installStream (s : State) (k n : Nat) (p : BitVec 2) (part : Nat) (sets : List (List Endpoint)) : State :=
  let st := stackOf k
  let old := get? (s.die st).net.streams n
  let port : Option Nat := if p = 3 then old.bind (·.port) else some p.toNat
  let e : StreamEntry :=
    { part := part, core := k, port := port, sets := sets, j := 0, coll := false
      disc := (old.map (·.disc)).getD 0, words := (old.map (·.words)).getD 0 }
  let s := s.modStreams st fun m => put m n e
  if p = 3 then s
  else s.modNetCore k fun c => { c with bound := put (c.bound.filter fun b => b.2 ≠ n) p.toNat n }

/-- R354: STREAMSET. R351: a stream that is to be bound to y30 names a single y30 intake in each set; another is refused (log 68). R365: it waits
while words stand in the outlet that the stream is bound to. -/
def execStreamset (d a : Reg) (p : BitVec 2) (s : State) : Out :=
  let i := s.cur
  let k := i / 8
  let st := stackOf k
  .next (s.withRegs i [a] [d] fun s => s.needPort p fun s =>
    let ret (s : State) (v : Word) : State := s.writeDone i [a] d v
    let outEmpty (q : BitVec 2) : Bool := ((s.core k).net.outlet.getD q.toNat []).isEmpty
    if a = .x 0 then
      match get? (s.core k).net.bound p.toNat with
      | none => ret s 6
      | some n =>
        if !outEmpty p then s.stallHead i
        else ret ((s.modStreams st fun m => del m n).modNetCore k fun c => { c with bound := del c.bound p.toNat }) 0
    else s.loadThen i (s.rv a) 128 64 false fun s bs =>
      let part := (s.slot i).task.part
      match streamDesc bs with
      | none => ret s 6
      | some (n, sets) =>
        let old := get? (s.die st).net.streams n
        let port := if p = 3 then (old.filter fun e => e.core = k && !e.coll).bind (·.port) else some p.toNat
        let ring := port = some 2 && sets.any fun l => l.length ≠ 1 || l.any fun e => e.port ≠ 2
        if ring || sets.any fun l => l.any fun e => s.isOwnEp e && s.corePart e.core ≠ some part then ret s 6
        else
          let held : Bool := match old with
            | some e => e.coll || e.core ≠ k
            | none => false
          let waiting : Bool := match old.bind (·.port) with
            | some q => !outEmpty (BitVec.ofNat 2 q)
            | none => false
          let other : Bool := match get? (s.core k).net.bound p.toNat with
            | some m => p ≠ 3 && m ≠ n
            | none => false
          if held || other then ret s 1
          else if (p ≠ 3 && !outEmpty p) || waiting then s.stallHead i
          else ret (s.installStream k n p part sets) 0)

/-- R355: MARK. -/
def execMark (d : Reg) (p : BitVec 2) (s : State) : Out :=
  let i := s.cur
  let k := i / 8
  .next (s.withRegs i [] [d] fun s => s.needPort p fun s =>
    if (get? (s.core k).net.bound p.toNat).isNone then s.writeDone i [] d 6
    else
      let out := (s.core k).net.outlet.getD p.toNat []
      if 8 ≤ out.length then s.parkOn i (.push (28 + p.toNat))
      else (s.modNetCore k fun c => { c with outlet := c.outlet.setIfInBounds p.toNat (out ++ [.marker]) }).writeDone i [] d 0)

/-! Delivery (R342, R348, R349). -/

/-- R342: the header of a mesh flit: class, stream, destination core, port and the count of words. -/
def meshHeader (stream core port n : Nat) : Word := BitVec.ofNat 64 (stream * 2 ^ 4 + core * 2 ^ 16 + port * 2 ^ 29 + n * 2 ^ 32)

def headCore (h : Word) : Nat := fld h 28 16

def headPort (h : Word) : Nat := fld h 30 29

def headWords (h : Word) : Nat := fld h 33 32

/-- R26: an octet's place in its die's mesh. -/
def meshPlace (k : Nat) : Nat × Nat := (k / 8 % 16, k / 128 % 16)

/-- The numbers after `a` on the way to `b`. -/
def meshLine (a b : Nat) : List Nat :=
  if a ≤ b then (List.range (b - a)).map (a + 1 + ·) else (List.range (a - b)).map (a - 1 - ·)

/-- R342: the routers that a flit passes after that of core `k`: first along x, then along y; to the base die, on the way to another stack
or module, through router (x, 0) of its column. -/
def meshRoute (k : Nat) (dst : Option Nat) : List (Nat × Nat) :=
  let a := meshPlace k
  match dst.filter fun c => stackOf c = stackOf k with
  | some c =>
    let b := meshPlace c
    (meshLine a.1 b.1).map (·, a.2) ++ (meshLine a.2 b.2).map (b.1, ·)
  | none => (meshLine a.2 0).map (a.1, ·)

/-- The words on their way to port `p` of core `c`. -/
def State.wordsToward (s : State) (part c p : Nat) : Nat :=
  ((s.net.flits.filter fun f => f.2.part = part).flatMap fun f =>
    (f.2.heads.filter fun h => headCore h = c && headPort h = p).map headWords).sum

/-- R348, R349: every endpoint can take `n` more words: an intake holds 8; words to a core of another partition are discarded; a remote
endpoint needs a port that is up and has a credit. -/
def State.endpointsTake (s : State) (part stream n : Nat) (eps : List Endpoint) : Bool :=
  eps.all fun e =>
    if s.isOwnEp e then
      let times := (eps.filter fun x => s.isOwnEp x && x.core = e.core && x.port = e.port).length
      s.corePart e.core ≠ some part
        || decide (((s.core e.core).net.intake.getD e.port []).length + s.wordsToward part e.core e.port + n * times ≤ 8)
    else match s.routePort e.mod stream with
      | none => false
      | some q => (s.fport q).hasRoom 0 (eps.filter fun x => !s.isOwnEp x && s.routePort x.mod stream = some q).length

def OutItem.isMarker : OutItem → Bool
  | .marker => true
  | .word _ | .hold _ => false

/-- The words at the front of an outlet, at most three. -/
def frontWords : Nat → List OutItem → List Word
  | n + 1, .word w :: t => w :: frontWords n t
  | _, _ => []

/-- R348: the words that stand at the front of the outlet of port `p` may leave as a flit: there are three, or the turns of the core cycle after
the one in which the last entered are over and brought none. While the endpoints cannot take them, words that enter join them (log 68). -/
def State.flitReady (s : State) (k p : Nat) (ws : List Word) : Bool :=
  ws.length = 3 || (!ws.isEmpty && decide ((s.core k).net.outAt.getD p 0 + 1 ≤ s.dclk))

/-- R342, R348: a flit of these words leaves core `k` for the endpoints `eps`. -/
def State.sendFlit (s : State) (k stream : Nat) (e : StreamEntry) (eps : List Endpoint) (ws : List Word) : State :=
  let own := eps.filter s.isOwnEp
  let far := eps.filter fun e => !s.isOwnEp e
  let hops := (own.map fun e => (meshRoute k (some e.core)).length) ++ far.map fun _ => (meshRoute k none).length
  let f : Flit :=
    { part := e.part, core := k, stack := stackOf k, stream := stream, heads := own.map fun e => meshHeader stream e.core e.port ws.length
      far := far.map (·.mod), words := ws, due := s.dclk + 2 * hops.foldl max 0, ejected := false }
  let (id, s) := s.newId
  s.modNet fun x => { x with flits := put x.flits id f }

/-- R348, R350: a flit leaves the outlet of port `p` of core `k`: the markers at its front step the set, then up to three words go. -/
def execStreamFlitSend (k : Nat) (p : BitVec 2) (s : State) : Out :=
  let st := stackOf k
  let out := (s.core k).net.outlet.getD p.toNat []
  match get? (s.core k).net.bound p.toNat with
  | none => .refused (.notEnabled "STREAM_FLIT_SEND")
  | some n => match get? (s.die st).net.streams n with
    | none => .refused (.notEnabled "STREAM_FLIT_SEND")
    | some e =>
      let marks := (out.takeWhile OutItem.isMarker).length
      let j := (e.j + marks) % max 1 e.sets.length
      let words := frontWords 3 (out.drop marks)
      let eps := e.sets.getD j []
      let go := s.flitReady k p.toNat words && s.endpointsTake e.part n words.length eps
      if !s.partRuns e.part || (marks = 0 && !go) then .refused (.notEnabled "STREAM_FLIT_SEND")
      else
        let gone := if go then marks + words.length else marks
        let s := s.modNetCore k fun c => { c with outlet := c.outlet.setIfInBounds p.toNat (out.drop gone) }
        let s := s.modStreams st fun m => put m n { e with j := j }
        let s := s.wakePorts k
        .next (if go then s.sendFlit k n e eps words else s)

/-- Words enter an intake. -/
def State.intoIntake (s : State) (k p : Nat) (ws : List Word) : State :=
  (s.modNetCore k fun c => { c with intake := c.intake.setIfInBounds p (c.intake.getD p [] ++ ws) }).wakePorts k

/-- R348, R364: the words of a flit reached one endpoint, or were discarded there; the counts are of words per endpoint. -/
def State.countWords (s : State) (st stream n : Nat) (ok : Bool) : State :=
  s.modStreams st fun m => match get? m stream with
    | some v =>
      put m stream (if ok then { v with words := v.words + BitVec.ofNat 32 n } else { v with disc := min 65535 (v.disc + n) })
    | none => m

/-- R348: a flit reaches the endpoint on this module that a header names. -/
def State.reachHead (s : State) (f : Flit) (h : Word) : State :=
  if s.corePart (headCore h) = some f.part then
    (s.intoIntake (headCore h) (headPort h) f.words).countWords f.stack f.stream f.words.length true
  else s.countWords f.stack f.stream f.words.length false

/-- R348: a flit goes to module `m`. -/
def State.reachFar (s : State) (f : Flit) (m : Nat) : State :=
  match s.routePort m f.stream with
  | some n =>
    (s.sendLink n { cls := 0, stream := f.stream, dmod := m, smod := s.host.module.toNat, pay := f.words }).countWords f.stack f.stream
      f.words.length true
  | none => s

/-- R348: flit `i` in flight arrives at every endpoint of its set, after the earlier flits of its stream. -/
def execStreamFlitArrival (i : Nat) (s : State) : Out :=
  match get? s.net.flits i with
  | none => .refused (.notEnabled "STREAM_FLIT_ARRIVAL")
  | some f =>
    let earlier := s.net.flits.any fun g => g.1 < i && g.2.part = f.part && g.2.stack = f.stack && g.2.stream = f.stream
    let routed := f.far.all fun m => (s.routePort m f.stream).isSome
    if earlier || f.ejected || s.dclk < f.due || !s.partRuns f.part || !routed then .refused (.notEnabled "STREAM_FLIT_ARRIVAL")
    else
      let s := s.modNet fun x => { x with flits := del x.flits i }
      let s := f.heads.foldl (init := s) fun s h => s.reachHead f h
      .next (f.far.foldl (init := s) fun s m => s.reachFar f m)

/-! Collectives (R356 to R362). -/

/-- The fields of a collective descriptor. -/
def CollPost.w (c : CollPost) (j : Nat) : Word := c.desc.getD j 0

def CollPost.group (c : CollPost) : Nat := fld (c.w 0) 39 32

def CollPost.op (c : CollPost) : Nat := fld (c.w 0) 7 0

def CollPost.count (c : CollPost) : Nat := fld (c.w 1) 31 0

def CollPost.stream (c : CollPost) : Nat := fld (c.w 1) 43 32

def CollPost.fmt (c : CollPost) : Option Fmt := (Fmt.parse (BitVec.ofNat 16 (fld (c.w 0) 31 16))).filter fun f => f.sk = 0

/-- R359: DET. -/
def CollPost.det (c : CollPost) : Bool := (c.w 0).getLsbD 12

/-- R359: RED. -/
def CollPost.red (c : CollPost) : Nat := fld (c.w 0) 11 8

def CollPost.root (c : CollPost) : Nat := fld (c.w 0) 47 40

/-- R358: the bytes of a block. -/
def CollPost.bytes (c : CollPost) : Nat := c.fmt.elim 0 fun f => c.count * f.elem.width / 8

def CollPost.eng (c : CollPost) : Eng :=
  { core := some (c.slot / 8), part := c.ti.part, lv := c.lv, ti := c.ti, hint := .none, waits := true }

/-- R356, R357: a descriptor that is refused, among `P` members. -/
def CollPost.bad (c : CollPost) (P : Nat) : Bool :=
  let w := c.w 0
  fld w 63 48 ≠ 0 || fld w 15 14 ≠ 0 || decide (4 < c.op) || decide (2 < c.red) || (decide (2 ≤ c.op) && c.red ≠ 0)
    || (c.op ≠ 3 && c.root ≠ 0) || decide (P ≤ c.root) || fld (c.w 1) 63 44 ≠ 0 || c.stream % 2 = 1
    || fld (c.w 4) 63 32 ≠ 0 || fld (c.w 6) 63 32 ≠ 0 || c.w 7 ≠ 0
    || match c.fmt with
      | none => true
      | some f => c.count * f.elem.width % 8 ≠ 0 || (decide (c.op ≤ 1) && (match f.elem with
        | .fp32 | .bf16 | .fp16 | .int8 => false
        | _ => true))

/-- R357: two members' descriptors agree in OP, RED, DET, FMT, COUNT, ROOT and STREAM. -/
def CollPost.agrees (a b : CollPost) : Bool := a.w 0 &&& ~~~(0x2000 : Word) = b.w 0 &&& ~~~(0x2000 : Word) && a.w 1 = b.w 1

/-- R357: the cores of the partitions `ps` that hold a slot of group `g`, in rank order. -/
def State.memberCores (s : State) (ps : List Nat) (g : Nat) : List Nat :=
  ((s.slotNums.filter fun i => (s.slot i).live && ps.contains (s.slot i).task.part && (s.slot i).task.groups.contains g).map (· / 8)).foldl
    (fun l k => insertNat k l) []

/-- R30, R357: group entry `g` of partition `p`: the launch that filled it; none where it is not in use. -/
def State.groupLaunch (s : State) (p g : Nat) : Option (Option Nat) := ((s.part? p).bind fun v => get? v.groups g).map (·.launch)

/-- R357: how many COLLs core `k` has issued on group `g` of partition `p`, since the entry was filled. -/
def State.collCount (s : State) (k p g : Nat) : Nat :=
  match get? (s.core k).net.collSeq g with
  | some (l, n) => if s.groupLaunch p g = some l then n else 0
  | none => 0

/-- R118, R359: one pairwise step on two elements' codes; a NaN propagates. -/
def redStep (f : Fmt) (red a b : Nat) : Nat :=
  let x := f.decode [] a
  let y := f.decode [] b
  let both (f : Val → Val → Val) (x y : Val) : Val := if x.isNan || y.isNan then .nan else f x y
  let op : Val → Val → Val := match red with
    | 0 => Val.add
    | 1 => both Val.min
    | _ => both Val.max
  ({ f with rm := if f.rm = 3 then 0 else f.rm }).encode [] 0 (floatOp2 op f.nz x y).1

/-- R359: one pairwise step on two blocks of elements of 8 bits or more; poison is carried. -/
def redBlock (f : Fmt) (red : Nat) (a b : List EByte) : List EByte :=
  let w := f.elem.width
  (List.range (a.length / (w / 8))).flatMap fun i =>
    let x := ebits a w (i * w)
    let y := ebits b w (i * w)
    (natBytes (w / 8) (redStep f red x.1 y.1)).map fun v => (v, x.2 || y.2)

/-- R359: the values of the ranks' blocks, combined pairwise as the plan says: each step takes two of the values that are left. An empty plan
gives the left fold in rank order. -/
def redPlan (f : Fmt) (red : Nat) : Nat → List Nat → List (List EByte) → List EByte
  | n + 1, plan, a :: b :: t =>
    let l := a :: b :: t
    let i := plan.headD 0 % l.length
    let l' := l.eraseIdx i
    let j := (plan.drop 1).headD 0 % l'.length
    redPlan f red n (plan.drop 2) (redBlock f red (l.getD i []) (l'.getD j []) :: l'.eraseIdx j)
  | _, _, l => l.headD []

/-- R358: a block of RECV: the blocks that it combines, in rank order, and the ranks whose SEND it needs; none where one of them could not be
read. -/
structure RecvBlock where
  parts : Option (List (List EByte))
  srcs : List Nat

/-- R358: the blocks of RECV of rank `r`; `sends` holds what each rank's SEND gave. -/
def recvBlocks (op root bytes : Nat) (sends : List (Option (List EByte))) (r : Nat) : List RecvBlock :=
  let all := List.range sends.length
  let block (b q : Nat) : Option (List EByte) := (sends.getD q none).map fun l => (l.drop (b * bytes)).take bytes
  let from_ (b q : Nat) : RecvBlock := { parts := (block b q).map fun l => [l], srcs := [q] }
  let reduced (b : Nat) : RecvBlock := { parts := all.mapM (block b), srcs := all }
  match op with
  | 0 => [reduced 0]
  | 1 => [reduced r]
  | 2 => all.map (from_ 0)
  | 3 => [from_ 0 root]
  | _ => all.map (from_ r)

/-- R358: how many blocks of SEND rank `q` gives. -/
def sendBlocks (op root P q : Nat) : Nat :=
  match op with
  | 0 | 2 => 1
  | 3 => if q = root then 1 else 0
  | _ => P

/-- R358: where the bytes of SEND of rank `q` that rank `r` needs begin, and how many they are. -/
def sendPart (op root bytes q r : Nat) : Nat × Nat :=
  match op with
  | 0 | 2 => (0, bytes)
  | 3 => (0, if q = root then bytes else 0)
  | _ => (r * bytes, bytes)

/-- R360: the 4 KiB chunks of a block of `n` bytes: offset and length. -/
def blockChunks (n : Nat) : List (Nat × Nat) := (List.range ((n + 4095) / 4096)).map fun j => (4096 * j, min 4096 (n - 4096 * j))

/-- R357: the stream numbers that a collective holds are taken on the stacks of its members. -/
def State.holdStreams (s : State) (p n : Nat) (cores : List Nat) (on : Bool) : State :=
  ((cores.map stackOf).eraseDups).foldl (init := s) fun s st => s.modStreams st fun m =>
    if on then
      [n, n + 1].foldl (init := m) fun m j =>
        put m j { part := p, core := 8192, port := none, sets := [], j := 0, coll := true, disc := 0, words := 0 }
    else del (del m n) (n + 1)

/-! The early-arrival area (R360). -/

/-- R360, R363: the member core of an early chunk has accepted its COLL. -/
def State.earlyTaken (s : State) (e : EarlyChunk) : Bool :=
  (s.core e.dst).net.coll.any fun q => q.group = e.group && q.launch = e.launch && q.seq = e.seq

/-- R360, R364: the KiB of stack `st`'s early-arrival area in use: by the chunks that have come to members whose COLL has not been accepted. -/
def State.earlyKib (s : State) (st : Nat) : Nat :=
  (s.net.early.map fun e => if e.2.data.isSome && stackOf e.2.dst = st && !s.earlyTaken e.2 then (e.2.len + 1023) / 1024 else 0).sum

/-- R360, R365: a member's COLL has been accepted: chunks of its SEND set out for the other members on this module. -/
def State.sendEarly (s : State) (c : CollPost) : State :=
  let cores := s.memberCores (s.roundParts c.ti.part) c.group
  let me := c.slot / 8
  if c.bad (max cores.length (c.root + 1)) then s
  else cores.zipIdx.foldl (init := s) fun s r =>
    if r.1 = me then s
    else
      let (o, n) := sendPart c.op c.root c.bytes (cores.idxOf me) r.2
      (blockChunks n).foldl (init := s) fun s b =>
        let e : EarlyChunk :=
          { part := c.ti.part, group := c.group, launch := c.launch, seq := c.seq, src := me, dst := r.1, off := o + b.1, len := b.2, data := none }
        let (id, s) := s.newId
        s.modNet fun x => { x with early := put x.early id e }

/-- R349, R360: an early chunk comes to its member; where the member's COLL has not been accepted it takes its place in the early-arrival area
of the stack, or is held at the sender. -/
def State.earlyArrives (s : State) (i : Nat) (e : EarlyChunk) : Option State :=
  let room := s.earlyTaken e || decide (s.earlyKib (stackOf e.dst) + (e.len + 1023) / 1024 ≤ 8192)
  match (s.core e.src).net.coll.find? fun q => q.group = e.group && q.launch = e.launch && q.seq = e.seq with
  | none => none
  | some c =>
    if e.data.isSome || !room || !s.partRuns e.part then none
    else match s.engRead c.eng (c.w 2 + BitVec.ofNat 64 e.off) e.len with
      | (.ok bs, s) => some (s.modNet fun x => { x with early := put x.early i { e with data := some bs } })
      | (.error .busy, _) => none
      | (.error _, s) => some (s.modNet fun x => { x with early := del x.early i })

/-- What rank `r` has of a SEND: its early chunks are as they came. -/
def overlay (early : List EarlyChunk) (src dst : Nat) (bs : List EByte) : List EByte :=
  early.foldl (init := bs) fun bs e => match e.data with
    | some d => if e.src = src && e.dst = dst then bs.take e.off ++ d ++ bs.drop (e.off + e.len) else bs
    | none => bs

/-! The start of a collective (R357 to R360). -/

/-- R357: the module, the descriptor and the core of each rank. What the members on other modules are comes from outside: how many there are
on each is a free choice (log 34). -/
def State.collRanks (s : State) (p : Nat) (ms : List CollPost) : List (Nat × Option CollPost) × State :=
  let own := s.host.module.toNat
  let mods := (((s.newt? p).elim [] (·.domain)).map (·.1)).foldl (fun l m => insertNat m l) [own]
  let (l, s) := s.visit (fun s m =>
    if m = own then (ms.map fun c => (m, some c), s)
    else let (n, s) := s.choose; (List.replicate (n % 8193) (m, none), s)) mods
  (l.flatten, s)

/-- Bytes that come from another module: free values. -/
def State.farBytes (s : State) (n : Nat) : List EByte × State :=
  let id := s.sched.nfree
  ((List.range n).map fun j => ((Config.freeWord (id + j)).setWidth 8, false), s.modSched fun c => { c with nfree := id + n })

/-- R358, R361: the SENDs of the ranks are read; none where one has to wait for the flip of a page (R239). -/
def State.readSends (s : State) (first : CollPost) (ranks : List (Nat × Option CollPost)) :
    Option (List (Option (List EByte))) × State :=
  let read (s : State) (r : (Nat × Option CollPost) × Nat) : Option (Option (List EByte)) × State :=
    let n := first.bytes * sendBlocks first.op first.root ranks.length r.2
    match r.1.2 with
    | none => let (bs, s) := s.farBytes n; (some (some bs), s)
    | some c => match s.engRead c.eng (c.w 2) n with
      | (.ok bs, s) => (some (some bs), s)
      | (.error .busy, s) => (none, s)
      | (.error _, s) => (some none, s)
  let (l, s) := s.visit read ranks.zipIdx
  (l.mapM id, s)

/-- The descriptors leave their intakes, and what has come early is used. -/
def State.takePosts (s : State) (ms : List CollPost) : State :=
  let s := ms.foldl (init := s) fun s c => s.modNetCore (c.slot / 8) fun v => { v with coll := v.coll.filter fun q =>
    !(q.group = c.group && q.launch = c.launch && q.seq = c.seq) }
  s.modNet fun x => { x with early := x.early.filter fun e => !(ms.any fun c =>
    e.2.src = c.slot / 8 && e.2.group = c.group && e.2.launch = c.launch && e.2.seq = c.seq) }

/-- A collective of these ranks is on its way, with a status for each. -/
def State.addColl (s : State) (p : Nat) (first : CollPost) (ranks : List (Nat × Option CollPost)) (st : List (BitVec 8)) (held : Option Nat) :
    Nat × State :=
  let (id, s) := s.newId
  let members : List CollMember := (ranks.zip st).map fun m =>
    { mod := m.1.1, post := m.1.2, status := m.2, wrote := 0, done := m.1.2.isNone }
  let c : Coll := { part := p, group := first.group, held := held, stream := first.stream, det := first.det, members := members }
  (id, s.modNet fun x => { x with colls := put x.colls id c })

/-- R360: whether the bytes of rank `q` reach rank `r` on the second stream: the shorter way round the ring is backward. -/
def ringBack (P q r : Nat) : Bool := decide (P < 2 * ((r + P - q) % P))

/-- R357 to R360: the collective of these ranks starts: it is refused, or its chunks are on their way; none while a SEND waits for the flip of a
page (R239). -/
def State.startColl (s : State) (p : Nat) (inUse : Bool) (ms : List CollPost) (mismatch : Bool) : Option (Nat × State) :=
  let first := ms.headD { slot := 0, desc := [], ti := TaskInfo.empty, lv := .u, pc := 0, launch := none, seq := 0, issued := 0, dead := false }
  let early := (s.net.early.map (·.2)).filter fun e => ms.any fun c =>
    e.src = c.slot / 8 && e.group = c.group && e.launch = c.launch && e.seq = c.seq
  let (ranks, s) := s.collRanks p ms
  let P := ranks.length
  let far := (ranks.filter (·.2.isNone)).map (·.1)
  let (other, s) := if far.isEmpty then (0, s) else s.choose
  let cores := ms.map fun c => c.slot / 8
  let bad := !inUse || mismatch || other ≠ 0 || (ms.any fun c => c.bad P || !c.agrees first) ||
    far.any fun m => (s.routePort m first.stream).isNone || (s.routePort m (first.stream + 1)).isNone
  let alone := P = 1
  let busy := !alone && cores.any fun k => [first.stream, first.stream + 1].any fun n => (get? (s.die (stackOf k)).net.streams n).isSome
  let s := s.takePosts ms
  let sends : Option (List (Option (List EByte))) × State := if bad || busy then (some [], s) else s.readSends first ranks
  match bad, busy, sends with
  | true, _, _ => some (s.addColl p first ranks (ranks.map fun _ => 6) none)
  | false, true, _ => some (s.addColl p first ranks (ranks.map fun _ => 1) none)
  | false, false, (none, _) => none
  | false, false, (some sends, s) =>
    let op := first.op
    let bytes := first.bytes
    let coreOf (r : Nat) : Nat := match ranks[r]? with
      | some (_, some c) => c.slot / 8
      | _ => 8192
    let seen (r : Nat) : List (Option (List EByte)) := sends.zipIdx.map fun x => x.1.map (overlay early (coreOf x.2) (coreOf r))
    let pieces := (blockChunks bytes).length
    let (plans, s) := if op ≤ 1 && !first.det then
        s.visit (fun s _ => s.plan P) (List.range (if op = 0 then pieces else P * pieces))
      else ([], s)
    let blocks := (List.range P).map fun r => recvBlocks op first.root bytes (seen r) r
    let st : List (BitVec 8) := (blocks.zip sends).map fun b => if b.2.isNone || b.1.any (·.parts.isNone) then 6 else 0
    let s := if alone then s else s.holdStreams p first.stream cores true
    let (id, s) := s.addColl p first ranks st (if alone then none else some first.stream)
    let chunks : List Chunk := ((ranks.zip blocks).zipIdx.filter fun r => st.getD r.2 0 = 0).flatMap fun r =>
      r.1.2.zipIdx.flatMap fun b => match b.1.parts with
        | none => []
        | some l => (blockChunks bytes).zipIdx.map fun c =>
          let piece := (if op = 1 then r.2 * pieces else 0) + c.2
          ({ coll := id, dst := r.2, va := (r.1.1.2.elim 0 (·.w 3)) + BitVec.ofNat 64 (b.2 * bytes + c.1.1)
             parts := l.map fun d => (d.drop c.1.1).take c.1.2, plan := plans.getD piece [], piece := piece, srcs := b.1.srcs
             back := b.1.srcs.length = 1 && ringBack P (b.1.srcs.headD 0) r.2 } : Chunk)
    some (id, chunks.foldl (init := s) fun s c =>
      let (n, s) := s.newId
      s.modNet fun x => { x with chunks := put x.chunks n c })

/-- R357: what the sequencer finds for group `g` of partition `p`, or of its GVT domain: whether the entry is in use, the members' posts of the
oldest collective, and whether they can not be matched; none while a member's descriptor is missing. -/
def State.collReady (s : State) (p g : Nat) : Option (Bool × List CollPost × Bool) :=
  let ps := s.roundParts p
  let oldest (k : Nat) : Option CollPost := (s.core k).net.coll.find? fun c => c.group = g && ps.contains c.ti.part
  let cores := s.memberCores ps g
  let stale := ((s.cores.map (·.1)).filterMap oldest).filter fun c => c.launch.isNone || s.groupLaunch c.ti.part g ≠ c.launch
  match stale, cores.filterMap oldest with
  | c :: _, _ => some (false, stale.filter fun q => q.launch = c.launch && q.seq = c.seq, false)
  | [], [] => none
  | [], c :: t =>
    let n := t.foldl (fun m q => min m q.seq) c.seq
    let missing := cores.any fun k => (oldest k).isNone && s.collCount k ((s.corePart k).getD p) g ≤ n
    if missing then none
    else
      let ms := (c :: t).filter fun q => q.seq = n
      some (true, ms, ms.length ≠ cores.length)

/-- R357: the sequencer starts the collective of group i mod 256 of partition i / 256. -/
def execCollStart (i : Nat) (s : State) : Out :=
  match s.collReady (i / 256) (i % 256) with
  | some (inUse, ms, mismatch) =>
    match if s.partRuns (i / 256) then s.startColl (i / 256) inUse ms mismatch else none with
    | some (_, s) => .next s
    | none => .refused (.notEnabled "COLL_START")
  | none => .refused (.notEnabled "COLL_START")

/-! Chunks and completion (R360, R361). -/

def State.modMember (s : State) (c m : Nat) (f : CollMember → CollMember) : State :=
  s.modNet fun x => match get? x.colls c with
    | some v => { x with colls := put x.colls c { v with members := match v.members[m]? with
        | some y => v.members.set m (f y)
        | none => v.members } }
    | none => x

/-- R359: the bytes of a chunk: the ranks' values, combined. -/
def Chunk.data (c : Chunk) (post : CollPost) : List EByte :=
  match c.parts, post.fmt with
  | [l], _ => l
  | l, some f => redPlan f post.red l.length c.plan l
  | _, none => []

/-- R193, R358, R360: a chunk is written into its member's RECV, in 128-byte chunks of it; a fault ends the member's transfer; an error where it
has to wait. -/
def State.chunkArrives (s : State) (i : Nat) (c : Chunk) (v : Coll) (post : CollPost) : Except EngErr State :=
  let gone (s : State) : State := s.modNet fun x => { x with chunks := del x.chunks i }
  let bs := c.data post
  let d := (dstChunks c.va bs.length).foldl (init := CopySt.start s) fun d x =>
    d.put post.eng (c.va + BitVec.ofNat 64 x.1) ((bs.drop x.1).take x.2)
  let note (s : State) (bad : Bool) : State := s.modMember c.coll c.dst fun y => { y with
    wrote := y.wrote + d.written, status := if bad then 6 else y.status }
  let count (s : State) : State := match v.held with
    | some n => s.countWords (stackOf (post.slot / 8)) (if c.back then n + 1 else n) ((bs.length + 7) / 8) true
    | none => s
  match d.stop with
  | none => .ok (count (note (gone d.s) d.refused))
  | some (.fault ..) | some .refused => .ok (note ((gone d.s).modNet fun x => { x with
      chunks := x.chunks.filter fun y => !(y.2.coll = c.coll && y.2.dst = c.dst) }) true)
  | some x => .error x

/-- R343, R345: a chunk for a member on module `m` leaves in flits of class 1. -/
def State.chunkLeaves (s : State) (i : Nat) (c : Chunk) (v : Coll) (m : Nat) : Option State :=
  let stream := if c.back then v.stream + 1 else v.stream
  let bs := (c.parts.headD []).map (·.1)
  let ws := (List.range ((bs.length + 7) / 8)).map fun j => bytesWord ((bs.drop (8 * j)).take 8)
  (s.routePort m stream).map fun n =>
    (List.range ((ws.length + 13) / 14)).foldl (init := s.modNet fun x => { x with chunks := del x.chunks i }) fun s j =>
      s.sendLink n { cls := 1, stream := stream, dmod := m, smod := s.host.module.toNat, pay := (ws.drop (14 * j)).take 14 }

/-- A wait for a full rollback pool makes room there (R339); another is no step. -/
def waitsOn (name : String) (p : Nat) (t : TaskInfo) (s : State) (r : Except EngErr State) : Out :=
  match r with
  | .ok s => .next s
  | .error .poolFull => match s.poolPressure p t.ownEvent with
    | some s => .next s
    | none => .refused (.notEnabled name)
  | .error _ => .refused (.notEnabled name)

/-- R360: chunk `i` in flight arrives at its member, or in the early-arrival area. -/
def execCollChunkArrival (i : Nat) (s : State) : Out :=
  let no : Out := .refused (.notEnabled "COLL_CHUNK_ARRIVAL")
  match get? s.net.chunks i with
  | none => match (get? s.net.early i).bind (s.earlyArrives i) with
    | some s => .next s
    | none => no
  | some c => match (get? s.net.colls c.coll).bind fun v => (v.members[c.dst]?).map fun m => (v, m) with
    | none => no
    | some (v, m) =>
      if !s.partRuns v.part then no
      else match m.post with
        | some post => waitsOn "COLL_CHUNK_ARRIVAL" post.ti.part post.ti s (s.chunkArrives i c v post)
        | none => match s.chunkLeaves i c v m.mod with
          | some s => .next s
          | none => no

/-- R361: no chunk of the collective is still to be written for rank `m`, or to be read from its SEND. -/
def State.memberIdle (s : State) (c m : Nat) : Bool :=
  s.net.chunks.all fun x => x.2.coll ≠ c || (x.2.dst ≠ m && !x.2.srcs.contains m)

/-- R361: the flag word of a member: its status after it, or why it has to wait. -/
def State.collFlag (s : State) (post : CollPost) (y : CollMember) : Except EngErr (BitVec 8 × State) :=
  if !(post.w 0).getLsbD 13 then .ok (y.status, s)
  else
    let w := if y.status = 0 then BitVec.ofNat 64 y.wrote else allOnes
    match s.engWrite post.eng (post.w 3 - 8) (cleanBytes (wordBytes w)) with
    | (.ok false, s) => .ok (y.status, s)
    | (.ok true, s) | (.error .refused, s) | (.error (.fault ..), s) => .ok (6, s)
    | (.error x, _) => .error x

/-- R361, R365: a member's message with the fall of cp, and its token. -/
def State.collTells (s : State) (post : CollPost) (st : BitVec 8) (wrote : Nat) : State :=
  let s := if post.dead then s
    else s.postMsg post.slot
      { w0 := BitVec.ofNat 64 (0x20 + st.toNat * 2 ^ 8 + fld (post.w 4) 31 0 * 2 ^ 32), w1 := BitVec.ofNat 64 wrote }
  let s := s.decCnt post.slot .cp
  if post.w 5 = 0 then s
  else match s.headerPa post.ti.part (post.w 5) with
    | (some pa, s) => s.sendToken pa (fld (post.w 6) 31 0)
    | (none, s) => s

/-- R361: a member completes: its flag word, its message with the fall of cp, its token; the streams are free after the last one. -/
def State.finishMember (s : State) (c m : Nat) (v : Coll) (y : CollMember) (post : CollPost) : Except EngErr State :=
  (s.collFlag post y).map fun x =>
    let s := (x.2.collTells post x.1 y.wrote).modMember c m fun y => { y with done := true }
    if v.members.zipIdx.all fun q => q.1.done || q.2 = m then
      let cores : List Nat := v.members.filterMap fun q => q.post.map fun c => c.slot / 8
      let s := match v.held with
        | some n => s.holdStreams v.part n cores false
        | none => s
      s.modNet fun x => { x with colls := del x.colls c }
    else s

/-- R361: member `m` of running collective `i` completes. -/
def execCollComplete (i m : Nat) (s : State) : Out :=
  match (get? s.net.colls i).bind fun v => (v.members[m]?).bind fun y => y.post.map fun c => (v, y, c) with
  | none => .refused (.notEnabled "COLL_COMPLETE")
  | some (v, y, post) =>
    if y.done || !s.memberIdle i m || !s.partRuns v.part then .refused (.notEnabled "COLL_COMPLETE")
    else waitsOn "COLL_COMPLETE" post.ti.part post.ti s (s.finishMember i m v y post)

/-- R362: a collective of no element: its one member here completes at once, with OK or refused among `P` members. -/
def State.emptyColl (s : State) (p : Nat) (post : CollPost) (P : Nat) : Nat × State :=
  (s.takePosts [post]).addColl p post [(s.host.module.toNat, some post)] [if post.bad P then 6 else 0] none

/-- R362: a collective of one member, or of no element, completes at its acceptance. In a domain with members on other modules the number of
members is not known here, so that only COUNT = 0 is such a one, whose ROOT then names one of them (log 34). One whose SEND waits for the flip of
a page stays in the intake, and starts by COLL_START. -/
def State.collAtOnce (s : State) (p : Nat) (post : CollPost) : State :=
  let cores := s.memberCores (s.roundParts p) post.group
  let n := cores.length
  let far := s.farMembers p
  if post.launch.isNone || !(post.count = 0 || (cores = [post.slot / 8] && !far)) then s.sendEarly post
  else
    match if post.count = 0 then some (s.emptyColl p post (if far then max n (post.root + 1) else n)) else s.startColl p true [post] false with
    | none => s
    | some (id, s) =>
    let v? (s : State) := (get? s.net.colls id).bind fun v => (v.members[0]?).map fun y => (v, y)
    let s := (s.net.chunks.filter fun x => x.2.coll = id).foldl (init := s) fun s x =>
      match v? s with
      | some (v, _) => match s.chunkArrives x.1 x.2 v post with
        | .ok s => s
        | .error _ => s
      | none => s
    match v? s with
    | some (v, y) => if s.memberIdle id 0 then (match s.finishMember id 0 v y post with
        | .ok s => s
        | .error _ => s) else s
    | none => s

/-- R363: COLL. -/
def execColl (d a : Reg) (s : State) : Out :=
  let i := s.cur
  let k := i / 8
  .next (s.withRegs i [a] [d] fun s => s.needImpure fun s =>
    let ret (s : State) (v : Word) : State := s.writeDone i [a] d v
    if i % 8 ≠ 7 then ret s 6
    else s.loadThen i (s.rv a) 64 64 true fun s bs =>
      let sl := s.slot i
      let c := (s.core k).net
      if 4 ≤ c.coll.length then ret s 2
      else if 15 ≤ sl.cnt.cp || 16 ≤ sl.mbox.length + sl.mboxRsv then ret s 1
      else
        let g := fld (wordAt bs 0) 39 32
        let p := sl.task.part
        let n := s.collCount k p g
        let launch := s.groupLaunch p g
        let post : CollPost :=
          { slot := i, desc := (List.range 8).map (wordAt bs), ti := sl.task, lv := sl.lv, pc := sl.pc, launch := launch, seq := n
            issued := s.dclk, dead := false }
        let s := s.modNetCore k fun c => { c with
          coll := c.coll ++ [post], collSeq := match launch with
            | some l => put c.collSeq g (l, n + 1)
            | none => c.collSeq }
        let s := (s.incCnt i .cp).modSlot i fun sl => { sl with mboxRsv := sl.mboxRsv + 1 }
        ret (s.collAtOnce p post) 0)

/-! NSTAT (R364). -/

/-- R349: the stream's next flit cannot go on. -/
def State.streamHeld (s : State) (n : Nat) (e : StreamEntry) : Bool :=
  match e.port with
  | none => false
  | some p =>
    let out := (s.core e.core).net.outlet.getD p []
    let marks := (out.takeWhile OutItem.isMarker).length
    let words := frontWords 3 (out.drop marks)
    !words.isEmpty && !s.endpointsTake e.part n words.length (e.sets.getD ((e.j + marks) % max 1 e.sets.length) [])

/-- R364: NSTAT. -/
def execNstat (d a : Reg) (s : State) : Out :=
  let i := s.cur
  let st := stackOf (i / 8)
  let b (x : Bool) (n : Nat) : Nat := if x then 2 ^ n else 0
  .next (s.withRegs i [a] [d] fun s => s.needImpure fun s =>
    let x := (s.rv a).toNat
    let ret (s : State) (v : Nat) : State := s.writeDone i [a] d (BitVec.ofNat 64 v)
    if x < 0x1000 then match get? (s.die st).net.streams x with
      | none => ret s 0
      | some e =>
        if e.part ≠ (s.slot i).task.part then s.writeDone i [a] d allOnes
        else if e.coll then ret s (2 ^ 57 + e.words.toNat)
        else ret s (2 ^ 63 + b (s.streamHeld x e) 62 + e.j * 2 ^ 60 + (e.sets.length - 1) * 2 ^ 58 + e.disc * 2 ^ 32 + e.words.toNat)
    else if x < 0x1010 then
      let f := s.fport (x - 0x1000)
      ret s (b f.up 63 + f.lanes * 2 ^ 59 + f.rpl * 2 ^ 32 + f.flits.toNat)
    else if x = 0x2000 then ret s (s.earlyKib st)
    else s.writeDone i [a] d allOnes)

end Sys2Proof.Machine
end

