-- ==== Sys2Proof/Machine/Traps.lean ====
section
/-!
DEFINITION. Late traps and time-outs (R156, R371), the retirement of a task (R63), the management controller (R416), FAULTGET, the gang
switch (R374, R375, R381) and the deadlock detector (R379, R382).
-/

namespace Sys2Proof.Machine

/-! Late traps (R371). -/

/-- R371: the place of a raised trap in the order in which they are taken. -/
def Late.rank : Late → Nat × Nat
  | .poison .. => (0, 0)
  | .access .. => (1, 0)
  | .coproc _ o .. => (2, o)
  | .engine o .. => (3, o)
  | .deadlock _ => (4, 0)

def rankLess (a b : Nat × Nat) : Bool := decide (a.1 < b.1) || (a.1 = b.1 && decide (a.2 < b.2))

/-- R371: the raised trap that the slot takes next; the first raised of equal ones. -/
def Slot.nextLate (sl : Slot) : Option Late :=
  sl.late.foldl (init := none) fun best t => match best with
    | none => some t
    | some b => if rankLess t.rank b.rank then some t else some b

/-- R371: the slot takes raised traps at its turns in these states. -/
def Slot.takesLate (sl : Slot) : Bool :=
  match sl.st with
  | .ready | .parked | .waiting => true
  | .stall => sl.hold = .none
  | _ => false

/-- R131: the ring entry of a fault that is taken is free. -/
def State.freeEntry (s : State) (i : Nat) (t : Late) : State :=
  match t with
  | .coproc e .. => s.modCore (i / 8) fun c => { c with ring := del c.ring e }
  | _ => s

/-- R366, R367, R369: what the record of a raised trap holds, taken by a slot in state `sl`. -/
def Late.trap (t : Late) (sl : Slot) : Trap :=
  match t with
  | .poison pc addr exact =>
    { code := .poison, pc := pc, addr := addr, late := !exact, epc := if exact then pc else sl.pc, task := sl.task.task }
  | .access c pc addr ops => { code := c, pc := pc, addr := addr, ops := ops, late := true, epc := sl.pc, task := sl.task.task }
  | .coproc e _ task pc addr ops =>
    { code := .coproc, pc := pc, addr := addr, seq := e, ops := ops, late := true, epc := sl.pc, task := task }
  | .engine _ task pc addr ops =>
    { code := .coproc, pc := pc, addr := addr, seq := 64, ops := ops, late := true, epc := sl.pc, task := task }
  | .deadlock blk => { code := .deadlock, pc := sl.pc, ops := blk, epc := sl.pc, task := sl.task.task }

/-- R371: slot `i` takes the raised trap `t`: its wait is withdrawn first. -/
def State.takeLate (s : State) (i : Nat) (t : Late) : State :=
  let s := (s.withdrawWait i).freeEntry i t
  let s := s.modSlot i fun sl => { sl with late := sl.late.erase t }
  s.takeTrap i (t.trap (s.slot i))

/-- R157: the slot takes a raised POISON at its turn. -/
def execLatePoison (k sl : Nat) (s : State) : Out :=
  let i := 8 * k + sl
  match (s.slot i).nextLate with
  | some (.poison pc addr exact) =>
    if (s.slot i).takesLate then .next (s.takeLate i (.poison pc addr exact)) else .refused (.notEnabled "LATE_POISON")
  | _ => .refused (.notEnabled "LATE_POISON")

/-- R371: the slot takes a raised COPROC at its turn. -/
def execCoproc (k sl : Nat) (s : State) : Out :=
  let i := 8 * k + sl
  match (s.slot i).nextLate with
  | some t => if (s.slot i).takesLate && t.code = .coproc then .next (s.takeLate i t) else .refused (.notEnabled "COPROC")
  | none => .refused (.notEnabled "COPROC")

/-! FE_TIMEOUT (R156). -/

/-- R156: the full/empty access for which slot `i` has waited to its limit, unless its withdrawal is already on its way. -/
def State.feExpired (s : State) (i : Nat) : Option Access :=
  let sl := s.slot i
  let waits : Bool := match sl.park with
    | .feFull _ | .feEmpty _ => true
    | _ => false
  if sl.st = .parked && waits && sl.feLimit ≠ 0 && decide (sl.feLimit.toNat ≤ s.dclk - sl.parkedAt) then
    (sl.pend.find? (·.isFe)).filter fun a => !a.leaving
  else none

/-- R156: the limit of a full/empty wait has passed: at a word of the own core the wait is withdrawn, and the slot takes FE_TIMEOUT; to another
core's word the withdrawal sets out, and the slot waits for what it meets there (FE_REMOTE_ARRIVAL). -/
def execFeTimeout (k sl : Nat) (s : State) : Out :=
  let i := 8 * k + sl
  match s.feExpired i with
  | some a =>
    if lmCore a.word = k then .next ((s.withdrawFe i).trapAt i .feTimeout a.va (s.slot i).feOps)
    else .next (s.modSlot i fun sl => { sl with pend := sl.pend.map fun b => if b.id = a.id then { b with leaving := true } else b })
  | none => .refused (.notEnabled "FE_TIMEOUT")

/-! The end of a task (R63). -/

/-- R63: DRAIN's conditions hold. -/
def Slot.drained (sl : Slot) : Bool :=
  sl.st = .drain && sl.cnt = Counters.zero && sl.latch.isNone && sl.vbusy = 0

/-- R371: a trap raised for a task in DRAIN after HALT makes it fault out. -/
def Slot.finalExit (sl : Slot) : Exit :=
  match sl.exit, sl.nextLate with
  | .halt, some t => .fault t.code
  | e, _ => e

/-- R314, R320: the open event of a task that ends. -/
def State.endEvent (s : State) (t : TaskInfo) (e : Exit) : State :=
  match t.evt, e with
  | some n, .halt => s.closeEvent t.part t.agent n
  | some n, .fault c => s.faultEvent t.part t.agent n (BitVec.ofNat 8 c.num)
  | _, _ => s

/-- R284: the launch `l` that broke purity is placed again, impure, at the tail of the partition's device queue. -/
def State.placeAgain (s : State) (l : Nat) (v : Launch) : State :=
  let s := (s.freeGroups v.part v.groups).modDisp fun d => { d with launches := del d.launches l }
  let s := match v.pkt.node with
    | some (g, _, j) => s.modNode g j fun n => { n with missed := false }
    | none => s
  s.pushPacket (deviceQueue v.part)
    { v.pkt with tenant := v.tenant, impure := true, arrived := false, from_ := none, gone := false }

/-- R256: a task of launch `l` has retired; `halted` says that it ended by HALT. -/
def State.retireTask (s : State) (l : Nat) (halted : Bool) : State :=
  match get? s.disp.launches l with
  | none => s
  | some v =>
    let v := { v with live := v.live - 1, halted := if halted then v.halted + 1 else v.halted }
    let s := s.modDisp fun d => { d with launches := put d.launches l v }
    if v.live ≠ 0 then s
    else if v.cancelled then s.finishLaunch l
    else if v.purity then s.placeAgain l v
    else if v.placed = v.n then s.finishLaunch l
    else s

/-- R61: the first core cycle after this one in which slot `i` has a turn. -/
def State.turnAfter (s : State) (i : Nat) : Nat := s.dclk + 1 + (i % 8 + 8 - (s.dclk + 1) % 8) % 8

/-- R63, R258, R66: the task of slot `i` retires: it leaves its groups, and the slot is idle; its registers stay until a task is dispatched to it
(R20, R414). R32: it is no slot reported free until the next
report, and takes no task, a waiting code line neither (R37), before its next turn. -/
def State.retireSlot (s : State) (i : Nat) : State :=
  let sl := s.slot i
  let k := i / 8
  let e := sl.finalExit
  let s := match sl.exit, e with
    | .halt, .fault c => s.noteFault i c (BitVec.ofNat 8 c.num)
    | _, _ => s
  let s := ((s.leaveGroups i).releaseWindow i).modCore k fun c => { c with ring := c.ring.filter fun r => r.2.slot ≠ i }
  let code : BitVec 2 := if h : i % 8 < 6 then (s.core k).duties[i % 8] else sl.dutyCode
  let s := (s.setSlot i { Slot.idle code with regs := sl.regs, intake := sl.intake, freeAt := s.turnAfter i }).unreport i
  let s := s.endEvent sl.task e
  match sl.task.launch with
  | some l => s.retireTask l (decide (e = Exit.halt))
  | none => s

/-- R63: the draining task retires. -/
def execTaskRetire (k sl : Nat) (s : State) : Out :=
  let i := 8 * k + sl
  if (s.slot i).drained then .next (s.retireSlot i) else .refused (.notEnabled "TASK_RETIRE")

/-! The management controller (R416). -/

/-- R416: the controller resumes the slot, as ERET would. -/
def execMgmtTrapResume (k sl : Nat) (pc : Option (BitVec 64)) (s : State) : Out :=
  let i := 8 * k + sl
  if (s.slot i).hold ≠ .mgmt || (s.slot i).st ≠ .stall then .refused (.notEnabled "MGMT_TRAP_RESUME")
  else
    let s := match pc with
      | some p => s.modSlot i fun sl => { sl with ctl := { sl.ctl with epc := p } }
      | none => s
    .next (s.returnTrap i)

/-- R416: the controller ends the task: it faults out with the trap's code. -/
def execMgmtTrapEnd (k sl : Nat) (s : State) : Out :=
  let i := 8 * k + sl
  if (s.slot i).hold ≠ .mgmt || (s.slot i).st ≠ .stall then .refused (.notEnabled "MGMT_TRAP_END")
  else .next (s.endTask i (.fault (trapOfNum (fld ((s.slot i).trap.getD 0 0) 7 0))))

/-! FAULTGET (R384). -/

/-- R384: FAULTGET. -/
def execFaultget (d a : Reg) (s : State) : Out :=
  .next (s.compute [a] d fun s =>
    let v := s.rv a
    if fld v 63 3 ≠ 0 then allOnes else (s.slot s.cur).trap.getD v.toNat 0)

/-! The gang switch (R374, R375, R381). -/

/-- R381: partition `p`'s switch is armed for `t` with resume time `r`, or disarmed where `t` is 0; the status. `back` are octets that the command
gives back (R389). -/
def State.armSwitch (s : State) (p : Nat) (t r : Word) (back : List Nat := []) : Nat × State :=
  match s.part? p with
  | none => (6, s)
  | some v =>
    if t = 0 then
      if v.armed.isSome then (0, s.modPart p fun v => { v with armed := none }) else (6, s)
    else if v.armed.isSome || v.gang ≠ .running then (1, s)
    else if r ≠ 0 && decide (r ≤ t) then (6, s)
    else (0, s.modPart p fun v => { v with armed := some (t, r), back := back.foldl (fun l o => insertNat o l) [] })

/-- R381: GANGSW. -/
def execGangsw (d a b : Reg) (s : State) : Out :=
  .next (s.needS fun s => s.withRegs s.cur [a, b] [d] fun s => s.needImpure fun s =>
    let (st, s') := s.armSwitch (s.slot s.cur).task.part (s.rv a) (s.rv b)
    s'.writeDone s.cur [a, b] d (BitVec.ofNat 64 st))

/-- The cores of a partition, by rank. -/
def Part.cores (v : Part) : List Nat := v.octets.flatMap fun o => (List.range 8).map (8 * o + ·)

/-- R374: what slot `sl` has started is complete: its accesses, but for those waiting at a full/empty word, its granted latch, and what it
waits to have answered. A command that waits in its window's queue has not started. -/
def Slot.quiet (sl : Slot) : Bool :=
  (sl.pend.all fun a => a.queued) && sl.look.isNone &&
  (match sl.latch with
    | some l => l.res.isNone
    | none => true) &&
  (match sl.hold with
    | .reply _ | .insert .. => false
    | _ => true)

/-- R37, R185: the message of the TDRAIN of core `k` waits for room in a full wake queue. -/
def State.drainWaits (s : State) (k : Nat) : Bool :=
  s.net.wakes.any fun w => w.2.core = k && !w.2.dead && w.2.pc.isSome && decide (16 ≤ (s.core w.2.target).wakeQ.length)

/-- Every operation that octet `o` has started is complete. A TDRAIN whose message waits for room in a wake queue is left. -/
def State.octQuiet (s : State) (o : Nat) : Bool :=
  let x := s.oct o
  x.lvRun.isNone && x.mat.l0.run.isNone && x.mat.l1.run.isNone && x.cpy.flight.isEmpty &&
  (List.range 8).all fun j =>
    let k := 8 * o + j
    (match (s.core k).mat.run with
      | some r => r.sent && s.drainWaits k
      | none => true) && (coreSlots k).all fun i => (s.slot i).quiet

/-- The octets and the cores that are listed. -/
def State.octetNums (s : State) : List Nat := s.octets.map (·.1)

def State.coreNums (s : State) : List Nat := s.cores.map (·.1)

/-- R394: what had started before a trip is complete. -/
def State.unitsQuiet (s : State) : Bool :=
  (s.octetNums ++ s.coreNums.map octetOf ++ s.slotNums.map (· / 64)).all s.octQuiet

/-- R374: every operation that partition `v` has started is complete. -/
def State.partQuiet (s : State) (v : Part) : Bool := v.octets.all s.octQuiet

/-- R152, R153, R49: the lines that core `k` holds leave it, written back; a stash bank keeps the bytes of its lines. -/
def State.flushCore (s : State) (k : Nat) : State :=
  let s := (s.core k).stash.foldl (init := s) fun s b =>
    b.2.lines.foldl (init := s.writeBackBank k b.1 0) fun s l => s.keepStashLine k b.1 l.1 l.2.1
  let s := (s.core k).cache.foldl (init := s) fun s l => if l.dirty then s.llcAccess l.pa .none 0 true else s
  (s.modCore k fun c => { c with
    cache := [], lineBuf := [], stash := mapVals (fun _ b => { b with lines := [] }) c.stash }).settleHomes

/-- R63: a slot as a stop saves it: STOPPED, its line dropped (R48); one that a replay's end has left STOPPED keeps what that saved. -/
def Slot.stop (sl : Slot) : Slot :=
  if sl.st = .idle || sl.st = .stopped then sl else { sl with st := .stopped, saved := sl.st, line := none, from_ := 0, via := none }

/-- R156: the time between the stop at core cycle `c0` and the resume at `c1` counts toward no FEWAIT. -/
def Slot.shift (sl : Slot) (c0 c1 : Nat) : Slot :=
  { sl with parkedAt := if sl.parkedAt < c0 then sl.parkedAt + (c1 - c0) else if sl.st = .stopped then max sl.parkedAt c1 else sl.parkedAt }

/-- R63: a slot as a resume restores it. -/
def Slot.restart (sl : Slot) : Slot := if sl.st = .stopped then { sl with st := sl.saved, saved := .idle } else sl

/-- The bytes of core `k`'s local memory, by offset. -/
def State.lmImage (s : State) (k : Nat) : Memory :=
  (s.mm.bytes.filter fun c => decide (lmAddr k 0 ≤ c.1) && decide (c.1 < lmAddr (k + 1) 0)).map fun c => (c.1 - lmAddr k 0, c.2)

/-- The words of core `k`'s local memory among `l`, by offset. -/
def lmWords (k : Nat) (l : List Nat) : List Nat :=
  (l.filter fun a => decide (lmAddr k 0 ≤ a) && decide (a < lmAddr (k + 1) 0)).map (· - lmAddr k 0)

/-- R374: the image of core `k`. -/
def State.coreImage (s : State) (k resume : Nat) : CoreImage :=
  { core := k, c := s.core k
    slots := (s.slots.filter fun x => x.1 / 8 = k).map fun x => (x.1 % 8, x.2.stop)
    mem := s.lmImage k, full := lmWords k s.mm.full, poison := lmWords k s.mm.poison
    wins := (s.oct (octetOf k)).wins.filter fun w => match w.2.holder with
      | some i => i / 8 = k
      | none => false
    resume := resume }

/-- Core `k`'s local memory is zero, EMPTY and without poison. -/
def State.clearLm (s : State) (k : Nat) : State :=
  let out (a : Nat) : Bool := decide (a < lmAddr k 0) || decide (lmAddr (k + 1) 0 ≤ a)
  s.modMm fun m => { m with
    bytes := m.bytes.filter fun c => out c.1, full := m.full.filter out, poison := m.poison.filter out }

/-- Core `k` holds nothing: its slots, its registers and its local memory are as after reset, and with them DUTY, the issue table and RSEED.
DEDUCED (log 54): R65, R67 and R87 give those three a value at module reset, and this operation, which PART_CREATE, PART_DESTROY, a gang
switch's save and the power commands use, gives them that value too. -/
def State.clearCore (s : State) (k : Nat) : State :=
  let s := s.clearLm k
  { s with slots := s.slots.filter fun x => x.1 / 8 ≠ k, cores := del s.cores k : State }.settleHomes

/-- Core `k`'s local memory takes the contents of an image. -/
def State.loadLm (s : State) (k : Nat) (im : CoreImage) : State :=
  let s := s.clearLm k
  s.modMm fun m => { m with
    bytes := im.mem.foldl (fun b c => b.setBytes (lmAddr k c.1) [c.2]) m.bytes
    full := im.full.foldl (fun l w => insertNat (lmAddr k w) l) m.full
    poison := im.poison.foldl (fun l w => insertNat (lmAddr k w) l) m.poison }

/-- R374, log 32: byte `j` of the image whose bytes are the free values from number `id` on. -/
def imageByte (id j : Nat) : Byte := (Config.freeWord (id + j)).setWidth 8

/-- R374, R377: `n` bytes of device memory from `a` hold a part of an image. The spec does not give an image's layout: each byte is a
free value (log 32), from number `id` on. -/
def State.imageBytes (s : State) (a n id : Nat) : State :=
  let n := min n (devEnd - a)
  if n = 0 then s
  else
    let s := s.noteTail a n
    let s := ((linesOf a n).foldl (init := s) fun s l => s.dropCopies l none).homeWrites a n 0
    let s := ((List.range ((a + n + 65535) / 65536 - a / 65536)).map fun j => a / 65536 + j).foldl State.watchWrite s
    let s := s.modMm fun m => { m with
      bytes := m.bytes.fill a n (imageByte id)
      poison := m.poison.filter fun w => !(decide (a < w + 8) && decide (w < a + n)) }
    { s with cores := mapVals (fun _ c => { c with
        lineBuf := c.lineBuf.filter fun l => !(decide (a < l + 64) && decide (l < a + n)) }) s.cores }

/-- R374: the bytes of a core's image. -/
def imageSize : Nat := 0x80000

/-- R383: the log and image writes of core `k`, as engine writes of its partition. -/
def State.logEng (s : State) (k : Nat) : Eng :=
  let p := (s.core k).rp.part
  { core := some k, part := p, lv := .s, ti := { TaskInfo.empty with part := p }, hint := .none }

/-- The parts of the 512 KiB at IMAGE of core `k` that lie in one 64 KiB page each: offset and length. -/
def imageParts (v : Nat) : List (Nat × Nat) :=
  ((List.range 9).map fun j =>
    let lo := max v (65536 * (v / 65536 + j))
    (lo - v, min (v + imageSize) (65536 * (v / 65536 + j + 1)) - lo)).filter fun x => x.2 ≠ 0

/-- R377, R378, R383: core `k`'s checkpoint image, `im`, lies at IMAGE; a part of it that does not translate to device memory is dropped. Its
bytes are free values, whose first number it is known by (log 32). -/
def State.writeImage (s : State) (k : Nat) (im : CoreImage) : State :=
  let r := (s.core k).rp
  let id := s.sched.nfree
  let s := (s.modSched fun c => { c with nfree := id + imageSize }).modPart r.part fun v => { v with ckpts := put v.ckpts id im }
  (imageParts r.image.toNat).foldl (init := s) fun s x =>
    match s.engXlate (s.logEng k) .w (r.image + BitVec.ofNat 64 x.1) with
    | (.ok (pa, some l), s) => if l.tgt = 0 then s.imageBytes pa x.2 (id + x.1) else s
    | (_, s) => s

/-- R378, R383: the bytes at IMAGE of core `k` are read, each line at its home (R209); none where a part does not translate to device memory or
is poisoned. -/
def State.readImage (s : State) (k : Nat) : Option (List Byte) × State :=
  (imageParts (s.core k).rp.image.toNat).foldl (init := (some [], s)) fun r x =>
    match r.1, r.2.engXlate (r.2.logEng k) .r ((s.core k).rp.image + BitVec.ofNat 64 x.1) with
    | some bs, (.ok (pa, some l), s) =>
      if l.tgt ≠ 0 || s.poisoned pa x.2 then (none, s)
      else
        let s := (linesOf pa x.2).foldl (init := s) fun s a =>
          ((s.meetFlip (s.pageBusy a)).cleanCopies a none).llcAccess a .none 0 false
        (some (bs ++ s.rdBytes pa x.2), s)
    | _, (_, s) => (none, s)

/-- R378: the bytes that the image of id `id` has in memory (log 32). -/
def imageList (id : Nat) : List Byte := (List.range imageSize).map (imageByte id)

/-- R378: the image, of the checkpoints `l`, whose bytes are `bs`. -/
def imageWith (l : AMap CoreImage) (bs : List Byte) : Option CoreImage :=
  l.findSome? fun e => if bs = imageList e.1 then some e.2 else none

/-- R378: the image, of those that core `k`'s partition has made, whose bytes lie at IMAGE. -/
def State.findImage (s : State) (k : Nat) : Option CoreImage × State :=
  let r := s.readImage k
  (r.1.bind fun bs => imageWith ((s.part? (s.core k).rp.part).elim [] (·.ckpts)) bs, r.2)

/-! The log in memory (R377). -/

/-- A record: its offset and what it records. -/
structure LogRec where
  off : Nat
  r : Receive
deriving DecidableEq, Repr

/-- R377: the 16 bytes of a record. -/
def LogRec.bytes (x : LogRec) : List Byte :=
  wordBytes (BitVec.ofNat 64 (x.r.src.toNat * 2 ^ 48 + x.r.kind % 32 * 2 ^ 43 + x.r.slot % 8 * 2 ^ 40 + x.off % 2 ^ 40)) ++ wordBytes x.r.data

/-- The record that 16 bytes hold. -/
def logRecOf (bs : List Byte) : LogRec :=
  let w := wordAt bs 0
  { off := fld w 39 0, r := { kind := fld w 47 43, slot := fld w 42 40, src := w.extractLsb' 48 15, data := wordAt bs 1 } }

/-- R383: the log of core `k` ends with a status, an engine write to STATUS. -/
def State.endLog (s : State) (k code : Nat) : State :=
  let r := (s.core k).rp
  let s := s.engDrop (s.logEng k) r.status (wordBytes (BitVec.ofNat 64 (r.count * 256 + code)))
  s.modCore k fun c => { c with rp := ReplayCore.off }

/-- R377: one record is written at the log's end; a full log ends the recording. -/
def State.writeRecord (s : State) (k : Nat) (r : Receive) : State :=
  let q := (s.core k).rp
  match q.mode with
  | .recording =>
    if q.lbytes < 16 * (q.count + 1) then s.endLog k 2
    else
      let x : LogRec := { off := s.dclk - q.base, r := r }
      let s := s.engDrop (s.logEng k) (q.lbase + BitVec.ofNat 64 (16 * q.count)) x.bytes
      s.modCore k fun c => { c with rp := { c.rp with count := c.rp.count + 1 } }
  | _ => s

/-- A record in its place among those of one core cycle: kind order, then slot order (R377). -/
def insertReceive (r : Receive) : List Receive → List Receive
  | [] => [r]
  | x :: t => if r.kind < x.kind || (r.kind = x.kind && r.slot < x.slot) then r :: x :: t else x :: insertReceive r t

/-- R377: the records of this core cycle of core `k` are written. -/
def State.flushLog (s : State) (k : Nat) : State :=
  match (s.core k).rp.buf with
  | [] => s
  | b =>
    let s := s.modCore k fun c => { c with rp := { c.rp with buf := [] } }
    (b.foldl (fun l r => insertReceive r l) []).foldl (init := s) fun s r => s.writeRecord k r

/-- R377: the records of the core cycle that ends are written. -/
def State.flushLogs (s : State) : State := (s.cores.map (·.1)).foldl (init := s) State.flushLog

/-- R374: partition `p` is saved, and its octets hold nothing of it. R377: what its cores' logs have still to write is written first. -/
def State.savePart (s : State) (p : Nat) (v : Part) (r : Word) : State :=
  let ks := v.cores
  let s := ks.foldl (init := s) fun s k => (s.flushLog k).flushCore k
  let mine (q : Nat × Nat × Nat) : Bool := ks.contains (q.2.1 / 8)
  let images := ks.map fun k => (k, s.coreImage k 0)
  let octs := v.octets.map fun o => (o, { s.oct o with tlb := [] })
  let s := s.modPart p fun v => { v with
    gang := .stopped r, away := [], images := images, octs := octs, feq := s.mm.feq.filter mine }
  let s := s.modMm fun m => { m with feq := m.feq.filter fun q => !mine q }
  let s := s.modNet fun n => { n with flits := mapVals (fun _ f => if f.part = p then { f with ejected := true } else f) n.flits }
  let id := s.sched.nfree
  let s := (List.range ks.length).foldl (init := s.modSched fun c => { c with nfree := id + imageSize * ks.length }) fun s j =>
    s.imageBytes (v.save + imageSize * j) imageSize (id + imageSize * j)
  let s := ks.foldl (init := s) fun s k => s.clearCore k
  v.octets.foldl (init := s) fun s o => s.setOct o { Octet.reset with tlb := (s.oct o).tlb }

/-- R374: at the armed time no slot of the partition issues any more; once what it has started is complete, it is saved. -/
def execGangStop (p : Nat) (s : State) : Out :=
  match s.part? p with
  | none => .refused (.notEnabled "GANG_STOP")
  | some v => match v.gang, v.armed with
    | .running, some (t, r) =>
      if s.dclk % 8 = 0 && decide (t.toNat ≤ s.dclk) && !s.sched.begun then
        .next (s.modPart p fun v => { v with armed := none, gang := .stopping r, stoppedAt := s.dclk, given := false })
      else .refused (.notEnabled "GANG_STOP")
    | .stopping r, _ => if s.partQuiet v then .next (s.savePart p v r) else .refused (.notEnabled "GANG_STOP")
    | _, _ => .refused (.notEnabled "GANG_STOP")

/-- R381: the octets `os` are partition `p`'s now: to a stopped partition that lists one, it must be given back. -/
def State.takeAway (s : State) (p : Nat) (os : List Nat) : State :=
  { s with parts := mapVals (fun q v =>
      if q = p || v.gang = .running then v else { v with away := (os.filter v.octets.contains).foldl (fun l o => insertNat o l) v.away }) s.parts }

/-- R375: what partition `p` saved is restored on the same slots. -/
def State.restorePart (s : State) (p : Nat) (v : Part) : State :=
  let c1 := s.dclk
  let d := c1 - v.stoppedAt
  let s := v.octs.foldl (init := s) fun s o => s.setOct o.1 { o.2 with tlb := (s.oct o.1).tlb }
  let s := v.images.foldl (init := s) fun s x =>
    let re : Bool := decide (x.2.c.rp.mode = .replay)
    let d' := (d + 31) / 32 * 32
    let c := if re then { x.2.c with rp := { x.2.c.rp with base := x.2.c.rp.base + d', after := max x.2.c.rp.after v.stoppedAt + d' } }
      else x.2.c
    let s := (s.setCore x.1 c).loadLm x.1 x.2
    x.2.slots.foldl (init := s) fun s y => s.setSlot (8 * x.1 + y.1) (if re then y.2 else y.2.shift v.stoppedAt c1).restart
  let s := (s.modMm fun m => { m with feq := m.feq ++ v.feq }).takeAway p v.octets
  let s := s.modNet fun n => { n with flits := mapVals (fun _ f => if f.part = p then { f with ejected := false } else f) n.flits }
  let shift (c : Scan) : Scan := { c with at_ := c.at_ + d }
  let s := s.modPart p fun v => { v with
    gang := .running, given := false, away := [], back := [], images := [], octs := [], feq := [], scan := v.scan.map shift }
  -- R36: what was cancelled while it was saved ends now
  let s := s.slotNums.foldl (init := s) fun s i =>
    if (s.slot i).task.part = p && ((s.slot i).task.launch.bind fun l => get? s.disp.launches l).elim false (·.cancelled) then s.cancelTask i
    else s
  v.cores.foldl (init := s) fun s k => (s.reachBarrier k).startWakes k

/-- R377: a recording armed on a core begins at the resume, whose save image is its checkpoint. -/
def State.beginRecording (s : State) (p k : Nat) (im : CoreImage) : State :=
  match (s.core k).rp.mode with
  | .armed =>
    let c0 := (s.part? p).elim 0 (·.stoppedAt)
    (s.modCore k fun c => { c with rp := { c.rp with mode := .recording, base := s.dclk, count := 0, buf := [] } }).writeImage k
      { im with slots := mapVals (fun _ sl => sl.shift c0 s.dclk) im.slots, resume := s.dclk }
  | _ => s

/-- R375, R381: partition `p` may resume at the start of this core cycle; an octet that another partition has been given since the stop must have
been given back (log 29). -/
def State.mayResume (s : State) (v : Part) : Bool :=
  (match v.gang with
    | .stopped r => if r = 0 then v.given else decide (r.toNat ≤ s.dclk)
    | _ => false) &&
  s.dclk % 8 = 0 && !s.sched.begun && !s.host.standby && !s.host.clocksStopped && !s.host.trip &&
  v.octets.all fun o => (s.oct o).part.isNone && (s.die (o / 256)).on && (!v.away.contains o || v.back.contains o)

/-- R375: the partition resumes. -/
def execGangResume (p : Nat) (s : State) : Out :=
  match s.part? p with
  | none => .refused (.notEnabled "GANG_RESUME")
  | some v =>
    if s.mayResume v then
      .next (v.images.foldl (init := s.restorePart p v) fun s x => s.beginRecording p x.1 x.2)
    else .refused (.notEnabled "GANG_RESUME")

/-! The deadlock detector (R379, R382). -/

/-- R382: DLCHK starts a check, or joins the one that runs. -/
def execDlchk (s : State) : Out :=
  .next (s.needImpure fun s =>
    let i := s.cur
    let p := (s.slot i).task.part
    (s.modPart p fun v => { v with scan := match v.scan with
      | some c => some { c with joined := c.joined ++ [i] }
      | none => some { at_ := s.dclk, joined := [i] } }).holdFor i .scan)

/-- A ring link (R351): the core whose y30 a stream is bound to, its stack, its number and its entry. -/
structure RingLink where
  core : Nat
  stack : Nat
  num : Nat
  entry : StreamEntry
deriving DecidableEq, Repr

/-- The ring links of partition `p`. -/
def State.ringLinks (s : State) (p : Nat) : List RingLink :=
  s.dies.flatMap fun d => d.2.net.streams.filterMap fun e =>
    if e.2.part = p && e.2.port = some 2 then some { core := e.2.core, stack := d.1, num := e.1, entry := e.2 } else none

/-- The cores whose y30 intake a ring link names. -/
def State.linkTargets (s : State) (l : RingLink) : List Nat :=
  l.entry.sets.flatMap fun t => (t.filter fun e => s.isOwnEp e && e.port = 2).map (·.core)

/-- A word that a ring link has delivered stands in the y30 intake of a core that it names. -/
def State.linkHeld (s : State) (l : RingLink) : Bool := (s.linkTargets l).any fun k => !((s.core k).net.intake.getD 2 []).isEmpty

/-- A word of the link is in flight, or its outlet's next item can leave or has still to be produced. -/
def State.linkMoves (s : State) (p : Nat) (l : RingLink) : Bool :=
  (s.net.flits.any fun f => f.2.part = p && f.2.stack = l.stack && f.2.stream = l.num) ||
  (let out := (s.core l.core).net.outlet.getD 2 []
   match out with
   | [] => false
   | .marker :: _ | .hold _ :: _ => true
   | _ => s.endpointsTake p l.num (frontWords 3 out).length (l.entry.sets.getD l.entry.j []))

/-- Slots of core `k` that hold a task and port rights. -/
def State.portSlots (s : State) (k : Nat) : List Nat := (coreSlots k).filter fun i => (s.slot i).live && (s.slot i).portRights i

/-- R379: the slots that can release slot `i`, parked by cause 5, 6 or 7 on y30; none for another cause, for a slot whose release is in flight, and
where a word of the incoming or of the outgoing ring stream of its core is in flight, or in an intake. A word in an intake does not bar a slot that
pushes: R379's first case has both intakes full (log 50). -/
def State.releasers (s : State) (p i : Nat) : Option (List Nat) :=
  let sl := s.slot i
  let k := i / 8
  let links := s.ringLinks p
  let feed := links.filter fun l => (s.linkTargets l).contains k
  let out := links.filter fun l => l.core = k
  let held : Bool := !((s.core k).net.intake.getD 2 []).isEmpty || out.any s.linkHeld
  if sl.st ≠ .parked || (feed ++ out).any (s.linkMoves p) then none
  else match sl.park with
    | .bar _ gid _ =>
      if sl.barAt.isSome || held then none
      else some (s.slotNums.filter fun j =>
        let o := s.slot j
        o.live && o.task.part = p && o.task.groups.contains gid.toNat && !(match o.park with
          | .bar _ g _ => g = gid && o.st = .parked
          | _ => false))
    | .pop 30 => if held then none else some (feed.flatMap fun l => s.portSlots l.core)
    | .push 30 => some (out.flatMap fun l => (s.linkTargets l).flatMap s.portSlots)
    | _ => none

/-- R379: of the candidates `c` (slot, releasers), the largest set each of which can be released only by members. -/
def deadlockedSet : Nat → List (Nat × List Nat) → List Nat
  | 0, c => c.map (·.1)
  | n + 1, c =>
    let ids := c.map (·.1)
    let kept := c.filter fun x => x.2.all ids.contains
    if kept.length = c.length then ids else deadlockedSet n kept

/-- R379: the deadlocked set of partition `p` at the second scan of a check that began at core cycle `from_`. -/
def State.deadlocked (s : State) (p from_ : Nat) : List Nat :=
  let c := s.slotNums.filterMap fun i =>
    if (s.slot i).task.part = p && decide ((s.slot i).parkedAt ≤ from_) then (s.releasers p i).map fun r => (i, r) else none
  deadlockedSet c.length c

/-- R379, R382: the second scan: every slot of the set is to take DEADLOCK, and the checking slots go on with the count. -/
def execDlchkScan (p : Nat) (s : State) : Out :=
  match (s.part? p).bind (·.scan) with
  | none => .refused (.notEnabled "DLCHK_SCAN")
  | some c =>
    if !s.partRuns p || s.dclk < c.at_ + 256 then .refused (.notEnabled "DLCHK_SCAN")
    else
      let l := s.deadlocked p c.at_
      let s := s.modPart p fun v => { v with scan := none }
      let s := l.foldl (init := s) fun s i => s.raise i (.deadlock (s.slot i).blk)
      .next (c.joined.foldl (init := s) fun s i =>
        if (s.slot i).hold = .scan then
          (s.modSlot i fun sl => { sl with ctl := { sl.ctl with dlcnt := BitVec.ofNat 32 l.length } }).complete i
        else s)

end Sys2Proof.Machine
end

