-- ==== Sys2Proof/Machine/Replay.lean ====
section
/-!
DEFINITION. The receive log and replay (R376 to R378, R383): RPLOG, the receives of a recorded core, a replaying core's own view of the
state, and what each recorded receive does (log 30).
-/

namespace Sys2Proof.Machine

/-! Recording (R376). The receives that one step brings are those by which it changed the core. -/

/-- The accesses, requests and matrix operations that slot `i` has outstanding: number, issue cycle. -/
def State.outstanding (s : State) (i : Nat) : List (Nat × Nat) :=
  let c := s.core (i / 8)
  let o := s.oct (octetOf (i / 8))
  ((s.slot i).pend.map fun a => (a.id, a.issued)) ++
  ((c.cpy.fifo.filter (·.slot = i)).map fun r => (r.order, r.issued)) ++
  ((o.cpy.flight.filter fun r => r.req.slot = i).map fun r => (r.req.order, r.req.issued))

/-- The long-mode memory commands of slot `i` that are not complete (R147): ring entry, issue cycle. -/
def State.longOut (s : State) (i : Nat) : List (Nat × Nat) :=
  let queued := match s.window? i with
    | some w => (s.win (octetOf (i / 8)) w).queue.map (·.cmd)
    | none => []
  let runs := ((s.oct (octetOf (i / 8))).lvRun.toList.filter fun r => r.cmd.slot = i).map (·.cmd.cmd)
  (((s.slot i).latch.toList ++ queued ++ runs).filter fun l => l.long && match l.instr with
    | .vld .. | .vldx .. | .vst .. | .vstx .. => true
    | _ => false).map fun l => (l.seq, l.issued)

/-- The collectives of slot `i` that are not complete (R361): group, issue cycle. -/
def State.collOut (s : State) (i : Nat) : List (Nat × Nat) :=
  let runs := s.net.colls.flatMap fun c => c.2.members.filterMap fun m => if m.done then none else m.post
  (((s.core (i / 8)).net.coll ++ runs).filter (·.slot = i)).map fun q => (q.group, q.issued)

/-- A ring entry of slot `i` has met a fault between `s` and `t`: its operation, and those discarded behind it (R131, R185), are not performed. -/
def ringFails (s t : State) (i : Nat) : Bool :=
  (t.core (i / 8)).ring.any fun e => e.2.slot = i && e.2.fault && !((get? (s.core (i / 8)).ring e.1).any (·.fault))

/-- The matrix operations of slot `i` that are not complete: ring entry, issue cycle. -/
def State.matrixOut (s : State) (i : Nat) : List (Nat × Nat) :=
  let c := s.core (i / 8)
  let m := (s.oct (octetOf (i / 8))).mat
  let runs := c.mat.run.toList.map (·.op) ++ m.l0.run.toList.map (·.2.op) ++ m.l1.run.toList.map (·.2.op)
  ((c.mat.queue ++ runs).filter (·.slot = i)).map fun q => (q.seq, q.issued)

/-- The receives of kinds 1, 3, 4, 8 and 9, and of kind 10 for an acquire that waited (R229), that slot `sl` of core `k` met between `s` and
`t`; `own` is a step of the core's own. -/
def slotReceives (s t : State) (k sl : Nat) (own : Bool) : List Receive :=
  let i := 8 * k + sl
  let a := s.slot i
  let b := t.slot i
  let base := (s.core k).rp.base
  let src : BitVec 15 := BitVec.ofNat 15 k
  let mk (kind : Nat) (data : Word) : Receive := { kind := kind, slot := sl, src := src, data := data }
  let cancelled := b.exit = .cancelled && a.exit ≠ .cancelled
  let gone (l m : List (Nat × Nat)) : List Receive := (l.filter fun x => !m.contains x).map fun x => mk 1 (BitVec.ofNat 64 (x.2 - base))
  let ring := if ringFails s t i then [] else gone (s.matrixOut i) (t.matrixOut i) ++ gone (s.longOut i) (t.longOut i)
  let ops := if own || cancelled then [] else gone (s.outstanding i) (t.outstanding i) ++ ring ++ gone (s.collOut i) (t.collOut i)
  let held := match a.hold, b.hold with
    | .access id, .none => if own || cancelled then [] else
        ((a.pend.filter fun x => x.id = id && match x.kind with
          | .load .. => true
          | _ => false).map fun _ => mk 10 b.pc)
    | _, _ => []
  let opened := if own then [] else match a.task.evt, b.task.evt with
    | none, some _ => [mk 3 ((t.openEvent i).map (·.msg.ts) |>.getD allOnes)]
    | _, _ => []
  let posted := if own then [] else (b.mbox.drop a.mbox.length).map fun m => mk 4 m.w1
  let bars := match a.park, b.park with
    | .bar _ g _, .none => if own || cancelled || a.barAt.isNone then [] else [mk 8 (g.setWidth 64)]
    | _, _ => []
  let stops := (if cancelled then [mk 9 0x12] else []) ++
    ((b.late.filter fun x => x.code = .deadlock && !a.late.contains x).map fun _ => mk 9 0x0F)
  ops ++ opened ++ posted ++ bars ++ stops ++ held

/-- R155: the full/empty accesses at word `w` that a step served: whether they were loads. -/
def servedAt (s t : State) (w : Nat) : List Bool :=
  (s.mm.feq.filter fun q => q.1 = w && !t.mm.feq.contains q).filterMap fun q =>
    ((s.slot q.2.1).pend.find? fun a => a.id = q.2.2).map fun a => match a.kind with
      | .ldf .. => true
      | _ => false

/-- The receives of kind 5: the words of core `k`'s local memory that another party changed. -/
def wordReceives (s t : State) (k : Nat) : List Receive :=
  let inside (a : Nat) : Bool := decide (lmAddr k 0 ≤ a) && decide (a < lmAddr (k + 1) 0)
  let ws := (s.mm.bytes.filter fun c => inside c.1 && !t.mm.bytes.contains c).map fun c => c.1 / 8 * 8
  let ws := ws ++ (t.mm.bytes.filter fun c => inside c.1 && !s.mm.bytes.contains c).map fun c => c.1 / 8 * 8
  let ws := ws ++ (s.mm.full.filter fun w => inside w && !t.mm.full.contains w)
  let ws := ws ++ (t.mm.full.filter fun w => inside w && !s.mm.full.contains w)
  let ws := ws ++ ((s.mm.feq.filter fun q => inside q.1 && !(servedAt s t q.1).isEmpty).map (·.1))
  (ws.foldl (fun l w => insertNat w l) []).map fun w =>
    let served := servedAt s t w
    let stf := served.contains false
    let full := if stf then false else if served.contains true then true else t.fullWord w
    { kind := 5, slot := 0, src := BitVec.ofNat 15 ((w - lmAddr k 0) / 8 % 2 ^ 14 + (if full then 2 ^ 14 else 0))
      data := if stf then s.rdWord w else t.rdWord w }

/-- The receives of kinds 2, 6 and 7; SRC of a word is the core that it comes from. -/
def coreReceives (s t : State) (k : Nat) : List Receive :=
  let a := s.core k
  let b := t.core k
  let src : BitVec 15 := BitVec.ofNat 15 k
  let from_ (p : Nat) : BitVec 15 := BitVec.ofNat 15 (((s.net.flits.find? fun f => (get? t.net.flits f.1).isNone &&
    f.2.heads.any fun h => headCore h = k && headPort h = p).map fun f => f.2.core).getD 0)
  let words := (List.range 3).flatMap fun p =>
    ((b.net.intake.getD p []).drop (a.net.intake.getD p []).length).map fun w => { kind := 2, slot := p, src := from_ p, data := w : Receive }
  let wake (q : WakeLine) : Receive := { kind := 6, slot := 0, src := BitVec.ofNat 15 (q.x2.toNat / 8), data := q.pc }
  let lines := (b.wakeQ.drop a.wakeQ.length).map wake
  let started := ((coreSlots k).filter fun i => !(s.slot i).live && (t.slot i).live && (t.slot i).task.evt.isNone
    && (t.slot i).task.launch.isNone && i % 8 ≠ 7 && a.wakeQ.isEmpty).map fun i =>
      { kind := 6, slot := i % 8, src := BitVec.ofNat 15 (((t.slot i).regs.x.getD 2 0).toNat / 8), data := (t.slot i).pc : Receive }
  let done := (a.ring.filter fun e => e.2.busy).filterMap fun e =>
    let r (st : Nat) : Option Receive :=
      some { kind := 7, slot := e.2.slot % 8, src := src, data := BitVec.ofNat 64 (e.1 + st * 256) }
    match get? b.ring e.1 with
    | none => if (t.slot e.2.slot).exit = .cancelled || ringFails s t e.2.slot then none else r 0
    | some x => if x.fault && !x.busy then
        r (((t.slot e.2.slot).late.findSome? fun l => match l with
          | .coproc n _ _ _ _ ops => if n = e.1 then some (fld ops 7 0) else none
          | _ => none).getD 0)
      else none
  words ++ lines ++ started ++ done

/-- R376: whether GETC of register `n` reads a value from outside the core. -/
def outsideCr (n : BitVec 10) : Bool :=
  [0x01B, 0x049, 0x04A, 0x048, 0x047, 0x022, 0x023].contains n.toNat

/-- R376, kind 11: the register sources of an instruction that is not counted and takes a value from outside, and its destination. -/
def outsideRegs : Instr → Option (List Reg × Option Reg)
  | .agnew d a | .evsend d a | .launch d a | .qstat d a | .glaunch d a | .rulook d a | .ruput d a | .rustat d a | .coll d a
  | .nstat d a | .pinw d a | .pinq d a | .rplog d a => some ([a], some d)
  | .agstat d a b | .ctxapp d a b | .irrev d a b | .enq d a b | .gtok d a b | .gexp d a b | .gcancel d a b | .gretry d a b
  | .hostsig d a b | .gangsw d a b => some ([a, b], some d)
  | .ctxcut d a b _ | .gstat d a b _ | .cwb d a b _ => some ([a, b], some d)
  | .cinv d a b _ _ => some ([a, b], some d)
  | .rudrop d a _ => some ([a], some d)
  | .streamset d a _ => some ([a], some d)
  | .mark d _ => some ([], some d)
  | .biasf d a _ => some ([a], some d)
  | .dlchk => some ([], none)
  | .getc d n => if outsideCr n then some ([], some d) else none
  | _ => none

/-- R376: the receives of the turn in which slot `i` went from `s` to `t`, issuing the head `ins` where it issued one: kinds 8 (the last arrival at
a BAR), 10 and 11. -/
def turnReceives (s t : State) (i : Nat) (ins : Option Instr) : List Receive :=
  let a := s.slot i
  let b := t.slot i
  let k := i / 8
  let mk (kind : Nat) (data : Word) : Receive := { kind := kind, slot := i % 8, src := BitVec.ofNat 15 k, data := data }
  let still := b.st = .stall && b.hold = .none
  let short := match a.latch with
    | some l => !l.long
    | none => false
  let ten := if a.st = .stall && a.hold = .none && !short && !still && (ins.isSome || a.found.isSome) then [mk 10 a.pc] else []
  let done := (b.st = .ready || b.st = .stall && b.hold = .mgmt || b.st = .drain) &&
    (b.trap = a.trap || fld (b.trap.getD 0 0) 7 0 = TrapCode.sstep.num) && b.exit ≠ .cancelled
  let more := match ins with
    | some ins =>
      (match ins with
        | .bar _ g => if done && a.task.grp.getLsbD (32 + g.toNat) then
            [mk 8 (BitVec.ofNat 64 (fld a.task.grp (8 * g.toNat + 7) (8 * g.toNat)))] else []
        | _ => []) ++
      (match outsideRegs ins with
        | some (_, some d) => if done then [mk 11 (t.reg i d)] else []
        | _ => [])
    | none => []
  ten ++ more

/-- R295, R382, R397: the value of an instruction that held its slot until another happening wrote it (kind 11). -/
def heldReceives (s t : State) (k : Nat) : List Receive :=
  (coreSlots k).filterMap fun i =>
    let r (v : Word) : Option Receive := some { kind := 11, slot := i % 8, src := BitVec.ofNat 15 k, data := v }
    match (s.slot i).hold, (t.slot i).hold with
    | .scan, .none => r ((t.slot i).ctl.dlcnt.setWidth 64)
    | .reply d, .none | .insert _ d, .none => match d with
      | .x n => r ((t.slot i).readX n)
      | .sx n => r ((t.slot i).regs.sx.getD n.toNat 0)
      | .y n => r (t.reg i (.y n))
    | _, _ => none

/-- R377: what the step from `s` to `t` brought to the recorded cores; `turn` is the slot whose turn it was, with the head that it issued, `own` a
core whose own happening it was. -/
def State.record (s t : State) (turn : Option (Nat × Option Instr)) (own : Option Nat) : State :=
  (t.cores.filter fun c => c.2.rp.mode = .recording).foldl (init := t) fun u c =>
    let k := c.1
    let mine := turn.map (·.1 / 8) = some k || own = some k
    let rs := (List.range 8).flatMap (fun sl => slotReceives s t k sl mine)
      ++ (if mine then [] else wordReceives s t k ++ coreReceives s t k ++ heldReceives s t k)
      ++ (match turn with
        | some (i, ins) => if i / 8 = k then turnReceives s t i ins else []
        | none => [])
    u.modCore k fun c => { c with rp := { c.rp with buf := c.rp.buf ++ rs } }

/-! RPLOG (R383). -/

/-- R378: the replay of core `k` starts from the checkpoint image at IMAGE; where none lies there it ends as DIVERGED. R61, R67: its first core
cycle is the next one that stands in its frame of 32 as the checkpoint's resume core cycle did, so that its slots and its issue table have their
common core cycles (log 30). -/
def State.startReplay (s : State) (k : Nat) (rp : ReplayCore) : State :=
  match (s.modCore k fun c => { c with rp := { rp with mode := .replay } }).findImage k with
  | (none, s) => s.endLog k 3
  | (some im, s) =>
    let s := s.loadLm k im
    let c := s.dclk + 1
    let base := c + (im.resume % 32 + 32 - c % 32) % 32
    let s := s.setCore k { im.c with rp := { rp with mode := .replay, base := base, after := base, count0 := im.resume } }
    let s := (coreSlots k).foldl (init := s) fun s i =>
      s.setSlot i ((get? im.slots (i % 8)).map (·.restart) |>.getD (Slot.idle (s.slot i).dutyCode))
    im.wins.foldl (init := s) fun s w => s.setWin (octetOf k) w.1 w.2

/-- R383: RPLOG. -/
def execRplog (d a : Reg) (s : State) : Out :=
  .next (s.needS fun s => s.withRegs s.cur [a] [d] fun s => s.needImpure fun s =>
    let i := s.cur
    s.loadThen i (s.rv a) 64 64 false fun s bs =>
      let w := wordAt bs 0
      let k := fld w 28 16
      let p := (s.slot i).task.part
      let mode := fld w 1 0
      let rp : ReplayCore :=
        { mode := .armed, lbase := wordAt bs 1, lbytes := (wordAt bs 2).toNat, image := wordAt bs 3, status := wordAt bs 4, part := p
          count := 0, base := 0, after := 0, count0 := 0, buf := [] }
      let end_ (s : State) : State := match (s.core k).rp.mode with
        | .off => s
        | _ => (s.flushLog k).endLog k 4
      if fld w 63 29 ≠ 0 || fld w 15 2 ≠ 0 || wordAt bs 5 ≠ 0 || wordAt bs 6 ≠ 0 || wordAt bs 7 ≠ 0 || s.corePart k ≠ some p
          || mode = 3 then s.writeDone i [a] d 6
      else if mode = 2 && (coreSlots k).any fun j => (s.slot j).live then s.writeDone i [a] d 1
      else if mode = 0 then
        let s := ((s.flushLog k).modCore k fun c => { c with rp := { c.rp with status := rp.status, part := p } }).endLog k 4
        s.writeDone i [a] d 0
      else if mode = 1 then ((end_ s).modCore k fun c => { c with rp := rp }).writeDone i [a] d 0
      else ((end_ s).startReplay k rp).writeDone i [a] d 0)

/-! A replaying core (R378). -/

/-- R378: the state as core `k` meets it: a replaying core's clock is the checkpoint's resume core cycle plus the offset. -/
def State.view (s : State) (k : Nat) : State :=
  let r := (s.core k).rp
  match r.mode with
  | .replay => { s with dclk := s.dclk - r.base + r.count0 }
  | _ => s

/-- The replay has begun, and goes on. -/
def State.replayOn (s : State) (k : Nat) : Bool := s.replays k && decide ((s.core k).rp.after ≤ s.dclk)

/-- The offset of the replay of core `k`. -/
def State.replayOff (s : State) (k : Nat) : Nat := s.dclk - (s.core k).rp.base

/-- The table `a` with the entries that `mine` chooses as `b` has them. -/
def mergeMap {α : Type} (mine : Nat × α → Bool) (a b : AMap α) : AMap α :=
  (b.filter mine).foldl (init := a.filter fun x => !mine x) fun m x => put m x.1 x.2

/-- R378: of what a replaying core did in `t`, only the changes to its own state remain: its slots, its registers and units, the windows
its slots hold, and its local memory. -/
def State.confine (s t : State) (k : Nat) : State :=
  let out (a : Nat) : Bool := decide (a < lmAddr k 0) || decide (lmAddr (k + 1) 0 ≤ a)
  let o := octetOf k
  let mineW (w : Nat × LvWin) : Bool := match w.2.holder with
    | some i => i / 8 = k
    | none => false
  let lm (l : List Nat) (n : List Nat) : List Nat := (n.filter fun a => !out a).foldl (fun l a => insertNat a l) (l.filter out)
  let s := { s with
    sched := t.sched
    slots := mergeMap (fun x => decide (x.1 / 8 = k)) s.slots t.slots
    cores := put s.cores k (t.core k)
    mm := { s.mm with
      bytes := (t.mm.bytes.filter fun (c : Host.Cell) => !out c.1).foldl (fun (b : Memory) (c : Host.Cell) => b.setBytes c.1 [c.2])
        (s.mm.bytes.filter fun (c : Host.Cell) => out c.1)
      poison := lm s.mm.poison t.mm.poison
      full := lm s.mm.full t.mm.full
      feq := (s.mm.feq.filter fun (q : Nat × Nat × Nat) => q.2.1 / 8 ≠ k) ++
        t.mm.feq.filter fun (q : Nat × Nat × Nat) => q.2.1 / 8 = k } }
  s.modOct o fun x => { x with
    wins := mergeMap mineW x.wins (t.oct o).wins }

/-- What core `k` does, by `f`: a replaying core's clock and confinement hold. -/
def State.onCore (s : State) (k : Nat) (f : State → State) : State :=
  if s.replays k then s.confine (f (s.view k)) k else f s

/-- Record `n` of the log of core `k`; none past its end. -/
def State.recordAt (s : State) (k n : Nat) : Option LogRec :=
  let r := (s.core k).rp
  if r.lbytes < 16 * (n + 1) then none
  else match (s.engRead (s.logEng k) (r.lbase + BitVec.ofNat 64 (16 * n)) 16).1 with
    | .ok bs =>
      let x := logRecOf (bs.map (·.1))
      if x.r.kind = 0 then none else some x
    | .error _ => none

/-- The first record from `n` on that `f` answers. -/
def State.findRecord {α : Type} (s : State) (k : Nat) (f : LogRec → Option α) : Nat → Nat → Option α
  | 0, _ => none
  | fuel + 1, n => match s.recordAt k n with
    | none => none
    | some x => match f x with
      | some v => some v
      | none => s.findRecord k f fuel (n + 1)

/-- A record of this core cycle of the replay, of a kind and a slot. -/
def State.recordNow (s : State) (i kind : Nat) : Option Word :=
  let k := i / 8
  let now := s.replayOff k
  let r := (s.core k).rp
  (s.findRecord k (fun x =>
    if now < x.off then some none
    else if x.off = now && x.r.kind = kind && x.r.slot = i % 8 then some (some x.r.data) else none) (r.lbytes / 16 + 1) r.count).bind id

/-- R378, kind 10: the head of slot `i` stalls until a later core cycle: the slot's next kind 10 record names its PC, and no record shows
that the slot issues another head before (log 30). -/
def State.mustWait (s : State) (i : Nat) : Bool :=
  let k := i / 8
  let now := s.replayOff k
  let r := (s.core k).rp
  let pc := (s.slot i).pc
  (s.findRecord k (fun x =>
    if x.r.slot ≠ i % 8 then none
    else if x.r.kind = 10 then some (decide (now < x.off) && x.r.data = pc)
    else if (x.r.kind = 11 && now ≤ x.off) || (x.r.kind = 1 && decide (now ≤ x.r.data.toNat)) then some false
    else none) (r.lbytes / 16 + 1) r.count).getD false

/-- What keeps the head of slot `i` waiting outside the core is taken away: the walk, fill, grant or copy is made, and finds what it finds; room is
free in its FIFO and outlets. -/
def State.unblock (s : State) (i : Nat) : State :=
  let k := i / 8
  let sl := s.slot i
  let made : Option FoundTrap × State := match sl.req with
    | some (.walk va c root) =>
      match s.endWalk k sl.lv (Acc.ofCode c) va (s.walkAt root sl.task.part va) with
      | .ok x => (none, x.2)
      | .error f => (some f, s)
    | some (.line pa c l) => (none, s.doLine k sl.task.tenant pa c l)
    | some (.stash b off acc) => s.doFill k sl.task sl.lv b off acc
    | some (.own pa st) => s.doOwn k sl.task sl.lv pa st
    | some (.granule pa) => (none, (s.reserveCopy sl.task pa).getD s)
    | none => (none, s)
  let s := match sl.req with
    | some q => State.endReq i q made
    | none => s
  let s := s.modCore k fun c => { c with
    cpy := { fifo := if 8 ≤ c.cpy.fifo.length then c.cpy.fifo.drop 1 else c.cpy.fifo }
    net := { c.net with outlet := c.net.outlet.map fun (l : List OutItem) => if 8 ≤ l.length then l.drop 1 else l } }
  s.modSlot i fun sl => { sl with st := .ready, park := .none }

/-- The command of ring entry `seq` that slot `i` has in its window's queue or in its latch. -/
def State.longCommand (s : State) (i seq : Nat) : Option (Nat × Latch) :=
  match s.window? i with
  | none => none
  | some w => match (s.win (octetOf (i / 8)) w).queue.find? fun q => q.cmd.seq = seq with
    | some q => some (w, q.cmd)
    | none => match (s.slot i).latch with
      | some l => if l.long && l.seq = seq then some (w, l) else none
      | none => none

/-- R378, kind 7: the long-mode command completes, or faults with code `st`. -/
def State.replayLong (s : State) (i w : Nat) (l : Latch) (st : Nat) : State :=
  let o := octetOf (i / 8)
  let v := s.win o w
  let s := s.setWin o w { v with queue := v.queue.filter fun q => q.cmd.seq ≠ l.seq }
  let stays : Bool := match l.instr with
    | .vmovx .. => true
    | _ => false
  let s := s.modSlot i fun sl => match sl.latch with
    | some m => if m.long && m.seq = l.seq && !stays then { sl with latch := none } else sl
    | none => sl
  if st ≠ 0 then
    let (x, s) := s.free
    s.lvFault i l x (BitVec.ofNat 64 st)
  else
    let run : LvRun := { win := w, cmd := { slot := i, cmd := l }, until_ := 0, src := v.regs.toList, dead := false }
    match execLvCommandComplete o (s.modOct o fun x => { x with lvRun := some run }) with
    | .next s => s
    | _ => s

/-- The matrix operation of ring entry `seq` that waits in core `k`'s queue, or runs. -/
def State.matrixOp (s : State) (k seq : Nat) : Option MatOp :=
  (((s.core k).mat.run.toList.map (·.op)) ++ (s.core k).mat.queue).find? fun q => q.seq = seq

/-- R378: a TMMA of a replaying core starts 63 core cycles before the record of its end: it reads its A tile, and the octet's latch as it stands. -/
def State.replayMatStart (k : Nat) (s : State) : Out :=
  let c := (s.core k).mat
  let no : Out := .refused (.notEnabled "REPLAY_RECEIVE")
  match c.run, c.queue with
  | none, op :: rest =>
    let ends := s.findRecord k (fun x => if x.r.kind = 7 && fld x.r.data 6 0 = op.seq then some x.off else none)
      ((s.core k).rp.lbytes / 16 + 1) (s.core k).rp.count
    match op.instr with
    | .tmma _ b row0 m1 z l =>
      if !s.replayOn k || ends ≠ some (s.replayOff k + 63) then no
      else
        let latch := ((s.oct (octetOf k)).mat.latch l).tile
        let a := latch.bind fun t => match (s.view k).tmmaTile op b (m1.toNat + 1) t with
          | (.ok a, _) => some a
          | (.error _, _) => none
        .next (s.modMat k fun m => { m with
          queue := rest
          nanRows := if z then m.nanRows &&& ~~~(rowMask row0.toNat (row0.toNat + m1.toNat + 1)) else m.nanRows
          run := some { op := op, until_ := 0, tile := a, btile := latch, sent := false, quiet := false, fault := none, sk3 := 0, rows := 0 } })
    | _ => no
  | _, _ => no

/-- The accumulator rows of a TMMA whose tiles are not at hand are free values. -/
def State.freeRows (s : State) (k lo n : Nat) : State :=
  let id := s.sched.nfree
  let row (j : Nat) : List (BitVec 32) := (List.range 256).map fun i => (Config.freeWord (id + 256 * j + i)).setWidth 32
  (s.modSched fun c => { c with nfree := id + 256 * n }).modMat k fun m => { m with
    acc := (List.range n).foldl (init := m.acc) fun x j => setRow x (lo + j) (row j) }

/-- R378, kind 7: the matrix operation `op` completes with what it does to its own core, or faults with code `st`. -/
def State.replayMatrix (s : State) (k : Nat) (op : MatOp) (st : Nat) : State :=
  let run := (s.core k).mat.run.filter fun r => r.op.seq = op.seq
  let fresh : MatRun :=
    { op := op, until_ := 0, tile := none, btile := none, sent := false, quiet := false, fault := none, sk3 := 0, rows := 0 }
  let s := s.modMat k fun m => { m with
    queue := m.queue.filter fun q => q.seq ≠ op.seq
    run := if st = 0 then some (run.getD fresh) else m.run.filter fun r => r.op.seq ≠ op.seq }
  let after (o : Out) : State := match o with
    | .next t => t
    | _ => (s.modMat k fun m => { m with run := none }).matDone op
  if st ≠ 0 then
    let (x, s) := s.free
    s.matFault op false (trapOfNum st) x
  else match op.instr with
    | .tzero _ => after (execTzeroComplete k s)
    | .tmma _ _ row0 m1 _ _ =>
      if run.any fun r => r.tile.isSome && r.btile.isSome then after (execTmmaComplete k s)
      else ((s.freeRows k row0.toNat (m1.toNat + 1)).modMat k fun m => { m with run := none }).matDone op
    | .tdrain _ _ _ _ z _ fl =>
      let s := match s.drainPlan op fl with
        | .ok p => if (run.getD fresh).sent then s
          else (List.range p.cnt).foldl (init := s) fun s j =>
            let (b, s) := s.drainBytes op p j
            s.drained op p z j b.2
        | .error _ => s
      (s.modMat k fun m => { m with run := none }).matDone op
    | _ => (s.modMat k fun m => { m with run := none }).matDone op

/-- What is left of access `id` of slot `i` is performed. -/
def State.performAll (s : State) (i id : Nat) : Nat → State
  | 0 => s
  | n + 1 => match (s.slot i).pend.find? fun a => a.id = id with
    | none => s
    | some a => (s.performPiece i a (a.left.headD 0)).performAll i id n

/-- R378, kind 1: the operation that slot `i` issued at core cycle `c` is performed; none where there is none outstanding. A long-mode or matrix
operation's effect comes with its record of kind 7. -/
def State.replayPerform (s : State) (i c : Nat) : Option State :=
  let k := i / 8
  let sl := s.slot i
  match sl.pend.find? fun a => a.issued = c with
  | some a =>
    if a.queued && lmCore a.word = k then some s
    else if a.isFe then some (s.serveFe i a) else some (s.performAll i a.id a.parts.length)
  | none =>
    match (s.core k).cpy.fifo.find? fun r => r.slot = i && r.issued = c with
    | some r => some ((s.modCore k fun x => { x with cpy := { fifo := x.cpy.fifo.filter fun q => q.order ≠ r.order } }).decCnt i .cp)
    | none =>
      if (s.matrixOut i ++ s.longOut i).any fun x => x.2 = c then some s
      else if ((s.core k).cpy.fifo.filter fun r => r.slot = i).length < sl.cnt.cp then some (s.decCnt i .cp)
      else none

/-- R378, kind 3: the event with timestamp `ts` opens on slot `i`; what the record does not hold is free where the partition has no such
event. -/
def State.replayOpen (s : State) (i : Nat) (ts : Word) : State :=
  let k := i / 8
  let p := (s.core k).rp.part
  let found := (s.newt? p).bind fun n => n.agents.findSome? fun a =>
    (a.2.events.find? fun e => e.msg.ts = ts).bind fun e =>
      (s.findHandler p a.2.tenant a.2.htab e.msg.sel).1.map fun pc => (a.1, a.2.tenant, e.num, pc)
  let x1 := BitVec.ofNat 64 (0x00FFFF0000000000 + 0x1FE00 + 64 * (i % 8))
  match found with
  | some (a, t, n, pc) =>
    s.startTask i { TaskInfo.empty with ntask := 1, part := p, tenant := t, evt := some n, agent := a } .u pc x1 0
  | none =>
    let (pc, s) := s.free
    s.startTask i { TaskInfo.empty with ntask := 1, part := p, evt := some 0 } .u pc x1 0

/-- R378: one recorded receive reaches core `k`; none where it names an operation that is not outstanding. -/
def State.applyReceive (s : State) (k : Nat) (r : Receive) : Option State :=
  let i := 8 * k + r.slot
  match r.kind with
  | 1 => s.replayPerform i (r.data.toNat + (s.core k).rp.count0)
  | 2 => some (s.intoIntake k r.slot [r.data])
  | 3 => some (if (s.slot i).live then s else s.replayOpen i r.data)
  | 4 =>
    let (w0, s) := s.free
    some (s.postMsg i { w0 := w0, w1 := r.data })
  | 5 =>
    let w := lmAddr k (8 * (r.src.toNat % 2 ^ 14))
    some ((s.wrBytes w (wordBytes r.data)).setFull w (r.src.getLsbD 14))
  | 6 =>
    let (x1, s) := s.free
    let (x2, s) := s.free
    let q : WakeLine := { pc := r.data, x1 := x1, x2 := x2, ti := { TaskInfo.empty with ntask := 1, part := (s.core k).rp.part } }
    some ((s.modCore k fun c => { c with wakeQ := c.wakeQ ++ [q] }).startWakes k)
  | 7 =>
    let seq := fld r.data 6 0
    let st := fld r.data 15 8
    match get? (s.core k).ring seq with
    | none => none
    | some e =>
      if !e.busy then none
      else match s.longCommand e.slot seq with
        | some (w, l) => some (s.replayLong e.slot w l st)
        | none => (s.matrixOp k seq).map fun op => s.replayMatrix k op st
  | 8 => match (s.slot i).park with
    | .bar _ _ d => some ((s.writeDst i d 0).complete i)
    | _ => some s
  | 9 =>
    if r.data = 0x12 then some (s.cancelTask i)
    else if r.data = 0x0F then some (s.raise i (.deadlock (s.slot i).blk))
    else some s
  | 10 => some s
  | 11 => some (match (s.slot i).hold with
    | .scan => (s.modSlot i fun sl => { sl with ctl := { sl.ctl with dlcnt := r.data.setWidth 32 } }).complete i
    | .reply d | .insert _ d => (s.writeDst i d r.data).complete i
    | _ => s)
  | _ => none

/-- R378: the replay of core `k` ends: every slot is STOPPED, and the core's image is written back. -/
def State.endReplay (s : State) (k code : Nat) : State :=
  let now := (s.view k).dclk
  let s := (coreSlots k).foldl (init := s) fun s i => s.modSlot i Slot.stop
  let im := s.coreImage k now
  (s.writeImage k { im with c := { im.c with rp := ReplayCore.off } }).endLog k code

/-- R378: replaying core `k` applies the next receive of its log, or ends at the log's end. -/
def execReplayReceive (k : Nat) (s : State) : Out :=
  if !s.replayOn k then .refused (.notEnabled "REPLAY_RECEIVE")
  else
    let n := (s.core k).rp.count
    match s.recordAt k n with
    | none =>
      let left := (coreSlots k).any fun i => (s.slot i).cnt ≠ Counters.zero || (s.slot i).vbusy ≠ 0
      .next (s.endReplay k (if left then 3 else 1))
    | some x =>
      if s.replayOff k < x.off then .refused (.notEnabled "REPLAY_RECEIVE")
      else match (s.view k).applyReceive k x.r with
        | none => .next (s.endReplay k 3)
        | some t =>
          .next ((s.confine t k).modCore k fun c => { c with rp := { c.rp with count := n + 1 } })

end Sys2Proof.Machine
end

