-- ==== Sys2Proof/Machine/Host.lean ====
section
/-!
DEFINITION. The host link, the management controller and the power states (ch. 20): bias flips (R239, R390, R397), HOSTSIG (R398), host
accesses (R387), the Cybel commands (R389), power (R392 to R394), identity and firmware (R391) and resets (R395).
-/

namespace Sys2Proof.Machine

/-! Responses (R389). -/

/-- R389: the mailbox after a response: the words `ws` in place of the request's 32, and byte 0xFF8 cleared. A longer response goes on after them
(log 40). -/
def answerBox (b : AMap Word) (ws : List Word) : AMap Word :=
  put ((List.range (max 32 (min 511 ws.length))).foldl (fun b j => put b j (ws.getD j 0)) b) 511 (look b 511 0 &&& ~~~(0xFF : Word))

/-- R389: the controller answers a request: the status and further words; vector 0 is raised. -/
def State.respond (s : State) (st : Nat) (words : List Word) : State :=
  s.modHost fun h => { h with box := answerBox h.box (BitVec.ofNat 64 st :: words), served := h.served + 1, msix := h.msix ++ [0] }

/-- R389: the host has written 1 to byte 0xFF8, and the request in the mailbox has this command code. -/
def State.rings (s : State) (code : Nat) : Bool :=
  fld (look s.host.box 511 0) 7 0 = 1 && fld (look s.host.box 0 0) 15 0 = code

/-- R389, R393, R395: the controller takes the request with this code: it is READY and serves no other; a POWER command is served until its
clocks have restarted. What the request carries are the happening's operands (log 43). -/
def State.cybelReady (s : State) (code : Nat) : Bool :=
  s.host.ready && s.host.pendingBias.isNone && !s.host.clocksStopped && s.rings code

/-- A Cybel command: its status and its effect, then the response. -/
def State.cybel (s : State) (code : Nat) (name : String) (go : State → Nat × State) : Out :=
  if s.cybelReady code then .next ((go s).2.respond (go s).1 []) else .refused (.notEnabled name)

/-! Bias (R239, R390, R397). -/

def State.modPage (s : State) (pg : Nat) (f : BiasPage → BiasPage) : State := { s with bias := put s.bias pg (f (s.page pg)) }

/-- R397: the bias of a page: 0 device, 1 host; of a page in a flip, the old one. -/
def Bias.num : Bias → Nat
  | .device | .toHost => 0
  | .host | .toDevice => 1

/-- R239: core copies of the page are recalled and its LLC lines, pinned ones too, written back and dropped. -/
def State.recallPage (s : State) (pg : Nat) : State :=
  let held := s.cores.flatMap fun c =>
    (c.2.cache.map (·.pa)) ++ c.2.stash.flatMap fun b => b.2.lines.map fun l => l.2.1
  let s := (held.filter fun a => a / 65536 = pg).foldl (init := s) fun s a => s.dropCopies a none
  { s with dies := mapVals (fun _ d => { d with llc := d.llc.filter fun e => !(isDev e.pa && e.pa / 65536 = pg) }) s.dies }

/-- R239: a flip starts. -/
def State.beginFlip (s : State) (pg : Nat) (host : Bool) : State :=
  if host then (s.recallPage pg).modPage pg fun b => { b with st := .toHost }
  else s.modPage pg fun b => { b with st := .toDevice, hostCopies := [] }

/-- R390, R397: a flip of page `pg` that found bias `old` is complete: a BIASF's X[D] is written, or the BIAS command goes on. -/
def State.flipDone (s : State) (pg : Nat) (f : Flip) (old : Nat) : State :=
  match f.slot with
  | some i => match (s.slot i).hold with
    | .reply d => (s.writeDst i d (BitVec.ofNat 64 (old * 256))).complete i
    | _ => s
  | none => match s.host.pendingBias with
    | some j =>
      (s.modPage pg fun b => { b with locked := j.lock }).modHost fun h => { h with pendingBias := some { j with pages := j.pages.drop 1 } }
    | none => s

/-- R239: the queued flips of a page: those to the bias it has complete at once; the next other one starts. -/
def State.runFlips (s : State) (pg : Nat) : Nat → State
  | 0 => s
  | n + 1 =>
    let b := s.page pg
    match b.flips with
    | [] => s
    | f :: rest =>
      if s.pageBusy (65536 * pg) then s
      else if decide (b.st = .host) = f.host then
        ((s.modPage pg fun b => { b with flips := rest }).flipDone pg f b.st.num).runFlips pg n
      else s.beginFlip pg f.host

/-- R239: a flip is asked for: it is queued, and runs when it is the first. -/
def State.askFlip (s : State) (pg : Nat) (f : Flip) : State :=
  let s := s.modPage pg fun b => { b with flips := b.flips ++ [f] }
  s.runFlips pg ((s.page pg).flips.length + 1)

/-- R390: a BIAS command flips its pages one after the other, and responds after the last. -/
def State.advanceBias (s : State) : Nat → State
  | 0 => s
  | n + 1 => match s.host.pendingBias with
    | none => s
    | some j => match j.pages with
      | [] => (s.modHost fun h => { h with pendingBias := none }).respond 0 []
      | pg :: _ =>
        if (s.page pg).flips.any fun f => f.slot.isNone then s
        else (s.askFlip pg { slot := none, host := j.host }).advanceBias n

/-- The pages that the running BIAS command has left, and one step to respond. -/
def State.biasFuel (s : State) : Nat :=
  match s.host.pendingBias with
  | some j => j.pages.length + 1
  | none => 0

/-- R239: the drain of page `pg`'s flip ends. -/
def execBiasFlipDrainComplete (pg : Nat) (s : State) : Out :=
  let b := s.page pg
  match b.flips with
  | [] => .refused (.notEnabled "BIAS_FLIP_DRAIN_COMPLETE")
  | f :: rest =>
    if !s.pageBusy (65536 * pg) then .refused (.notEnabled "BIAS_FLIP_DRAIN_COMPLETE")
    else
      let s := s.modPage pg fun b => { b with st := if f.host then .host else .device, flips := rest }
      let s := (s.flipDone pg f b.st.num).runFlips pg (rest.length + 1)
      .next (s.advanceBias s.biasFuel)

/-- R390: BIAS. -/
def execBias (base cnt : Nat) (host lock : Bool) (s : State) : Out :=
  if !s.cybelReady 0x07 then .refused (.notEnabled "BIAS")
  else if devEnd < 65536 * (base + cnt) then .next (s.respond 6 [])
  else
    let s := s.modHost fun h => { h with
      pendingBias := some { pages := (List.range cnt).map (base + ·), host := host, lock := lock } }
    .next (s.advanceBias s.biasFuel)

/-- R397: BIASF. -/
def execBiasf (d a : Reg) (host : Bool) (s : State) : Out :=
  .next (s.needS fun s => s.withRegs s.cur [a] [d] fun s => s.needImpure fun s =>
    let i := s.cur
    let sl := s.slot i
    match s.xlate (i / 8) sl.task.part sl.lv .w (s.rv a) with
    | .miss => s.stallFor i (.walk (s.rv a) Acc.w.code (s.rootOf sl.task.part))
    | .fault c x o => s.trapAt i c x o
    | .ok p =>
      let dev := match p.leaf with
        | some l => decide (l.tgt = 0)
        | none => false
      let pg := p.pa / 65536
      if !dev || (s.page pg).locked then s.writeDone i [a] d 6
      else if !sl.pend.isEmpty then s.stallHead i
      else (((s.popPorts i [a]).holdFor i (.reply (sl.bind d))).askFlip pg { slot := some i, host := host }))

/-! HOSTSIG (R398). -/

/-- An 8-byte word of host memory. -/
def State.hostWord (s : State) (a : Nat) : Word := s.rdWord (hostBase + a)

def State.setHostWord (s : State) (a : Nat) (v : Word) : State := s.wrBytes (hostBase + a) (wordBytes v)

/-- R398: the partition's signal ring is full. -/
def State.sigFull (s : State) (r : SigRing) : Bool :=
  decide ((r.p - (s.hostWord r.cidx).setWidth 32).toNat = 2 ^ r.k)

/-- R398: HOSTSIG. -/
def execHostsig (d a b : Reg) (s : State) : Out :=
  .next (s.withRegs s.cur [a, b] [d] fun s => s.needImpure fun s =>
    let i := s.cur
    let sl := s.slot i
    let v := s.rv a
    match (s.part? sl.task.part).bind fun p => (p.sig.vectors[v.toNat]?).map fun x => (p.sig, x) with
    | none => s.writeDone i [a, b] d 6
    | some (r, vec) =>
      if fld v 63 4 ≠ 0 then s.writeDone i [a, b] d 6
      else if !sl.pend.isEmpty then s.stallHead i
      else if s.sigFull r then s.writeDone i [a, b] d 2
      else
        let at_ := r.base + 16 * (r.p.toNat % 2 ^ r.k)
        let w1 := BitVec.ofNat 64 (i % 65536 + sl.task.part % 16 * 2 ^ 16 + v.toNat * 2 ^ 20)
        let x := s.rv b
        let s := s.popPorts i [a, b]
        let s := ((s.setHostWord at_ x).setHostWord (at_ + 8) w1).setHostWord r.pidx ((r.p + 1).setWidth 64)
        let s := s.modPart sl.task.part fun p => { p with sig := { p.sig with p := r.p + 1 } }
        ((s.modHost fun h => { h with msix := h.msix ++ [vec] }).writeReg i d 0).complete i)

/-! Host accesses (R239, R240, R386, R387). -/

/-- R249: bits of a queue's window. -/
def State.windowWord (s : State) (q off : Nat) : Word :=
  let v := s.queue q
  match off with
  | 0x008 => v.head.setWidth 64
  | 0x010 => BitVec.ofNat 64 ((if v.qerr then 2 else 0) + (if v.depth = 0 then 0 else 1))
  | _ => 0

/-- R387, R392: module status word 0; standby reads as 8 (log 41). -/
def State.statusWord (s : State) : Word :=
  let h := s.host
  BitVec.ofNat 64 ((if h.standby then 8 else h.op.toNat) + (if h.trip then 2 ^ 8 else 0) + (if h.ready then 2 ^ 9 else 0))

/-- R387: the 8 bytes of BAR0 at `off`. -/
def State.bar0 (s : State) (off : Nat) : Word :=
  if off < 0x1000 then look s.host.box (off / 8) 0
  else if off < 0x2000 then
    let o := off - 0x1000
    if o = 0 then s.statusWord
    else if o = 8 then BitVec.ofNat 64 (s.host.nlog % 2 ^ 32)
    else if o < 0x100 then 0
    else
      let e := look s.host.log ((o - 0x100) / 16) (0, 0)
      if o % 16 = 0 then e.1 else e.2
  else if 0x1000000 ≤ off && off < 0x2000000 then s.windowWord ((off - 0x1000000) / 0x1000) (off % 0x1000)
  else 0

/-- R387, R389, R249: a write of BAR0: the mailbox holds it; a queue's window takes its tail and clears QERR; other writes are ignored. -/
def State.setBar0 (s : State) (off : Nat) (v : Word) : State :=
  if off < 0x1000 then s.modHost fun h => { h with box := put h.box (off / 8) v }
  else if 0x1000000 ≤ off && off < 0x2000000 then
    let q := (off - 0x1000000) / 0x1000
    let e := s.queue q
    if 16 ≤ e.part then s
    else if off % 0x1000 = 0 then if e.df || e.tw then s else s.setTail q (v.setWidth 32)
    else if off % 0x1000 = 0x10 then if v.getLsbD 1 then s.setQueue q { e with qerr := false } else s
    else s
  else s

/-- The host's reads and writes of device memory wait while a page is in a flip (R239). -/
def State.hostMay (s : State) (a n : Nat) : Bool :=
  0 < n && decide (a + n ≤ devEnd) && (linesOf a n).all fun l => !s.pageBusy l

/-- R239: under host bias the host may keep a copy of a line it reached over CXL. -/
def State.hostKeeps (s : State) (a n : Nat) (cxl : Bool) : State :=
  (linesOf a n).foldl (init := s) fun s l =>
    if cxl && decide ((s.page (l / 65536)).st = .host) then
      s.modPage (l / 65536) fun b => { b with hostCopies := insertNat l b.hostCopies }
    else s

/-- R209, R239: the host's access to device memory acts at the LLC home of each line, with no hint. -/
def State.hostHomes (s : State) (a n : Nat) (write : Bool) : State :=
  (linesOf a n).foldl (init := s) fun s l => s.llcAccess l .none 0 write

/-- R239: the host reads device memory: what other holders wrote is recalled. -/
def State.hostRead (s : State) (a n : Nat) : State :=
  let s := ((linesOf a n).foldl (init := s) fun s l => s.cleanCopies l none).hostHomes a n false
  s.modHost fun h => { h with rdata := s.rdBytes a n }

/-- R239: the host writes device memory. -/
def State.hostWrite (s : State) (a : Nat) (bs : List Byte) : State := (s.wrBytes a bs).hostHomes a bs.length true

/-- R239: a host access reaches the module. -/
def execHostAccess (acc : HostAcc) (s : State) : Out :=
  let no : Out := .refused (.notEnabled "HOST_ACCESS")
  match acc with
  | .load a n cxl => if s.hostMay a n then .next ((s.hostRead a n).hostKeeps a n cxl) else no
  | .store a bs cxl => if s.hostMay a bs.length then .next ((s.hostWrite a bs).hostKeeps a bs.length cxl) else no
  | .cas a n cmp new =>
    if s.hostMay a n && (n = 4 || n = 8 || n = 16) && a % n = 0 then
      let old := bytesNat (s.rdBytes a n)
      let s := s.hostRead a n
      .next (if old = cmp % 2 ^ (8 * n) then s.hostWrite a (natBytes n new) else s)
    else no
  | .own a bs => .next (s.wrBytes (hostBase + a) bs)
  | .barLoad off =>
    if off % 8 = 0 && decide (off < 0x4000000) then .next (s.modHost fun h => { h with rdata := wordBytes (s.bar0 off) }) else no
  | .barStore off v => if off % 8 = 0 && decide (off < 0x4000000) then .next (s.setBar0 off v) else no

/-- R150, R152, R153: the place of the bytes that the local-memory word `a` holds: a bank's own, or the line that a mapped stash bank or the
cache role holds there; none where a cache-role way holds no line. -/
def State.bankPlace (s : State) (a : Nat) : Option Nat :=
  let k := lmCore a
  let b := lmBank a
  let ln := lmOff a % 0x1000 / 128
  match s.role k b with
  | 1 => ((s.core k).cache.find? fun l => l.bank = b && l.pa / 128 % 32 = ln).map fun l => l.pa + a % 128
  | 2 => some (match (get? (s.core k).stash b).bind fun v => get? v.lines ln with
    | some l => l.1 + a % 128
    | none => a)
  | _ => some a

/-- R157: the 8-byte word `w` of a line or of a bank is poisoned: of a line that a core holds dirty, what `home` names is the home's word. -/
def State.poisonWord (s : State) (w : Nat) (home : Bool) : State :=
  match if home then get? s.mm.homes (lineAddr w) else none with
  | some l => s.modMm fun m => { m with homes := put m.homes (lineAddr w) ((l.zip (List.range 128)).map fun x =>
      if w % 128 ≤ x.2 && x.2 < w % 128 + 8 then (x.1.1, true) else x.1) }
  | none => s.modMm fun m => { m with poison := insertNat w m.poison }

/-- R157: an 8-byte word of local or device memory suffers an uncorrectable error. DESIGN CHOICE (log 73): an error in a core's clean copy of a
line is the line's, for every reader. -/
def execUncorrectableError (a : Nat) (s : State) : Out :=
  let w := a / 8 * 8
  if isLm a then .next (match s.bankPlace w with
    | some p => s.poisonWord p false
    | none => s)
  else if isDev a then .next (s.poisonWord w true)
  else .refused (.notEnabled "UNCORRECTABLE_ERROR")

/-! Partitions (R31, R389). -/

/-- R391, R388: the attestation log receives an entry. -/
def State.attest (s : State) (e : AttEntry) (part : Nat) : State :=
  (s.modHost fun h => { h with attLog := h.attLog ++ [e] }).hostEvent 5 6 part 0

/-- R248: the sizes of a queue: TICKETS 1 to 4,096, RSZ 3 to 20, RING 64-byte-aligned. -/
def queueSizes (tickets rsz : Nat) (ring : Word) : Bool :=
  1 ≤ tickets && tickets ≤ 4096 && 3 ≤ rsz && rsz ≤ 20 && fld ring 5 0 = 0

/-- R389: PART_CREATE is refused; also in standby, and where the device queue's sizes are none (log 44). -/
def State.refusesPart (s : State) (a : PartSpec) : Bool :=
  s.host.standby || !queueSizes a.tickets a.rsz a.ring || decide (16 ≤ a.num) || (s.part? a.num).isSome || !decide a.octets.Nodup ||
  (a.octets.any fun o => decide (1024 ≤ o) || (s.oct o).part.isSome || !(s.die (o / 256)).on) ||
  decide (2048 < a.quota) || decide (1536 < (s.parts.map fun p => p.2.quota).sum + a.quota) ||
  decide (16 < a.vectors.length) || (a.vectors.any fun v => decide (v < 16) || decide (2047 < v)) ||
  decide (a.sigK < 4) || decide (16 < a.sigK) || decide (2 ^ 24 < a.cap) || decide (a.storeSize < a.cap * 256 + a.pool)

/-- R332: the round period that PART_CREATE gives, in core cycles; 9,600 where it gives none. -/
def roundPeriod (a : PartSpec) : Nat := a.period.getD 9600

/-- The Newt state of a new partition (R300, R323, R331, R332, R419). -/
def newtOf (a : PartSpec) (mod now : Nat) : NewtPart :=
  { store := a.store, size := a.storeSize, cap := a.cap, pool := a.pool / 4096, next := 0, free := a.cap * 256, agents := [], nextEntry := 0
    extCount := 0, w0 := allOnes, w := allOnes, gvt := 0, round := 0, act := false, pend := false, pwait := [], told := false
    period := roundPeriod a, timerAt := now + roundPeriod a, ps := [], commitM := [], rings := [], domain := [(mod, a.num)], root := mod }

/-- R80, R149, R169: an octet as it is given to partition `p`: every core zeroed. -/
def State.giveOctet (s : State) (o p : Nat) : State :=
  let s := (List.range 8).foldl (init := s) fun s j => s.clearCore (8 * o + j)
  s.setOct o { Octet.reset with part := some p, tlb := (s.oct o).tlb }

/-- R389: PART_CREATE. -/
def execPartCreate (a : PartSpec) (s : State) : Out :=
  s.cybel 0x01 "PART_CREATE" fun s =>
    if s.refusesPart a then (6, s)
    else
      let v : Part :=
        { octets := a.octets, ptbase := a.ptbase &&& 0x00FFFFFFFFFF0000, tvec := 0, tdeleg := 0, ctlOld := none, quota := a.quota, pins := [], overflow := 0
          groups := [], newt := newtOf a s.host.module.toNat s.dclk, armed := none, gang := .running, stoppedAt := 0, given := false, away := [], back := []
          save := a.save, images := [], ckpts := [], octs := [], feq := [], scan := none
          sig := { base := a.sigBase, k := a.sigK, pidx := a.sigPidx, cidx := a.sigCidx, p := 0, vectors := a.vectors } }
      let s := (a.octets.foldl (init := s) fun s o => s.giveOctet o a.num).takeAway a.num a.octets
      let s : State := { s with parts := put s.parts a.num v }
      let s := s.setQueue (deviceQueue a.num) { Queue.unset with
        part := a.num, tickets := a.tickets, en := true, df := true, ring := a.ring, rsz := a.rsz }
      (0, s.attest (.create a.num) a.num)

/-- R31, R389: some slot of the partition holds a task. The saved tasks of a stopped partition are on no slot. -/
def State.partBusy (s : State) (p : Nat) (v : Part) : Bool :=
  v.cores.any fun k => s.corePart k = some p && (coreSlots k).any fun i => (s.slot i).live

/-- R31, R37, R220, R252, R259, R289, R360: what partition `p` held is given back. -/
def State.dropPart (s : State) (p : Nat) (v : Part) : State :=
  let mine := v.octets.filter fun o => (s.oct o).part = some p
  let keep (f : Flit) : Bool := f.part ≠ p
  let s := mine.foldl (init := s) fun s o =>
    (List.range 8).foldl (init := s.setOct o { Octet.reset with tlb := (s.oct o).tlb }) fun s j => s.clearCore (8 * o + j)
  let s := { s with
    parts := del s.parts p
    octets := mapVals (fun _ o => { o with tlb := o.tlb.filter fun t => t.part ≠ p }) s.octets
    dies := mapVals (fun _ d => { d with
      tlb := d.tlb.filter fun t => t.part ≠ p
      pew := { entries := d.pew.entries.filter fun e => e.part ≠ p }
      net := { streams := d.net.streams.filter fun e => e.2.part ≠ p } }) s.dies
    nmsgs := s.nmsgs.filter fun m => m.2.part ≠ p }
  let s := s.modDisp fun d => { d with
    queues := d.queues.filter fun q => q.2.part ≠ p
    launches := d.launches.filter fun l => l.2.part ≠ p
    freeRep := d.freeRep.filter fun r => r.1 % 16 ≠ p }
  let s := s.modSk fun k => { k with graphs := k.graphs.filter fun g => g.2.part ≠ p }
  let s := s.modPw fun w => { w with inserts := w.inserts.filter fun i => i.2.part ≠ p }
  let s := s.modNet fun n =>
    let colls := n.colls.filter fun c => c.2.part ≠ p
    { n with
      wakes := n.wakes.filter fun w => w.2.ti.part ≠ p
      flits := n.flits.filter fun f => keep f.2
      early := n.early.filter fun e => e.2.part ≠ p
      colls := colls
      chunks := n.chunks.filter fun c => (get? colls c.2.coll).isSome }
  v.pins.foldl (init := s) fun s w => s.repin (some w.2) none

/-- R389: PART_DESTROY. -/
def execPartDestroy (p : Nat) (s : State) : Out :=
  s.cybel 0x02 "PART_DESTROY" fun s => match s.part? p with
    | none => (6, s)
    | some v => if s.partBusy p v then (6, s) else (0, (s.dropPart p v).attest (.destroy p) p)

/-! Configuration (R248, R289, R329, R334, R345, R391). -/

/-- R248: the tail word translates for the queue's partition to device memory or host memory over CXL. -/
def State.tailOk (s : State) (a : QueueSpec) : Bool :=
  match (s.engXlate (Eng.sys a.part) .r a.taila).1 with
  | .ok (_, some l) => decide (l.tgt < 2)
  | _ => false

/-- R248: QUEUE_CONFIG. A tail word that is watched is read from then on (R249). -/
def execQueueConfig (q : Nat) (a : Option QueueSpec) (s : State) : Out :=
  s.cybel 0x03 "QUEUE_CONFIG" fun s =>
    let v := s.queue q
    let full := decide (v.depth ≠ 0)
    if 4096 ≤ q then (6, s)
    else match a with
      | none => if full then (6, s) else (0, s.modDisp fun d => { d with queues := del d.queues q })
      | some a =>
        let other := v.part ≠ a.part
        if (other && full && decide (v.part < 16)) || (a.tw && !a.df && !s.tailOk a) || decide (16 ≤ a.part)
            || !queueSizes a.tickets a.rsz a.ring || (!a.df && (fld a.heada 2 0 ≠ 0 || fld a.taila 2 0 ≠ 0)) then (6, s)
        else
          let old := if other then Queue.unset else v
          let new : Queue := { old with
            part := a.part, tenant := a.tenant, tickets := a.tickets, en := a.en, sv := a.sv, df := a.df, tw := a.tw, ring := a.ring
            rsz := a.rsz, heada := a.heada, taila := a.taila }
          if a.tw && !a.df then
            (0, (s.setQueue q { new with watch := s.tailPlace new }).modDisp fun d => { d with wrote := insertNat q d.wrote })
          else (0, s.setQueue q { new with watch := none })

/-- R334, R337: RING_CONFIG; the fields of the status word go to 0, and it is written (log 44). -/
def execRingConfig (p r : Nat) (a : RingSpec) (s : State) : Out :=
  s.cybel 0x04 "RING_CONFIG" fun s => match s.newt? p with
    | none => (6, s)
    | some n =>
      if 256 ≤ r || 4 ≤ a.home || decide (a.rsz < 4) || decide (20 < a.rsz) then (6, s)
      else
        let recs := ((get? n.rings r).map (·.recs)).getD []
        let ring : Ring :=
          { en := a.en, home := a.home, base := a.base, rsz := a.rsz, pidxa := a.pidxa, cidxa := a.cidxa, statwa := a.statwa, p := 0, cidx := 0
            nstall := 0, ndel := 0, stall := false, pollAt := 0, recs := recs }
        (0, s.setRing p r ring)

/-- R289: an instance drops the tenant's `n` least recently used entries. -/
def dropLru (t : BitVec 16) : Nat → List PewEntry → List PewEntry
  | 0, l => l
  | n + 1, l =>
    let oldest := l.foldl (init := (none : Option PewEntry)) fun best e =>
      if e.tenant ≠ t then best
      else match best with
        | none => some e
        | some b => if e.last < b.last then some e else some b
    match oldest with
    | some e => dropLru t n (l.erase e)
    | none => l

/-- R289, R212: QUOTA. -/
def execQuota (t : BitVec 16) (q keep : Nat) (s : State) : Out :=
  s.cybel 0x05 "QUOTA" fun s =>
    let others := ((s.pw.tenants.filter fun e => e.1 ≠ t.toNat).map fun e => e.2.quota).sum
    if 256 < others + q || 15 < keep then (6, s)
    else
      let old := look s.pw.tenants t.toNat
        { quota := 0, demoted := [], lookups := 0, hits := 0, inserts := 0, invalidated := 0, skipped := 0 }
      let new := { old with quota := q, lookups := 0, hits := 0, inserts := 0, invalidated := 0, skipped := 0 }
      let s := s.modPw fun w => { w with tenants := put w.tenants t.toNat new }
      let cut (l : List PewEntry) : List PewEntry := dropLru t ((l.filter fun e => e.tenant = t).length - 1024 * q) l
      let s := { s with dies := mapVals (fun _ d => { d with pew := { entries := cut d.pew.entries } }) s.dies }
      (0, { s with keepLimit := put s.keepLimit t.toNat keep })

/-- R381: GANG arms or disarms a switch as GANGSW does, lets a stopped partition go on, and gives octets back. -/
def execGang (p : Nat) (t r : BitVec 64) (back : List Nat) (s : State) : Out :=
  s.cybel 0x06 "GANG" fun s => match s.part? p with
    | none => (6, s)
    | some v =>
      if !back.all v.octets.contains then (6, s)
      else match v.gang with
        | .stopped _ =>
          if t = 0 then (0, s.modPart p fun v => { v with given := true, back := back.foldl (fun l o => insertNat o l) v.back })
          else s.armSwitch p t r back
        | _ => s.armSwitch p t r back

/-- R391: WINDOW. -/
def execWindow (rs : List (Nat × Nat)) (lock : Bool) (s : State) : Out :=
  s.cybel 0x0C "WINDOW" fun s =>
    if s.host.winLocked then (6, s) else (0, s.modHost fun h => { h with windows := rs, winLocked := lock })

/-- R345: MODULE_CONFIG. -/
def execModuleConfig (num : Nat) (routes : List (Nat × List Nat)) (s : State) : Out :=
  s.cybel 0x0D "MODULE_CONFIG" fun s =>
    if !s.parts.isEmpty || 64 ≤ num || routes.any fun r => decide (64 ≤ r.1) || decide (16 < r.2.length) || r.2.any fun p => decide (16 ≤ p)
    then (6, s)
    else (0, s.modHost fun h => { h with
      module := BitVec.ofNat 6 num, routes := routes.foldl (init := []) fun m r => put m r.1 r.2 })

/-- R329: GVT_DOMAIN. -/
def execGvtDomain (p : Nat) (ms : List (Nat × Nat)) (root : Nat) (s : State) : Out :=
  s.cybel 0x0E "GVT_DOMAIN" fun s => match s.newt? p with
    | none => (6, s)
    | some n =>
      let own := s.host.module.toNat
      if n.next ≠ 0 || 64 < ms.length || !(ms.any fun m => m.1 = own) || !(ms.any fun m => m.1 = root) then (6, s)
      else (0, s.modNewt p fun n => { n with domain := ms, root := root })

/-! Identity and firmware (R391). -/

/-- The encoding of the attestation log that its digest covers (log 40). -/
def AttEntry.bytes : AttEntry → List Byte
  | .start v => natBytes 8 1 ++ natBytes 8 v
  | .stage v => natBytes 8 2 ++ natBytes 8 v
  | .create p => natBytes 8 3 ++ natBytes 8 p
  | .destroy p => natBytes 8 4 ++ natBytes 8 p

/-- R391: what an attestation signs (log 40). -/
def State.attestation (s : State) (nonce : BitVec 256) : List Byte :=
  let h := s.host
  let log := h.attLog.flatMap AttEntry.bytes
  let tenants (p : Nat) : List Nat :=
    (s.disp.queues.filter fun q => q.2.part = p && decide (q.1 < 4096)).foldl (fun l q => insertNat q.2.tenant.toNat l) []
  natBytes 32 nonce.toNat ++ natBytes 32 h.running.meas.toNat ++ natBytes 8 h.rollback ++
  (s.parts.flatMap fun p => natBytes 8 p.1 ++ natBytes 8 p.2.quota ++ p.2.octets.flatMap (natBytes 2) ++ (tenants p.1).flatMap (natBytes 2)) ++
  natBytes 8 h.attLog.length ++ shake256 log 32

/-- R391: ATTEST: the index advances before the signature is released. -/
def execAttest (nonce : BitVec 256) (s : State) : Out :=
  if !s.cybelReady 0x09 then .refused (.notEnabled "ATTEST")
  else if 2 ^ 20 ≤ s.host.sigIndex then .next (s.respond 6 [])
  else
    let i := s.host.sigIndex
    let m := s.attestation nonce
    let bs := m ++ Config.signature i m
    let words := (List.range ((bs.length + 7) / 8)).map fun j => bytesWord ((bs.drop (8 * j)).take 8)
    .next ((s.modHost fun h => { h with sigIndex := i + 1 }).respond 0 words)

/-- R391: FW_STAGE: a verified image of no older version goes to flash. -/
def execFwStage (addr len : Nat) (s : State) : Out :=
  s.cybel 0x0A "FW_STAGE" fun s =>
    let h := s.host
    let inside := h.windows.any fun w => decide (w.1 ≤ addr) && decide (addr + len ≤ w.1 + w.2)
    let img := s.rdBytes (hostBase + addr) len
    if (h.winLocked && !inside) || !Config.verifies img || decide (Config.imageVersion img < h.rollback) then (6, s)
    else
      let f : Firmware := { version := Config.imageVersion img, meas := Config.measurement img, signed := true }
      (0, (s.modHost fun h => { h with flash := f }).attest (.stage f.version) 0)

/-! Power (R392 to R394). -/

/-- R393, R394: a core cycle at which issue may stop: c mod 8 = 0, before any turn. -/
def State.stopPoint (s : State) : Bool := s.dclk % 8 = 0 && !s.sched.begun

/-- R393, R394: DCLK pauses: the clocks are stopped, in standby, and at a trip once what had started is complete and a core cycle ends. -/
def State.paused (s : State) : Bool :=
  s.host.clocksStopped || s.host.standby || (s.host.trip && !s.sched.begun && s.unitsQuiet)

/-- The compute die of stack `st` is zeroed: no core holds anything, and its TLBs (R218) are empty. -/
def State.zeroDie (s : State) (st : Nat) : State :=
  let ks := ((s.cores.map fun (x : Nat × CoreState) => x.1) ++ s.slotNums.map (· / 8)).filter fun k => stackOf k = st
  let lm (a : Nat) : Bool := isLm a && stackOf (lmCore a) = st
  let s := ks.foldl (init := s) fun s k => s.clearCore k
  let s := s.modMm fun m => { m with
    bytes := m.bytes.filter fun c => !lm c.1, full := m.full.filter fun a => !lm a, poison := m.poison.filter fun a => !lm a }
  { s with octets := s.octets.filter fun o => o.1 / 256 ≠ st }.modDie st fun d => { d with tlb := [] }

/-- R393: leaving standby, the compute dies come back zeroed. -/
def State.leaveStandby (s : State) : State :=
  ((List.range 4).foldl (init := s) fun s st => s.zeroDie st).modHost fun h => { h with standby := false }

/-- R393, R394: POWER to an operating point: the clocks stop, or stand already, and standby ends; BUSY while a die is still above its trip
point. -/
def execPowerOperatingPoint (op : BitVec 3) (s : State) : Out :=
  if !s.cybelReady 0x08 || !(s.stopPoint || s.paused) then .refused (.notEnabled "POWER_OPERATING_POINT")
  else
    let (c, s) := if s.host.trip then s.choose else (0, s)
    if c ≠ 0 then .next (s.respond 1 [])
    else .next ((if s.host.standby then s.leaveStandby else s).modHost fun h => { h with opNext := op, clocksStopped := true })

/-- R393: the clocks restart at the new frequency, and the command responds. -/
def execClockRestart (s : State) : Out :=
  if s.host.clocksStopped then
    .next ((s.modHost fun h => { h with op := h.opNext, clocksStopped := false, trip := false, hot := [] }).respond 0 [])
  else .refused (.notEnabled "CLOCK_RESTART")

/-- R393: POWER, stack off. -/
def execPowerStackOff (st : Nat) (s : State) : Out :=
  s.cybel 0x08 "POWER_STACK_OFF" fun s =>
    if 4 ≤ st || s.octets.any fun o => o.1 / 256 = st && o.2.part.isSome then (6, s)
    else (0, (s.zeroDie st).modDie st fun d => { d with on := false })

/-- R393: POWER, stack on. -/
def execPowerStackOn (st : Nat) (s : State) : Out :=
  s.cybel 0x08 "POWER_STACK_ON" fun s =>
    if 4 ≤ st then (6, s)
    else if (s.die st).on then (0, s)
    else (0, (s.zeroDie st).modDie st fun d => { d with on := true })

/-- R393: POWER, standby. -/
def execPowerStandby (s : State) : Out :=
  s.cybel 0x08 "POWER_STANDBY" fun s =>
    let running := s.parts.any fun p => match p.2.gang with
      | .stopped _ => false
      | _ => true
    if running then (6, s) else (0, s.modHost fun h => { h with standby := true })

/-- R393: POWER leaves standby at the operating point that stands; at another, POWER_OPERATING_POINT does. -/
def execPowerStandbyExit (s : State) : Out :=
  if !s.cybelReady 0x08 || !s.host.standby then .refused (.notEnabled "POWER_STANDBY_EXIT")
  else .next (s.leaveStandby.respond 0 [])

/-- R394: a die reaches its trip point: every core stops issuing. -/
def execThermalTrip (die : Nat) (s : State) : Out :=
  if !s.stopPoint then .refused (.notEnabled "THERMAL_TRIP")
  else .next (s.modHost fun h => { h with trip := true, hot := insertNat die h.hot, msix := h.msix ++ [1] })

/-! Resets (R395). -/

/-- R395: the module after a reset that keeps memory `mm`: everything else as after reset, but for what the host link keeps. -/
def State.resetTo (s : State) (mm : Mem) (h : HostState) : State :=
  { State.reset with mm := mm, host := h, sched := { s.sched with begun := false, turned := [], landed := [], inTurn := false, serve := [] } }

/-- Memory where only the addresses that `keep` chooses hold anything. -/
def Mem.only (m : Mem) (keep : Nat → Bool) : Mem :=
  { bytes := m.bytes.filter fun c => keep c.1, homes := [], poison := m.poison.filter keep, full := [], feq := [] }

/-- R395: what a module reset leaves: device memory, firmware and the attestation log; R391: a module whose firmware did not start stays in the
boot ROM. -/
def State.moduleReset (s : State) : State :=
  let h := s.host
  s.resetTo (s.mm.only fun a => !isLm a) { HostState.reset with
    running := h.running, flash := h.flash, attLog := h.attLog, sigIndex := h.sigIndex, rollback := h.rollback, ready := h.ready }

/-- R391, R395: a cold reset: device memory is lost, and the flash image starts if its signature verifies and its
version is at least the rollback counter. -/
def State.coldReset (s : State) (log : List AttEntry) : State :=
  let h := s.host
  let ok := h.flash.signed && decide (h.rollback ≤ h.flash.version)
  let s := s.resetTo (s.mm.only isHost) { HostState.reset with
    running := if ok then h.flash else h.running, flash := h.flash, attLog := log, sigIndex := h.sigIndex, rollback := h.rollback, ready := ok }
  if ok then s.attest (.start h.flash.version) 0 else s

/-- R395: RESET, module. -/
def execResetModule (s : State) : Out := if s.cybelReady 0x0B then .next s.moduleReset else .refused (.notEnabled "RESET_MODULE")

/-- R395: RESET, cold. -/
def execResetCold (s : State) : Out :=
  if s.cybelReady 0x0B then .next (s.coldReset s.host.attLog) else .refused (.notEnabled "RESET_COLD")

/-- R395, R399: a function-level reset; a command that runs is abandoned. -/
def execFlr (s : State) : Out := .next s.moduleReset

/-- R391: supply power is lost and returns. -/
def execPowerLoss (s : State) : Out := .next (s.coldReset [])

end Sys2Proof.Machine
end

