-- ==== Sys2Proof/Machine/Ordering.lean ====
section
/-!
DEFINITION. FENCE, LDACQ, STREL and the atomics (R226 to R245).
-/

namespace Sys2Proof.Machine

def isRel : AKind → Bool
  | .rel | .ar => true
  | _ => false

def isAcq : AKind → Bool
  | .acq | .ar => true
  | _ => false

/-- R242: an access that FENCE.acq waits for: a load or an atomic. -/
def isRead (k : AccKind) : Bool := k.cnt = .ld

/-- R242: FENCE of every scope: the device performs the same waits (R227). -/
def execFence (sc : Scope) (k : FKind) (s : State) : Out :=
  let _ := sc
  let p := (s.slot s.cur).pend
  let waits := match k with
    | .acq => p.any fun a => isRead a.kind
    | .rel | .ar => !p.isEmpty
  .next (if waits then s.stallHead s.cur else s.complete s.cur)

/-- R243: LDACQ: a load that is an acquire. -/
def execLdacq (d a : Reg) (imm : BitVec 16) (sz : Size2) (sc : Scope) (s : State) : Out :=
  let _ := sc
  let n := size2Bytes sz
  .next (s.withRegs s.cur [a] [d] fun s => s.issueAccess s.cur [a]
    { kind := .load ((s.slot s.cur).bind d) false, need := { acc := .r, align := n }, pieces := [(s.ea a imm, n)], hint := .none
      acquire := true })

/-- R243: STREL: a store that is a release. -/
def execStrel (a b : Reg) (imm : BitVec 16) (sz : Size2) (sc : Scope) (s : State) : Out :=
  let _ := sc
  let n := size2Bytes sz
  .next (s.withRegs s.cur [a, b] [] fun s => s.issueAccess s.cur [a, b]
    { kind := .store (natBytes n (s.rv b).toNat), need := { acc := .w, align := n }, pieces := [(s.ea a imm, n)], hint := .none
      release := true })

/-- R244: an atomic at [a]. -/
def State.atomic (s : State) (op : AtomOp) (d a b : Reg) (sz : Size2) (k : AKind) (h : Hint) : State :=
  let n := size2Bytes sz
  s.withRegs s.cur [a, b] [d] fun s => s.issueAccess s.cur [a, b]
    { kind := .rmw op ((s.slot s.cur).bind d) (s.rv b)
      need := { acc := .rw, align := n, impure := true, home := true, atomic := true }
      pieces := [(s.rv a, n)], hint := h, release := isRel k, acquire := isAcq k }

/-- R244: AADD. -/
def execAadd (d a b : Reg) (sz : Size2) (sc : Scope) (k : AKind) (h : Hint) (s : State) : Out :=
  let _ := sc
  .next (s.atomic .add d a b sz k h)

/-- R244: AAND. -/
def execAand (d a b : Reg) (sz : Size2) (sc : Scope) (k : AKind) (h : Hint) (s : State) : Out :=
  let _ := sc
  .next (s.atomic .and d a b sz k h)

/-- R244: AOR. -/
def execAor (d a b : Reg) (sz : Size2) (sc : Scope) (k : AKind) (h : Hint) (s : State) : Out :=
  let _ := sc
  .next (s.atomic .or d a b sz k h)

/-- R244: AXOR. -/
def execAxor (d a b : Reg) (sz : Size2) (sc : Scope) (k : AKind) (h : Hint) (s : State) : Out :=
  let _ := sc
  .next (s.atomic .xor d a b sz k h)

/-- R244: AMIN. -/
def execAmin (d a b : Reg) (sz : Size2) (sc : Scope) (k : AKind) (h : Hint) (s : State) : Out :=
  let _ := sc
  .next (s.atomic .min d a b sz k h)

/-- R244: AMAX. -/
def execAmax (d a b : Reg) (sz : Size2) (sc : Scope) (k : AKind) (h : Hint) (s : State) : Out :=
  let _ := sc
  .next (s.atomic .max d a b sz k h)

/-- R244: AMINN. -/
def execAminn (d a b : Reg) (sz : Size2) (sc : Scope) (k : AKind) (h : Hint) (s : State) : Out :=
  let _ := sc
  .next (s.atomic .minn d a b sz k h)

/-- R244: AMAXN. -/
def execAmaxn (d a b : Reg) (sz : Size2) (sc : Scope) (k : AKind) (h : Hint) (s : State) : Out :=
  let _ := sc
  .next (s.atomic .maxn d a b sz k h)

/-- R244: ASWP. -/
def execAswp (d a b : Reg) (sz : Size2) (sc : Scope) (k : AKind) (h : Hint) (s : State) : Out :=
  let _ := sc
  .next (s.atomic .swp d a b sz k h)

/-- R240, R245: the scope of a compare and swap that a TGT 2 page accepts. -/
def scopeIsS : Scope → Bool
  | .s => true
  | _ => false

/-- R245: ACAS. -/
def execAcas (d a b c : Reg) (imm : BitVec 16) (sz : Size2) (sc : Scope) (k : AKind) (h : Hint) (s : State) : Out :=
  let n := size2Bytes sz
  let m := 2 ^ (8 * n)
  .next (s.withRegs s.cur [a, b, c] [d] fun s => s.issueAccess s.cur [a, b, c]
    { kind := .cas ((s.slot s.cur).bind d) ((s.slot s.cur).bind b) ((s.rv b).toNat % m) ((s.rv c).toNat % m)
      need := { acc := .rw, align := n, impure := true, home := true, atomic := true, casS := scopeIsS sc }
      pieces := [(s.ea a imm, n)], hint := h, release := isRel k, acquire := isAcq k })

/-- R245: the 16-byte value of an even register pair. -/
def State.pairVal (s : State) (r : Reg) : Nat := (s.rv r).toNat + 2 ^ 64 * (s.rv (Reg.next r)).toNat

/-- R245: ACAS2. -/
def execAcas2 (d a b c : Reg) (imm : BitVec 16) (sc : Scope) (k : AKind) (h : Hint) (s : State) : Out :=
  .next (s.withRegs s.cur [a] [d] fun s => s.issueAccess s.cur [a]
    { kind := .cas2 ((s.slot s.cur).bind d) ((s.slot s.cur).bind b) (s.pairVal b) (s.pairVal c)
      need := { acc := .rw, align := 16, impure := true, home := true, atomic := true, casS := scopeIsS sc }
      pieces := [(s.ea a imm, 16)], hint := h, release := isRel k, acquire := isAcq k })

end Sys2Proof.Machine
end

