-- ==== Sys2Proof/Machine/Dispatch.lean ====
section
/-!
DEFINITION. The dispatcher: one arm for each constructor of `Instr`.
-/

namespace Sys2Proof.Machine

def exec (i : Instr) (s : State) : Host.Outcome State Fault Refusal :=
  match i with
  | .nop => Sys2Proof.Machine.execNop s
  | .b off hd => Sys2Proof.Machine.execB off hd s
  | .bl d off hd => Sys2Proof.Machine.execBl d off hd s
  | .bc a b off hd c => Sys2Proof.Machine.execBc a b off hd c s
  | .bcz a off hd c => Sys2Proof.Machine.execBcz a off hd c s
  | .jx a => Sys2Proof.Machine.execJx a s
  | .jlx d a => Sys2Proof.Machine.execJlx d a s
  | .loop a off hd => Sys2Proof.Machine.execLoop a off hd s
  | .halt => Sys2Proof.Machine.execHalt s
  | .trap imm => Sys2Proof.Machine.execTrap imm s
  | .eret => Sys2Proof.Machine.execEret s
  | .park => Sys2Proof.Machine.execPark s
  | .wake d a => Sys2Proof.Machine.execWake d a s
  | .issueset d a w => Sys2Proof.Machine.execIssueset d a w s
  | .issueget d pend w => Sys2Proof.Machine.execIssueget d pend w s
  | .add d a b => Sys2Proof.Machine.execAdd d a b s
  | .sub d a b => Sys2Proof.Machine.execSub d a b s
  | .mul d a b => Sys2Proof.Machine.execMul d a b s
  | .mulh d a b => Sys2Proof.Machine.execMulh d a b s
  | .mulhn d a b => Sys2Proof.Machine.execMulhn d a b s
  | .div d a b => Sys2Proof.Machine.execDiv d a b s
  | .divn d a b => Sys2Proof.Machine.execDivn d a b s
  | .rem d a b => Sys2Proof.Machine.execRem d a b s
  | .remn d a b => Sys2Proof.Machine.execRemn d a b s
  | .and d a b => Sys2Proof.Machine.execAnd d a b s
  | .or d a b => Sys2Proof.Machine.execOr d a b s
  | .xor d a b => Sys2Proof.Machine.execXor d a b s
  | .andn d a b => Sys2Proof.Machine.execAndn d a b s
  | .shl d a b => Sys2Proof.Machine.execShl d a b s
  | .shra d a b => Sys2Proof.Machine.execShra d a b s
  | .shrl d a b => Sys2Proof.Machine.execShrl d a b s
  | .rotl d a b => Sys2Proof.Machine.execRotl d a b s
  | .min d a b => Sys2Proof.Machine.execMin d a b s
  | .max d a b => Sys2Proof.Machine.execMax d a b s
  | .minn d a b => Sys2Proof.Machine.execMinn d a b s
  | .maxn d a b => Sys2Proof.Machine.execMaxn d a b s
  | .slt d a b => Sys2Proof.Machine.execSlt d a b s
  | .sltn d a b => Sys2Proof.Machine.execSltn d a b s
  | .seq d a b => Sys2Proof.Machine.execSeq d a b s
  | .addi d a imm => Sys2Proof.Machine.execAddi d a imm s
  | .andi d a imm => Sys2Proof.Machine.execAndi d a imm s
  | .ori d a imm => Sys2Proof.Machine.execOri d a imm s
  | .xori d a imm => Sys2Proof.Machine.execXori d a imm s
  | .shli d a sh => Sys2Proof.Machine.execShli d a sh s
  | .shrai d a sh => Sys2Proof.Machine.execShrai d a sh s
  | .shrli d a sh => Sys2Proof.Machine.execShrli d a sh s
  | .slti d a imm => Sys2Proof.Machine.execSlti d a imm s
  | .li d imm => Sys2Proof.Machine.execLi d imm s
  | .lih d a imm => Sys2Proof.Machine.execLih d a imm s
  | .addpc d off hd => Sys2Proof.Machine.execAddpc d off hd s
  | .clz d a => Sys2Proof.Machine.execClz d a s
  | .ctz d a => Sys2Proof.Machine.execCtz d a s
  | .popc d a => Sys2Proof.Machine.execPopc d a s
  | .sel d a b c => Sys2Proof.Machine.execSel d a b c s
  | .bfx d a wm1 lo sx => Sys2Proof.Machine.execBfx d a wm1 lo sx s
  | .bfi d a b wm1 lo => Sys2Proof.Machine.execBfi d a b wm1 lo s
  | .exts d a sz => Sys2Proof.Machine.execExts d a sz s
  | .extz d a sz => Sys2Proof.Machine.execExtz d a sz s
  | .getc d n => Sys2Proof.Machine.execGetc d n s
  | .setc d a n => Sys2Proof.Machine.execSetc d a n s
  | .mlog md ma mb op => Sys2Proof.Machine.execMlog md ma mb op s
  | .mget md a => Sys2Proof.Machine.execMget md a s
  | .mset md a => Sys2Proof.Machine.execMset md a s
  | .fcvt d a b => Sys2Proof.Machine.execFcvt d a b s
  | .fcvti d a b n => Sys2Proof.Machine.execFcvti d a b n s
  | .icvtf d a b n => Sys2Proof.Machine.execIcvtf d a b n s
  | .fclass d a b => Sys2Proof.Machine.execFclass d a b s
  | .dtload d a t => Sys2Proof.Machine.execDtload d a t s
  | .dtread d a t => Sys2Proof.Machine.execDtread d a t s
  | .vadd w vd va vb mk t => Sys2Proof.Machine.execVadd w vd va vb mk t s
  | .vsub w vd va vb mk t => Sys2Proof.Machine.execVsub w vd va vb mk t s
  | .vmul w vd va vb mk t => Sys2Proof.Machine.execVmul w vd va vb mk t s
  | .vfma w vd va vb vc mk t => Sys2Proof.Machine.execVfma w vd va vb vc mk t s
  | .vmin w vd va vb mk t => Sys2Proof.Machine.execVmin w vd va vb mk t s
  | .vmax w vd va vb mk t => Sys2Proof.Machine.execVmax w vd va vb mk t s
  | .vabs w vd va mk t => Sys2Proof.Machine.execVabs w vd va mk t s
  | .vcmp w vd va vb mk c k => Sys2Proof.Machine.execVcmp w vd va vb mk c k s
  | .vsel w vd va vb mk => Sys2Proof.Machine.execVsel w vd va vb mk s
  | .vand w vd va vb mk => Sys2Proof.Machine.execVand w vd va vb mk s
  | .vor w vd va vb mk => Sys2Proof.Machine.execVor w vd va vb mk s
  | .vxor w vd va vb mk => Sys2Proof.Machine.execVxor w vd va vb mk s
  | .vshl w vd va vb mk => Sys2Proof.Machine.execVshl w vd va vb mk s
  | .vshr w vd va vb mk ar => Sys2Proof.Machine.execVshr w vd va vb mk ar s
  | .vbcast w vd xa mk => Sys2Proof.Machine.execVbcast w vd xa mk s
  | .vins w vd xa nl mk nh => Sys2Proof.Machine.execVins w vd xa nl mk nh s
  | .vmovx d va nl nh sx szx => Sys2Proof.Machine.execVmovx d va nl nh sx szx s
  | .vidx w vd mk => Sys2Proof.Machine.execVidx w vd mk s
  | .vperm w vd va vb mk => Sys2Proof.Machine.execVperm w vd va vb mk s
  | .vred w vd va op mk t => Sys2Proof.Machine.execVred w vd va op mk t s
  | .vdec vd va xb => Sys2Proof.Machine.execVdec vd va xb s
  | .venc vd va xb => Sys2Proof.Machine.execVenc vd va xb s
  | .vcvt vd va xb => Sys2Proof.Machine.execVcvt vd va xb s
  | .sfn w vd va fn mk t => Sys2Proof.Machine.execSfn w vd va fn mk t s
  | .vmode d m => Sys2Proof.Machine.execVmode d m s
  | .vfence => Sys2Proof.Machine.execVfence s
  | .vstat d => Sys2Proof.Machine.execVstat d s
  | .ld d a imm sz h => Sys2Proof.Machine.execLd d a imm sz h s
  | .lds d a imm sz h => Sys2Proof.Machine.execLds d a imm sz h s
  | .st a b imm sz h => Sys2Proof.Machine.execSt a b imm sz h s
  | .stn a b imm hi h => Sys2Proof.Machine.execStn a b imm hi h s
  | .ldx d a b imm sz h => Sys2Proof.Machine.execLdx d a b imm sz h s
  | .stx a b c imm sz h => Sys2Proof.Machine.execStx a b c imm sz h s
  | .ldf d a imm => Sys2Proof.Machine.execLdf d a imm s
  | .ldfe d a imm => Sys2Proof.Machine.execLdfe d a imm s
  | .stf a b imm => Sys2Proof.Machine.execStf a b imm s
  | .feset a imm full => Sys2Proof.Machine.execFeset a imm full s
  | .feget d a imm => Sys2Proof.Machine.execFeget d a imm s
  | .vld vd a imm h => Sys2Proof.Machine.execVld vd a imm h s
  | .vst vd a imm h => Sys2Proof.Machine.execVst vd a imm h s
  | .vldx w vd a b imm h => Sys2Proof.Machine.execVldx w vd a b imm h s
  | .vstx a b w vc imm h => Sys2Proof.Machine.execVstx a b w vc imm h s
  | .bankrole d a b => Sys2Proof.Machine.execBankrole d a b s
  | .stashmap d a bank h => Sys2Proof.Machine.execStashmap d a bank h s
  | .stashwb a => Sys2Proof.Machine.execStashwb a s
  | .wait l st c t => Sys2Proof.Machine.execWait l st c t s
  | .cntget d => Sys2Proof.Machine.execCntget d s
  | .tmma a c row0 m1 z l => Sys2Proof.Machine.execTmma a c row0 m1 z l s
  | .tzero a => Sys2Proof.Machine.execTzero a s
  | .tbld a b h l => Sys2Proof.Machine.execTbld a b h l s
  | .tbpass drop l => Sys2Proof.Machine.execTbpass drop l s
  | .tdrain a b c imm z wk fl => Sys2Proof.Machine.execTdrain a b c imm z wk fl s
  | .tfence => Sys2Proof.Machine.execTfence s
  | .tstat d clr w => Sys2Proof.Machine.execTstat d clr w s
  | .twgt d a b => Sys2Proof.Machine.execTwgt d a b s
  | .cpy q => Sys2Proof.Machine.execCpy q s
  | .cpyt d q => Sys2Proof.Machine.execCpyt d q s
  | .mbxpop p => Sys2Proof.Machine.execMbxpop p s
  | .wfm => Sys2Proof.Machine.execWfm s
  | .uien d a b => Sys2Proof.Machine.execUien d a b s
  | .uiret => Sys2Proof.Machine.execUiret s
  | .tokacc a b imm => Sys2Proof.Machine.execTokacc a b imm s
  | .pft a imm h => Sys2Proof.Machine.execPft a imm h s
  | .pinw d a => Sys2Proof.Machine.execPinw d a s
  | .pinq d a => Sys2Proof.Machine.execPinq d a s
  | .cwb d a b all => Sys2Proof.Machine.execCwb d a b all s
  | .cinv d a b llc all => Sys2Proof.Machine.execCinv d a b llc all s
  | .tlbinv a b sc => Sys2Proof.Machine.execTlbinv a b sc s
  | .fence sc k => Sys2Proof.Machine.execFence sc k s
  | .ldacq d a imm sz sc => Sys2Proof.Machine.execLdacq d a imm sz sc s
  | .strel a b imm sz sc => Sys2Proof.Machine.execStrel a b imm sz sc s
  | .aadd d a b sz sc k h => Sys2Proof.Machine.execAadd d a b sz sc k h s
  | .aand d a b sz sc k h => Sys2Proof.Machine.execAand d a b sz sc k h s
  | .aor d a b sz sc k h => Sys2Proof.Machine.execAor d a b sz sc k h s
  | .axor d a b sz sc k h => Sys2Proof.Machine.execAxor d a b sz sc k h s
  | .amin d a b sz sc k h => Sys2Proof.Machine.execAmin d a b sz sc k h s
  | .amax d a b sz sc k h => Sys2Proof.Machine.execAmax d a b sz sc k h s
  | .aminn d a b sz sc k h => Sys2Proof.Machine.execAminn d a b sz sc k h s
  | .amaxn d a b sz sc k h => Sys2Proof.Machine.execAmaxn d a b sz sc k h s
  | .aswp d a b sz sc k h => Sys2Proof.Machine.execAswp d a b sz sc k h s
  | .acas d a b c imm sz sc k h => Sys2Proof.Machine.execAcas d a b c imm sz sc k h s
  | .acas2 d a b c imm sc k h => Sys2Proof.Machine.execAcas2 d a b c imm sc k h s
  | .enq d a b => Sys2Proof.Machine.execEnq d a b s
  | .qfence => Sys2Proof.Machine.execQfence s
  | .launch d a => Sys2Proof.Machine.execLaunch d a s
  | .bar d g => Sys2Proof.Machine.execBar d g s
  | .qstat d a => Sys2Proof.Machine.execQstat d a s
  | .glaunch d a => Sys2Proof.Machine.execGlaunch d a s
  | .gtok d a b => Sys2Proof.Machine.execGtok d a b s
  | .gexp d a b => Sys2Proof.Machine.execGexp d a b s
  | .gstat d a b n => Sys2Proof.Machine.execGstat d a b n s
  | .gcancel d a b => Sys2Proof.Machine.execGcancel d a b s
  | .gretry d a b => Sys2Proof.Machine.execGretry d a b s
  | .rulook d a => Sys2Proof.Machine.execRulook d a s
  | .ruput d a => Sys2Proof.Machine.execRuput d a s
  | .rudrop d a m => Sys2Proof.Machine.execRudrop d a m s
  | .rustat d a => Sys2Proof.Machine.execRustat d a s
  | .agnew d a => Sys2Proof.Machine.execAgnew d a s
  | .agstat d a b => Sys2Proof.Machine.execAgstat d a b s
  | .evsend d a => Sys2Proof.Machine.execEvsend d a s
  | .evdone => Sys2Proof.Machine.execEvdone s
  | .ctxapp d a b => Sys2Proof.Machine.execCtxapp d a b s
  | .ctxcut d a b cm => Sys2Proof.Machine.execCtxcut d a b cm s
  | .irrev d a b => Sys2Proof.Machine.execIrrev d a b s
  | .vtwin d a => Sys2Proof.Machine.execVtwin d a s
  | .gvtreq => Sys2Proof.Machine.execGvtreq s
  | .streamset d a p => Sys2Proof.Machine.execStreamset d a p s
  | .mark d p => Sys2Proof.Machine.execMark d p s
  | .coll d a => Sys2Proof.Machine.execColl d a s
  | .nstat d a => Sys2Proof.Machine.execNstat d a s
  | .gangsw d a b => Sys2Proof.Machine.execGangsw d a b s
  | .dlchk => Sys2Proof.Machine.execDlchk s
  | .rplog d a => Sys2Proof.Machine.execRplog d a s
  | .faultget d a => Sys2Proof.Machine.execFaultget d a s
  | .biasf d a host => Sys2Proof.Machine.execBiasf d a host s
  | .hostsig d a b => Sys2Proof.Machine.execHostsig d a b s
  | .lineFill k sl => Sys2Proof.Machine.execLineFill k sl s
  | .portPop k sl p d => Sys2Proof.Machine.execPortPop k sl p d s
  | .portPush k sl p v => Sys2Proof.Machine.execPortPush k sl p v s
  | .eventPortPop k sl d => Sys2Proof.Machine.execEventPortPop k sl d s
  | .dutyWrite k sl v => Sys2Proof.Machine.execDutyWrite k sl v s
  | .cpcWrite k sl v => Sys2Proof.Machine.execCpcWrite k sl v s
  | .registerWrite k sl n v => Sys2Proof.Machine.execRegisterWrite k sl n v s
  | .loadPerformed k sl id => Sys2Proof.Machine.execLoadPerformed k sl id s
  | .storePerformed k sl id => Sys2Proof.Machine.execStorePerformed k sl id s
  | .tlbWalkComplete k sl => Sys2Proof.Machine.execTlbWalkComplete k sl s
  | .stashFill k sl => Sys2Proof.Machine.execStashFill k sl s
  | .ownershipGrant k sl => Sys2Proof.Machine.execOwnershipGrant k sl s
  | .granuleCopyDone k sl => Sys2Proof.Machine.execGranuleCopyDone k sl s
  | .feRemoteArrival k sl id => Sys2Proof.Machine.execFeRemoteArrival k sl id s
  | .feTimeout k sl => Sys2Proof.Machine.execFeTimeout k sl s
  | .latePoison k sl => Sys2Proof.Machine.execLatePoison k sl s
  | .coproc k sl => Sys2Proof.Machine.execCoproc k sl s
  | .uiEntry k sl => Sys2Proof.Machine.execUiEntry k sl s
  | .taskRetire k sl => Sys2Proof.Machine.execTaskRetire k sl s
  | .wakeupMessage idx => Sys2Proof.Machine.execWakeupMessage idx s
  | .issueTableActivate k => Sys2Proof.Machine.execIssueTableActivate k s
  | .vectorGrant k sl => Sys2Proof.Machine.execVectorGrant k sl s
  | .vectorResult k sl => Sys2Proof.Machine.execVectorResult k sl s
  | .lvCommandEnqueue k sl => Sys2Proof.Machine.execLvCommandEnqueue k sl s
  | .lvCommandStart o => Sys2Proof.Machine.execLvCommandStart o s
  | .lvCommandComplete o => Sys2Proof.Machine.execLvCommandComplete o s
  | .matrixOpStart k => Sys2Proof.Machine.execMatrixOpStart k s
  | .tmmaComplete k => Sys2Proof.Machine.execTmmaComplete k s
  | .tzeroComplete k => Sys2Proof.Machine.execTzeroComplete k s
  | .tbldComplete o l => Sys2Proof.Machine.execTbldComplete o l s
  | .tbpassMoveEnd o l => Sys2Proof.Machine.execTbpassMoveEnd o l s
  | .tdrainComplete k => Sys2Proof.Machine.execTdrainComplete k s
  | .copyKindCopy k => Sys2Proof.Machine.execCopyKindCopy k s
  | .copyKindGather k => Sys2Proof.Machine.execCopyKindGather k s
  | .copyKindScatter k => Sys2Proof.Machine.execCopyKindScatter k s
  | .copyKindFill k => Sys2Proof.Machine.execCopyKindFill k s
  | .copyKindConvert k => Sys2Proof.Machine.execCopyKindConvert k s
  | .copyKindHash k => Sys2Proof.Machine.execCopyKindHash k s
  | .copyKindSelacc k => Sys2Proof.Machine.execCopyKindSelacc k s
  | .copyKindSelmem k => Sys2Proof.Machine.execCopyKindSelmem k s
  | .copyKindTokacc k => Sys2Proof.Machine.execCopyKindTokacc k s
  | .prefetchRequest k => Sys2Proof.Machine.execPrefetchRequest k s
  | .copyRequestFault o idx => Sys2Proof.Machine.execCopyRequestFault o idx s
  | .copyRequestComplete o idx => Sys2Proof.Machine.execCopyRequestComplete o idx s
  | .biasFlipDrainComplete pg => Sys2Proof.Machine.execBiasFlipDrainComplete pg s
  | .hostAccess acc => Sys2Proof.Machine.execHostAccess acc s
  | .queueTailWrite q t => Sys2Proof.Machine.execQueueTailWrite q t s
  | .tailWordSeen q => Sys2Proof.Machine.execTailWordSeen q s
  | .packetRefill q => Sys2Proof.Machine.execPacketRefill q s
  | .freeSlotReport st => Sys2Proof.Machine.execFreeSlotReport st s
  | .dispatch => Sys2Proof.Machine.execDispatch s
  | .tokenDelivery idx => Sys2Proof.Machine.execTokenDelivery idx s
  | .nodeCompletion idx => Sys2Proof.Machine.execNodeCompletion idx s
  | .waveLevel g => Sys2Proof.Machine.execWaveLevel g s
  | .rearm g => Sys2Proof.Machine.execRearm g s
  | .pewterLookupDone g n => Sys2Proof.Machine.execPewterLookupDone g n s
  | .pewterInsert idx => Sys2Proof.Machine.execPewterInsert idx s
  | .eventArrival idx => Sys2Proof.Machine.execEventArrival idx s
  | .antiMessageArrival idx => Sys2Proof.Machine.execAntiMessageArrival idx s
  | .rollbackContinue p ag => Sys2Proof.Machine.execRollbackContinue p ag s
  | .heldMessageRelease idx => Sys2Proof.Machine.execHeldMessageRelease idx s
  | .eventPlace p ag => Sys2Proof.Machine.execEventPlace p ag s
  | .eventOpen k sl => Sys2Proof.Machine.execEventOpen k sl s
  | .gvtTimer p => Sys2Proof.Machine.execGvtTimer p s
  | .gvtCut p st => Sys2Proof.Machine.execGvtCut p st s
  | .gvtReport p st => Sys2Proof.Machine.execGvtReport p st s
  | .gvtPass p => Sys2Proof.Machine.execGvtPass p s
  | .commit p st => Sys2Proof.Machine.execCommit p st s
  | .ringDelivery p r => Sys2Proof.Machine.execRingDelivery p r s
  | .ringCidxPoll p r => Sys2Proof.Machine.execRingCidxPoll p r s
  | .streamFlitSend k p => Sys2Proof.Machine.execStreamFlitSend k p s
  | .streamFlitArrival idx => Sys2Proof.Machine.execStreamFlitArrival idx s
  | .linkFlitReceive port x => Sys2Proof.Machine.execLinkFlitReceive port x s
  | .collStart idx => Sys2Proof.Machine.execCollStart idx s
  | .collChunkArrival idx => Sys2Proof.Machine.execCollChunkArrival idx s
  | .collComplete idx m => Sys2Proof.Machine.execCollComplete idx m s
  | .gangStop p => Sys2Proof.Machine.execGangStop p s
  | .gangResume p => Sys2Proof.Machine.execGangResume p s
  | .dlchkScan p => Sys2Proof.Machine.execDlchkScan p s
  | .replayReceive k => Sys2Proof.Machine.execReplayReceive k s
  | .mgmtTrapResume k sl pc => Sys2Proof.Machine.execMgmtTrapResume k sl pc s
  | .mgmtTrapEnd k sl => Sys2Proof.Machine.execMgmtTrapEnd k sl s
  | .partCreate a => Sys2Proof.Machine.execPartCreate a s
  | .partDestroy p => Sys2Proof.Machine.execPartDestroy p s
  | .queueConfig q a => Sys2Proof.Machine.execQueueConfig q a s
  | .ringConfig p r a => Sys2Proof.Machine.execRingConfig p r a s
  | .quota t q keep => Sys2Proof.Machine.execQuota t q keep s
  | .gang p t r back => Sys2Proof.Machine.execGang p t r back s
  | .bias base cnt host lock => Sys2Proof.Machine.execBias base cnt host lock s
  | .powerOperatingPoint op => Sys2Proof.Machine.execPowerOperatingPoint op s
  | .clockRestart => Sys2Proof.Machine.execClockRestart s
  | .powerStackOff st => Sys2Proof.Machine.execPowerStackOff st s
  | .powerStackOn st => Sys2Proof.Machine.execPowerStackOn st s
  | .powerStandby => Sys2Proof.Machine.execPowerStandby s
  | .powerStandbyExit => Sys2Proof.Machine.execPowerStandbyExit s
  | .attest nonce => Sys2Proof.Machine.execAttest nonce s
  | .fwStage addr len => Sys2Proof.Machine.execFwStage addr len s
  | .resetModule => Sys2Proof.Machine.execResetModule s
  | .resetCold => Sys2Proof.Machine.execResetCold s
  | .window rs lock => Sys2Proof.Machine.execWindow rs lock s
  | .moduleConfig num routes => Sys2Proof.Machine.execModuleConfig num routes s
  | .gvtDomain p ms root => Sys2Proof.Machine.execGvtDomain p ms root s
  | .thermalTrip die => Sys2Proof.Machine.execThermalTrip die s
  | .flr => Sys2Proof.Machine.execFlr s
  | .barrierCompletionArrival k sl => Sys2Proof.Machine.execBarrierCompletionArrival k sl s
  | .spillWritePerformed q => Sys2Proof.Machine.execSpillWritePerformed q s
  | .uncorrectableError a => Sys2Proof.Machine.execUncorrectableError a s
  | .powerLoss => Sys2Proof.Machine.execPowerLoss s

end Sys2Proof.Machine
end

