-- ==== Sys2Proof/Machine/Turn.lean ====
section
/-!
DEFINITION. A core cycle (R61 to R63, R79): the turns of the slots, the happenings whose core cycle the spec fixes, the agenda that
stands for the device's free timing, and the beginning of the next core cycle. `step` calls these.
-/

namespace Sys2Proof.Machine

/-! A turn (R61, R62, R371, R156, R204). -/

/-- The head of the slot can issue, or be tried again. -/
def Slot.canIssue (sl : Slot) : Bool := (sl.st = .ready || sl.st = .stall) && sl.hold = .none

/-- The head at the PC of slot `i`, which holds its line: `run` gives the effect of an instruction. -/
def State.issueHead (s : State) (i : Nat) (run : Instr → State → Out) : Out :=
  match (s.slot i).head with
  | .trap c ops => .next (s.headTrap i c ops)
  | .ok ins npc => run ins { s.modSlot i fun sl => { sl with npc := npc, st := .ready, req := none } with cur := i }

/-- R46, R49: the slot enters the line of its PC where it holds none, and issues the head. -/
def State.fetchIssue (s : State) (i : Nat) (run : Instr → State → Out) : Out :=
  if (s.slot i).line.isSome then s.issueHead i run
  else
    let r := s.enterLine i
    if r.2 then r.1.issueHead i run else .next r.1

/-- The turn of slot `i`: the SSTEP of a counted read (R372), a raised trap (R371), FE_TIMEOUT (R156), a fault that a walk or a fill found,
a user-level interrupt (R204), or the head; a slot that is not ready wastes its turn (R62). A RULOOK that has issued goes on first (R295). -/
def State.turnBy (s : State) (i : Nat) (run : Instr → State → Out) : Out :=
  let s := s.takeStep i
  let sl := s.slot i
  if sl.look.isSome && sl.canIssue && sl.found.isNone then s.issueHead i run
  else match if sl.takesLate then sl.nextLate else none with
  | some (.poison ..) => execLatePoison (i / 8) (i % 8) s
  | some (.coproc ..) | some (.engine ..) => execCoproc (i / 8) (i % 8) s
  | some t => .next (s.takeLate i t)
  | none =>
    if (s.feExpired i).isSome then execFeTimeout (i / 8) (i % 8) s
    else match sl.found with
      | some f => .next (s.trapAt i f.code f.addr f.ops)
      | none =>
        if sl.uiResume.isSome then execUiEntry (i / 8) (i % 8) s
        else if !sl.canIssue then .next s
        else if sl.latch.isSome then .next (s.stallHead i)
        else s.fetchIssue i run

/-! The turn of a replaying core (R378). -/

/-- R378: the effect of an instruction on a replaying core: a recorded value takes the place of a request (a COLL accepted counts in cp
and reserves its message, R363); a BAR waits for its record. -/
def State.replayRun (s : State) (i : Nat) (ins : Instr) (t : State) : Out :=
  match outsideRegs ins, s.recordNow i 11 with
  | some (srcs, some d), some v =>
    let srcs := if (t.slot i).look.isSome then [] else srcs
    let counts : Bool := match ins with
      | .coll .. => v = 0
      | _ => false
    .next ((t.modSlot i fun sl => { sl with look := none }).withRegs i srcs [d] fun t =>
      (if counts then (t.incCnt i .cp).modSlot i fun sl => { sl with mboxRsv := sl.mboxRsv + 1 } else t).writeDone i srcs d v)
  | _, _ => match ins with
    | .bar d g =>
      let sl := t.slot i
      if !sl.task.grp.getLsbD (32 + g.toNat) || !sl.pend.isEmpty then exec ins t
      else .next (t.withRegs i [] [d] fun t =>
        if (s.recordNow i 8).isSome then t.writeDone i [] d 0
        else t.parkOn i (.bar g (BitVec.ofNat 8 (fld sl.task.grp (8 * g.toNat + 7) (8 * g.toNat))) (sl.bind d)))
    | _ => exec ins t

/-- The slot waits for what lies outside its core. -/
def Slot.waitsOutside (sl : Slot) : Bool :=
  sl.latch.isNone && ((sl.st = .stall && sl.hold = .none && sl.found.isNone) || (sl.st = .parked && match sl.park with
    | .push _ => true
    | _ => false))

/-- R378: the turn is tried again while it waits for what the record says has come. -/
def State.replayTry (s : State) (i : Nat) (run : Instr → State → Out) : Nat → Out
  | 0 => s.turnBy i run
  | n + 1 => match s.turnBy i run with
    | .next t => if (s.slot i).canIssue && (t.slot i).waitsOutside then (t.unblock i).replayTry i run n else .next t
    | r => r

/-- What core `k` does, by an outcome: a replaying core's clock and confinement hold (R378). -/
def State.onCoreOut (s : State) (k : Nat) (f : State → Out) : Out :=
  if s.replays k then match f (s.view k) with
    | .next t => .next (s.confine t k)
    | r => r
  else f s

/-- The turn of slot `i`. -/
def State.turn (s : State) (i : Nat) : Out :=
  if s.replays (i / 8) then
    if (s.slot i).canIssue && s.mustWait i then .next (s.stallHead i)
    else s.onCoreOut (i / 8) fun t => t.replayTry i (s.replayRun i) 8
  else s.turnBy i exec

/-! Heads that are tried again outside their turn (R160). -/

/-- The slot's head waits to be tried again, and nothing else stands before it. -/
def Slot.waitsRetry (sl : Slot) : Bool :=
  sl.st = .stall && sl.canIssue && sl.req.isNone && sl.found.isNone && sl.line.isSome && sl.latch.isNone

/-- The instruction of the slot's head. -/
def Slot.issuing (sl : Slot) : Option Instr :=
  match sl.head with
  | .ok ins _ => some ins
  | .trap .. => none

/-- R160: the access of slot `i` is performed in the core cycle in which the stash line or the ownership that it waits for arrives. -/
def State.retryHead (s : State) (i : Nat) : State :=
  if (s.slot i).waitsRetry && s.octRuns (octetOf (i / 8)) then match s.issueHead i exec with
    | .next t => t
    | _ => s
  else s

/-- R378, kind 10: the next record shows that a stalled head of core `k` issued in this core cycle, which is no turn of its slot (R160): it
issues. -/
def State.replayRetry (k : Nat) (s : State) : Out :=
  if !s.replayOn k then .refused (.notEnabled "REPLAY_RECEIVE")
  else match s.recordAt k (s.core k).rp.count with
    | none => .refused (.notEnabled "REPLAY_RECEIVE")
    | some x =>
      let i := 8 * k + x.r.slot
      let sl := s.slot i
      if x.r.kind ≠ 10 || s.replayOff k ≠ x.off || x.r.data ≠ sl.pc || !sl.canIssue || sl.st ≠ .stall || sl.line.isNone || sl.latch.isSome then
        .refused (.notEnabled "REPLAY_RECEIVE")
      else match s.onCoreOut k fun t => (t.unblock i).issueHead i (s.replayRun i) with
        | .next t => .next (t.modCore k fun c => { c with rp := { c.rp with count := c.rp.count + 1 } })
        | r => r

/-! Whose turn it is. -/

/-- R393, R394: no core issues. -/
def State.issueOff (s : State) : Bool := s.host.clocksStopped || s.host.standby || s.host.trip

/-- R61: slot `i` has a turn in this core cycle, and has not had it. In a partition that stops only a RULOOK that has issued goes on (R374). -/
def State.mayTurn (s : State) (i : Nat) : Bool :=
  let k := i / 8
  i % 8 = (s.view k).dclk % 8 && (s.slot i).live && !s.sched.turned.contains k && (s.octRuns (octetOf k) || (s.slot i).look.isSome) &&
    (s.die (stackOf k)).on && (!s.replays k || s.replayOn k)

/-- The next turn of this core cycle: the cores in ascending order (R262). -/
def State.nextTurn (s : State) : Option Nat := if s.issueOff then none else s.slotNums.find? s.mayTurn

/-! Happenings: where they belong, and when they may happen. -/

/-- The core whose happening it is. -/
def coreOf : Instr → Option Nat
  | .lineFill k _ | .loadPerformed k _ _ | .storePerformed k _ _ | .tlbWalkComplete k _ | .stashFill k _ | .ownershipGrant k _
  | .granuleCopyDone k _ | .feRemoteArrival k _ _ | .taskRetire k _ | .issueTableActivate k | .vectorGrant k _ | .vectorResult k _
  | .lvCommandEnqueue k _ | .matrixOpStart k | .tmmaComplete k | .tzeroComplete k | .tdrainComplete k | .copyKindCopy k
  | .copyKindGather k | .copyKindScatter k | .copyKindFill k | .copyKindConvert k | .copyKindHash k | .copyKindSelacc k
  | .copyKindSelmem k | .copyKindTokacc k | .prefetchRequest k | .eventOpen k _ | .streamFlitSend k _ | .mgmtTrapResume k _ _
  | .mgmtTrapEnd k _ | .barrierCompletionArrival k _ => some k
  | _ => none

/-- The happenings of a core's own, which reach it from nowhere (R376). -/
def ownCore : Instr → Bool
  | .taskRetire .. | .issueTableActivate .. | .vectorGrant .. | .vectorResult .. | .lvCommandEnqueue .. => true
  | _ => false

/-- The happenings that an instruction is the cause of and that fall in its own turn, or that a turn begins with. -/
def insideTurn : Instr → Bool
  | .portPop .. | .portPush .. | .eventPortPop .. | .dutyWrite .. | .cpcWrite .. | .registerWrite .. | .feTimeout .. | .latePoison ..
  | .coproc .. | .uiEntry .. => true
  | _ => false

/-- The happenings that the host, the management controller or the package brings about, clocks or no clocks. -/
def fromHost : Instr → Bool
  | .hostAccess .. | .queueTailWrite .. | .partCreate .. | .partDestroy .. | .queueConfig .. | .ringConfig .. | .quota .. | .gang ..
  | .bias .. | .powerOperatingPoint .. | .clockRestart | .powerStackOff .. | .powerStackOn .. | .powerStandby | .powerStandbyExit
  | .attest .. | .fwStage .. | .resetModule | .resetCold | .window .. | .moduleConfig .. | .gvtDomain .. | .thermalTrip .. | .flr
  | .uncorrectableError .. | .powerLoss | .biasFlipDrainComplete .. => true
  | _ => false

/-- The happenings that start something on a compute die. -/
def startsWork : Instr → Bool
  | .issueTableActivate .. | .vectorGrant .. | .lvCommandEnqueue .. | .lvCommandStart .. | .matrixOpStart .. | .copyKindCopy ..
  | .copyKindGather .. | .copyKindScatter .. | .copyKindFill .. | .copyKindConvert .. | .copyKindHash .. | .copyKindSelacc ..
  | .copyKindSelmem .. | .copyKindTokacc .. | .prefetchRequest .. | .streamFlitSend .. | .eventOpen .. | .collStart ..
  | .linkFlitReceive .. => true
  | _ => false

/-- The happenings that reset the module (R395). -/
def resetsModule : Instr → Bool
  | .resetModule | .resetCold | .flr | .powerLoss => true
  | _ => false

/-- A happening that may come next: what it does, and what that depends on. -/
structure Happening where
  run : State → Out
  core : Option Nat := none   -- the core whose happening it is
  own : Bool := false         -- it reaches that core from nowhere outside
  starts : Bool := false      -- it starts something on a compute die
  host : Bool := false        -- it needs no clock
  logged : Bool := true       -- it may bring a receive (R376)
  resets : Bool := false      -- it resets the module (R395)
  retry : Option Nat := none  -- the slot whose head is tried again at once (R160)

/-- R160: the slot whose stalled access is performed as the happening comes. -/
def retryOf : Instr → Option Nat
  | .stashFill k n | .ownershipGrant k n => some (8 * k + n)
  | _ => none

/-- The happening of a table row; none for an instruction, or for what falls inside a turn. -/
def happening (i : Instr) : Option Happening :=
  if hasEncoding i || insideTurn i then none
  else some { run := exec i, core := coreOf i, own := ownCore i, starts := startsWork i, host := fromHost i
              resets := resetsModule i, retry := retryOf i, logged := match i with
                | .gangStop _ | .gangResume _ => false
                | _ => true }

/-- R378, R393, R394: the happening can meet the module in this state: with the clocks stopped, only the host's; at a trip, nothing that
starts; to a replaying core, nothing from outside. -/
def State.admits (s : State) (h : Happening) : Bool :=
  (h.host || (!s.host.clocksStopped && !s.host.standby && !(s.host.trip && h.starts))) &&
  match h.core with
  | some k => !s.replays k || (h.own && s.replayOn k)
  | none => true

/-- Within a core cycle nothing changes the count of core cycles or the turns that are done (R61): they are those of `s`. -/
def State.keepCycle (s t : State) : State :=
  { t with dclk := s.dclk, sched := { t.sched with begun := s.sched.begun, turned := s.sched.turned } }

/-- What a step that is no turn leaves of `s`, with the receives that it brought recorded (R377). -/
def State.afterHappen (s t : State) (h : Happening) : State :=
  let u := s.keepCycle (if h.logged then s.record t none (if h.own then h.core else none) else t)
  match h.retry with
  | some i => u.keepCycle (u.record (u.retryHead i) (some (i, (u.slot i).issuing)) none)
  | none => u

/-- What the happening leaves, if it is possible now: it waits while it would meet a page in a flip (R239). -/
def State.tryHappen (s : State) (h : Happening) : Option State :=
  if !s.admits h then none
  else
    let r := match h.core, h.own with
      | some k, true => s.onCoreOut k h.run
      | _, _ => h.run s
    match r with
    | .next t =>
      let u := if h.resets then t else s.afterHappen t h
      if u.sched.flipHit then none else some u
    | _ => none

/-- The first of the happenings that is possible. -/
def State.firstPossible (s : State) (l : List Happening) : Option State := l.findSome? s.tryHappen

/-- A core's own happening. -/
def Happening.ofCore (k : Nat) (run : State → Out) (starts : Bool := false) : Happening :=
  { run := run, core := some k, own := true, starts := starts }

/-- A happening at a core that something outside it brings. -/
def Happening.at (k : Nat) (run : State → Out) (starts : Bool := false) : Happening := { run := run, core := some k, starts := starts }

/-- Another happening. -/
def Happening.of (run : State → Out) (starts : Bool := false) : Happening := { run := run, starts := starts }

/-- A gang switch's stop or resume. -/
def Happening.gang (run : State → Out) : Happening := { run := run, logged := false }

/-! Happenings whose core cycle is fixed. -/

/-- R67, R69, R130, R168, R374, R375: what happens at the start of this core cycle, before its turns. DESIGN CHOICE (log 75): of two TBLDs, or
TBPASSes, of one latch that may start at one boundary, the one of the lower core number does, where R170 gives no order. -/
def State.early (s : State) : List Happening :=
  s.parts.flatMap (fun p => match p.2.gang with
    | .stopped _ => [.gang (execGangResume p.1)]
    | .stopping _ => []
    | .running => if p.2.armed.isSome then [.gang (execGangStop p.1)] else []) ++
  (if s.dclk % 32 = 0 then (s.cores.filter fun c => c.2.barrier.isSome).map fun c => .ofCore c.1 (execIssueTableActivate c.1) true else []) ++
  (if s.dclk % 2 = 0 then
    (s.cores.filter fun c => !c.2.mat.queue.isEmpty).map (fun c => .at c.1 (execMatrixOpStart c.1) true) ++
    (s.octets.filter fun o => !o.2.wins.isEmpty).map (fun o => .of (execLvCommandStart o.1) true)
  else [])

/-- R67, R127, R129, R63, R258: what happens to slot `i` after the turns of this core cycle. -/
def State.slotDue (s : State) (i : Nat) : List Happening :=
  let sl := s.slot i
  let k := i / 8
  let n := i % 8
  (match sl.latch with
    | some l => if l.long then (if l.sent then [] else [.ofCore k (execLvCommandEnqueue k n) true])
      else if l.res.isSome then [] else [.ofCore k (execVectorGrant k n) true]
    | none => []) ++
  (if sl.latch.isSome then [.ofCore k (execVectorResult k n)] else []) ++
  (if sl.barAt.isSome then [.at k (execBarrierCompletionArrival k n)] else []) ++
  (if sl.st = .drain then [.ofCore k (execTaskRetire k n)] else [])

/-- R130, R178, R179, R185: the ends of an octet's operations whose length is fixed. -/
def Octet.due (o : Nat) (v : Octet) : List Happening :=
  let latch (l : BitVec 1) (b : BLatch) : List Happening := match b.run with
    | some (_, r) => match r.op.instr with
      | .tbld .. => if tbldOwn r.op || r.fault.isSome then [.of (execTbldComplete o l)] else []
      | _ => [.of (execTbpassMoveEnd o l)]
    | none => []
  (if v.lvRun.isSome then [.of (execLvCommandComplete o)] else []) ++ latch 0 v.mat.l0 ++ latch 1 v.mat.l1

/-- R176, R177, R185: the ends of a core's operations whose length is fixed; R378: the receives of a replay; R348: the flits that leave. -/
def CoreState.due (k : Nat) (c : CoreState) : List Happening :=
  (match c.mat.run with
    | some r => match r.op.instr with
      | .tmma .. => [.at k (execTmmaComplete k)]
      | .tzero _ => [.at k (execTzeroComplete k)]
      | .tdrain .. => if r.fault.isSome && r.rows = 0 then [.at k (execTdrainComplete k)] else []
      | _ => []
    | none => []) ++
  (match c.rp.mode with
    | .replay => [.of (State.replayMatStart k), .of (State.replayRetry k), .of (execReplayReceive k)]
    | _ => []) ++
  (if c.net.bound.isEmpty then [] else (List.range 3).map fun p => .at k (execStreamFlitSend k (BitVec.ofNat 2 p)) true)

/-- R327, R332, R336, R379: the timed happenings of partition `p`. -/
def Part.due (p : Nat) (v : Part) : List Happening :=
  let n := v.newt
  (if v.scan.isSome then [.of (execDlchkScan p)] else []) ++
  (if n.period ≠ 0 then [.of (execGvtTimer p)] else []) ++
  (if n.act then (List.range 4).map fun st => .of (execGvtReport p st) else []) ++
  (n.rings.filter fun r => r.2.stall).map (fun r => .of (execRingCidxPoll p r.1))

/-- What happens after the turns of this core cycle, before it ends. -/
def State.late (s : State) : List Happening :=
  s.slotNums.flatMap s.slotDue ++ s.octets.flatMap (fun o => o.2.due o.1) ++ s.cores.flatMap (fun c => c.2.due c.1) ++
  s.parts.flatMap (fun p => p.2.due p.1)

/-! Happenings whose time is the device's own (R3): one order of them, taken where the agenda is empty (log 8). -/

/-- What slot `i` waits for. -/
def State.slotFree (s : State) (i : Nat) : List Happening :=
  let sl := s.slot i
  let k := i / 8
  let n := i % 8
  (match sl.req with
    | some (.walk ..) => [.at k (execTlbWalkComplete k n)]
    | some (.line ..) => [.at k (execLineFill k n)]
    | some (.stash ..) => [{ run := execStashFill k n, core := some k, retry := some i }]
    | some (.own ..) => [{ run := execOwnershipGrant k n, core := some k, retry := some i }]
    | some (.granule _) => [.at k (execGranuleCopyDone k n)]
    | none => []) ++
  sl.pend.flatMap (fun a =>
    if a.queued then (if a.leaving then [.at k (execFeRemoteArrival k n a.id)] else [])
    else [.at k (execLoadPerformed k n a.id), .at k (execStorePerformed k n a.id), .at k (execFeRemoteArrival k n a.id)]) ++
  (if sl.intake.isEmpty then [] else [.at k (execEventOpen k n) true])

def CoreState.free (k : Nat) (c : CoreState) : List Happening :=
  (if c.mat.run.isSome then [.at k (execTdrainComplete k)] else []) ++
  (if c.cpy.fifo.isEmpty then []
  else [execCopyKindCopy, execCopyKindGather, execCopyKindScatter, execCopyKindFill, execCopyKindConvert, execCopyKindHash,
    execCopyKindSelacc, execCopyKindSelmem, execCopyKindTokacc, execPrefetchRequest].map fun f => .at k (f k) true)

def Octet.free (o : Nat) (v : Octet) : List Happening :=
  (List.range v.cpy.flight.length).flatMap (fun i => [.of (execCopyRequestFault o i), .of (execCopyRequestComplete o i)]) ++
  (if v.mat.l0.run.isSome then [.of (execTbldComplete o 0)] else []) ++ (if v.mat.l1.run.isSome then [.of (execTbldComplete o 1)] else [])

def Queue.free (q : Nat) (v : Queue) : List Happening :=
  [.of (execTailWordSeen q), .of (execSpillWritePerformed q)] ++ (if v.buf.length < 8 then [.of (execPacketRefill q)] else [])

def Graph.free (g : Nat) (v : Graph) : List Happening :=
  (((List.range v.count).filter fun j => (v.ns[j]?).any (·.lookup)).map fun j => .of (execPewterLookupDone g j)) ++
  [.of (execWaveLevel g), .of (execRearm g)]

def Part.free (p : Nat) (v : Part) : List Happening :=
  (match v.gang with
    | .stopping _ => [.gang (execGangStop p)]
    | _ => []) ++
  v.newt.agents.flatMap (fun a => [.of (execRollbackContinue p a.1), .of (execEventPlace p a.1)]) ++
  (if v.newt.act then (List.range 4).map (fun st => .of (execGvtCut p st)) ++ [.of (execGvtPass p)] else []) ++
  v.newt.commitM.map (fun c => .of (execCommit p c.1)) ++
  v.newt.rings.map (fun r => .of (execRingDelivery p r.1))

/-- R356: the groups that a core's collective intake names. -/
def CoreState.collGroups (c : CoreState) : List Happening :=
  c.net.coll.map fun q => .of (execCollStart (256 * q.ti.part + q.group)) true

/-- What the device may do next, in the order in which the model does it. -/
def State.auto (s : State) : List Happening :=
  (if s.host.clocksStopped then [{ run := execClockRestart, host := true }] else []) ++
  s.slotNums.flatMap s.slotFree ++ s.net.wakes.map (fun w => .of (execWakeupMessage w.1)) ++
  s.cores.flatMap (fun c => c.2.free c.1) ++ s.octets.flatMap (fun o => o.2.free o.1) ++
  s.bias.map (fun b => { run := execBiasFlipDrainComplete b.1, host := true }) ++
  s.disp.queues.flatMap (fun q => q.2.free q.1) ++ (if s.parts.isEmpty then [] else [.of execDispatch]) ++
  s.sk.tokens.map (fun t => .of (execTokenDelivery t.1)) ++ s.sk.done.map (fun t => .of (execNodeCompletion t.1)) ++
  s.sk.graphs.flatMap (fun g => g.2.free g.1) ++ s.pw.inserts.map (fun i => .of (execPewterInsert i.1)) ++
  s.nmsgs.flatMap (fun m => [.of (execEventArrival m.1), .of (execAntiMessageArrival m.1), .of (execHeldMessageRelease m.1)]) ++
  s.parts.flatMap (fun p => p.2.free p.1) ++ s.cores.flatMap (fun c => c.2.collGroups) ++
  s.net.flits.map (fun f => .of (execStreamFlitArrival f.1)) ++ s.net.chunks.map (fun c => .of (execCollChunkArrival c.1)) ++
  s.net.early.map (fun c => .of (execCollChunkArrival c.1)) ++
  s.net.colls.flatMap (fun c => (List.range c.2.members.length).map fun m => .of (execCollComplete c.1 m))

/-! The next core cycle. -/

/-- R32: the reports of free slots that fall at the start of a core cycle. -/
def State.reportFree (s : State) : State :=
  (List.range 4).foldl (init := s) fun s st => match execFreeSlotReport st s with
    | .next t => t
    | _ => s

/-- The next core cycle begins: the logs' records (R377), the barriers of cores at rest (R69), the code lines
that wait for a free slot (R37), the rounds that wait (R332), the flits
of the links (R343), the reports (R32). DCLK pauses while the clocks stand (R393, R394). -/
def State.tick (s : State) : State :=
  if s.paused then s
  else
    let c := s.dclk
    let s := s.flushLogs.modSched fun c => { c with flipHit := false }
    let s := s.coreNums.foldl (fun s k => if s.coreQuiet k then s.reachBarrier k else s) s
    let s := s.coreNums.foldl (fun s k => if (s.core k).wakeQ.isEmpty then s else s.startWakes k) s
    let s := (s.net.ports.map (·.1)).foldl State.linkCycle s
    let s : State := { s with
      dclk := c + 1
      sched := { s.sched with begun := false, turned := [], landed := [] } }
    let s := s.startPending
    if (s : State).dclk % 64 = 0 then s.reportFree else s

/-! One step. -/

/-- The turns of the core cycle begin. -/
def State.begin (s : State) : State := s.modSched fun c => { c with begun := true }

/-- The head that slot `i` issues in its turn; none where the turn is spent otherwise. -/
def State.turnHead (s : State) (i : Nat) : Option Instr :=
  match s.turnBy i fun ins t => .next (t.modSched fun c => { c with agenda := [.happen ins] }) with
  | .next t => if t.sched.agenda = s.sched.agenda then none else match t.sched.agenda with
    | .happen ins :: _ => some ins
    | _ => none
  | _ => none

/-- The step in which slot `i` has its turn; a head that meets a page in a flip waits in STALL (R239). -/
def State.turnStep (s : State) (i : Nat) : Out :=
  let s := s.begin.modSched fun c => { c with inTurn := true, turned := i / 8 :: c.turned }
  match s.turn i with
  | .next t =>
    let t := if t.sched.flipHit then s.stallHead i else t
    .next ((s.keepCycle ((s.takeStep i).record t (some (i, s.turnHead i)) none)).modSched fun c => { c with inTurn := false })
  | r => r

/-- The agenda's next entry. -/
def State.fromAgenda (s : State) (a : Agenda) (rest : List Agenda) : Out :=
  let s := s.modSched fun c => { c with agenda := rest }
  match a with
  | .tick => .next s.tick
  | .happen i => match (happening i).bind s.tryHappen with
    | some t => .next t
    | none => .refused (.notEnabled "AGENDA")

/-- The agenda's next entry is a stop of the clocks, which falls before the turns (R393, R394). -/
def State.stopNext (s : State) : Bool :=
  s.stopPoint && match s.sched.agenda with
    | .happen (.powerOperatingPoint _) :: _ => true
    | .happen (.thermalTrip _) :: _ => true
    | _ => false

/-- R116: the agenda's next entry is a TDRAIN whose draws come before those of the long-vector command that is due, by its sequence number. -/
def State.drainFirst (s : State) : Bool :=
  match s.sched.agenda with
  | .happen (.tdrainComplete k) :: _ =>
    (s.oct (octetOf k)).lvRun.any (fun r => r.cmd.slot / 8 = k && decide (r.until_ ≤ s.dclk) &&
      (s.core k).mat.run.any fun m => m.op.seq < r.cmd.cmd.seq) &&
    (s.tryHappen (.at k (execTdrainComplete k))).isSome
  | _ => false

/-- The agenda, else the model's own order. -/
def State.freeStep (s : State) : Out :=
  match s.sched.agenda with
  | a :: rest => s.fromAgenda a rest
  | [] => match s.firstPossible s.auto with
    | some t => .next t
    | none => .next s.tick

/-- The step in which no slot has a turn, in a core cycle that has begun unless DCLK pauses (R393, R394): the tasks that the turns cancelled, the waiters that they served, what is due in this core cycle, and what the device chooses. -/
def State.restStep (s : State) : Out :=
  let s := if s.paused then s else s.begin
  if !s.sched.stops.isEmpty then .next (s.keepCycle (s.record s.stopLate none none))
  else if !s.sched.serve.isEmpty then .next (s.keepCycle (s.record s.serveLate none none))
  else if s.drainFirst then s.freeStep
  else match s.firstPossible s.late with
    | some t => .next t
    | none => s.freeStep

/-- One step of the module: what falls before the turns of a core cycle, its turns, and the rest of it. -/
def State.stepOnce (s : State) : Out :=
  match if s.sched.begun then none else s.firstPossible s.early with
  | some t => .next t
  | none =>
    if s.stopNext then match s.sched.agenda with
      | a :: rest => s.fromAgenda a rest
      | [] => .next s
    else match s.nextTurn with
      | some i => s.turnStep i
      | none => s.restStep

end Sys2Proof.Machine
end

