-- ==== Sys2Proof/Machine/Step.lean ====
section
/-!
DEFINITION. One step of the module, and the state in which the next step runs a given instruction.
-/

namespace Sys2Proof.Machine

/-- One step: what comes next in the present core cycle, or the beginning of the next one. -/
def step : State → Host.Outcome State Fault Refusal := State.stepOnce

/-- `s` with the instruction of a table word as head 1 of the line that slot 0 of core 0 holds: the turns of a core cycle that is slot 0's
begin, and the slot is READY at level M with no task's data (log 42). Core 0 issues: the clocks run, stack 0 is powered, its octet is
stopped by no gang switch and it replays nothing. -/
def State.withFetchWord (s : State) (nbits w : Nat) : State :=
  let s := s.modHost fun h => { h with clocksStopped := false, standby := false, trip := false }
  let s := if (s.die 0).on then s else s.modDie 0 fun d => { d with on := true }
  let s := if s.octRuns 0 then s else s.modOct 0 fun o => { o with part := none }
  let s := if s.replays 0 then s.modCore 0 fun c => { c with rp := ReplayCore.off } else s
  let s : State := { s with
    dclk := s.dclk / 8 * 8
    sched := { s.sched with begun := true, turned := [] } }
  s.setSlot 0 { Slot.idle (s.slot 0).dutyCode with
    st := .ready, lv := .m, pc := 1, line := some (lineOf (tableEnc nbits w)) }

end Sys2Proof.Machine
end

