-- ==== Sys2Proof/Safety.lean ====
section
/-!
DEFINITION. The terms in which claims speak of the machine: what a head leaves when it has run, what it may change, and the invariants
of a core cycle.
-/

namespace Sys2Proof.Machine

/-! A head that runs to its end. -/

/-- The slot's head completes without a single-step trap (R372). -/
def Slot.unstepped (sl : Slot) : Bool := !sl.steps

/-- The running slot completes heads without a single-step trap, and the port rules let a head with these register fields act (R84,
R85). -/
def State.able (s : State) (srcs dsts : List Reg) : Prop :=
  (s.slot s.cur).unstepped = true ∧ s.portCheck s.cur srcs dsts = .ok

/-- A register field that names no port. -/
def plainReg : Reg → Bool
  | .x _ => true
  | .y n => decide (n.toNat < 28)

/-- R82: a lower slot's write of y`n` has landed in this core cycle, so that slot `i`'s is lost. -/
def State.yTaken (s : State) (i n : Nat) : Bool :=
  match s.sched.landed.find? fun e => e.1 = i / 8 && e.2.1 = n with
  | some (_, _, j) => decide (j < i % 8)
  | none => false

/-- What leaves core `k` by port `p` (0 to 2 for y28 to y30). -/
def State.outletOf (s : State) (k p : Nat) : List OutItem := (s.core k).net.outlet.getD p []

/-- What has arrived at port `p` of core `k`. -/
def State.intakeOf (s : State) (k p : Nat) : List Word := (s.core k).net.intake.getD p []

/-- R80, R82, R85: from `s` to `t`, slot `i` has written `v` to the register that field `d` names: x0 discards it, a y register loses it
to a lower slot's write of the same core cycle, and a port takes it as its newest word. -/
def Wrote (s t : State) (i : Nat) (d : Reg) (v : Word) : Prop :=
  match d with
  | .x n => t.reg i (.x n) = if n = 0 then 0 else v
  | .y n =>
    if n.toNat < 28 then t.reg i (.y n) = if s.yTaken i n.toNat then s.reg i (.y n) else v
    else n.toNat < 31 → t.outletOf (i / 8) (n.toNat - 28) = s.outletOf (i / 8) (n.toNat - 28) ++ [.word v]

/-- The slot of a head that has completed and goes on at `target`, by a taken branch at `via` where it is one (R73); its scalar registers are
`r`'s. -/
def Slot.goneTo (sl : Slot) (target : Word) (r : Regs) (via : Option Word := none) : Slot :=
  { sl with
    st := .ready, pc := target, park := .none, hold := .none, req := .none, found := .none, barAt := .none
    from_ := if fld sl.pc 63 6 = fld target 63 6 then sl.from_ else sl.pc
    via := if fld sl.pc 63 6 = fld target 63 6 then via else .none
    line := if fld sl.pc 63 6 = fld target 63 6 then sl.line else .none
    regs := { sl.regs with x := r.x, sx := r.sx } }

/-- From `s` to `t` nothing differs but slot `i`, the y registers and ports of its core, and the note of the y writes of this core
cycle. -/
structure OnlySlot (s t : State) (i : Nat) : Prop where
  rest : t = { s with slots := t.slots, cores := t.cores, sched := { s.sched with landed := t.sched.landed } }
  slots : ∀ j, j ≠ i → t.slot j = s.slot j
  cores : ∀ k, k ≠ i / 8 → t.core k = s.core k
  core : t.core (i / 8) = { s.core (i / 8) with
    y := (t.core (i / 8)).y
    net := { (s.core (i / 8)).net with
      intake := (t.core (i / 8)).net.intake, outlet := (t.core (i / 8)).net.outlet, outAt := (t.core (i / 8)).net.outAt } }

/-- From `s` to `t` the running slot's head, with register fields `srcs` read and `dsts` written, has completed and goes on at `target`:
every source port has given one word, and nothing else differs but what `dsts` name. `via` is its PC where it is a taken branch. -/
structure Ran (s t : State) (srcs dsts : List Reg) (target : Word) (via : Option Word := none) : Prop where
  only : OnlySlot s t s.cur
  slot : t.slot s.cur = (s.slot s.cur).goneTo target (t.slot s.cur).regs via
  regs : ∀ r : Reg, plainReg r = true → r ∉ dsts → t.reg s.cur r = s.reg s.cur r
  intake : ∀ p, p < 3 → t.intakeOf (s.cur / 8) p =
    if Reg.y (BitVec.ofNat 5 (28 + p)) ∈ srcs then (s.intakeOf (s.cur / 8) p).drop 1 else s.intakeOf (s.cur / 8) p
  outlet : ∀ p, p < 3 → Reg.y (BitVec.ofNat 5 (28 + p)) ∉ dsts → t.outletOf (s.cur / 8) p = s.outletOf (s.cur / 8) p
  outAt : ∀ p, p < 3 → Reg.y (BitVec.ofNat 5 (28 + p)) ∉ dsts →
    (t.core (s.cur / 8)).net.outAt.getD p 0 = (s.core (s.cur / 8)).net.outAt.getD p 0

/-- The instruction completes in one turn with `v` in the register that `d` names, having read `srcs`; nothing else changes. -/
def Yields (i : Instr) (s : State) (srcs : List Reg) (d : Reg) (v : Word) : Prop :=
  ∃ t, exec i s = .next t ∧ Ran s t srcs [d] (s.slot s.cur).npc ∧ Wrote s t s.cur d v

/-- The instruction completes in one turn and the slot goes on at `target`, having read `srcs`; nothing else changes. `via` is its PC where it is a
taken branch. -/
def GoesTo (i : Instr) (s : State) (srcs : List Reg) (target : Word) (via : Option Word := none) : Prop :=
  ∃ t, exec i s = .next t ∧ Ran s t srcs [] target via

/-! The turns of a core cycle (R61). -/

/-- No core has two turns in one core cycle, and none before the cycle's turns begin. -/
def State.turnsOk (s : State) : Prop :=
  s.sched.turned.Nodup ∧ (s.sched.begun = false → s.sched.turned = [])

end Sys2Proof.Machine
end

