-- ==== Sys2Proof/Certificates/Slice0/Obligations.lean ====
section
/-!
DEFINITION. The statements about the machine that are to be proved.
-/

open Sys2Proof Sys2Proof.Machine

/-! Integer instructions (ch. 5). -/

/-- R93, R94: each of the operations 0x10 to 0x27 completes in its turn with its result in the destination. -/
def Obligations.IntegerOperationsYieldTheirResults : Prop :=
  ∀ (s : State) (d a b : Reg), s.able [a, b] [d] →
    let x := s.rv a
    let y := s.rv b
    Yields (.add d a b) s [a, b] d (BitVec.ofNat 64 (x.toNat + y.toNat)) ∧
    Yields (.sub d a b) s [a, b] d (BitVec.ofInt 64 ((x.toNat : Int) - y.toNat)) ∧
    Yields (.mul d a b) s [a, b] d (BitVec.ofNat 64 (x.toNat * y.toNat)) ∧
    Yields (.mulh d a b) s [a, b] d ((x.signExtend 128 * y.signExtend 128).extractLsb' 64 64) ∧
    Yields (.mulhn d a b) s [a, b] d ((x.setWidth 128 * y.setWidth 128).extractLsb' 64 64) ∧
    Yields (.div d a b) s [a, b] d (if y = 0 then allOnes else x.sdiv y) ∧
    Yields (.divn d a b) s [a, b] d (if y = 0 then allOnes else x.udiv y) ∧
    Yields (.rem d a b) s [a, b] d (if y = 0 then x else x.srem y) ∧
    Yields (.remn d a b) s [a, b] d (if y = 0 then x else x.umod y) ∧
    Yields (.and d a b) s [a, b] d (x &&& y) ∧
    Yields (.or d a b) s [a, b] d (x ||| y) ∧
    Yields (.xor d a b) s [a, b] d (x ^^^ y) ∧
    Yields (.andn d a b) s [a, b] d (x &&& ~~~y) ∧
    Yields (.shl d a b) s [a, b] d (x <<< (y.extractLsb' 0 6)) ∧
    Yields (.shra d a b) s [a, b] d (x.sshiftRight' (y.extractLsb' 0 6)) ∧
    Yields (.shrl d a b) s [a, b] d (x >>> (y.extractLsb' 0 6)) ∧
    Yields (.rotl d a b) s [a, b] d (x.rotateLeft (y.extractLsb' 0 6).toNat) ∧
    Yields (.min d a b) s [a, b] d (if x.toInt ≤ y.toInt then x else y) ∧
    Yields (.max d a b) s [a, b] d (if x.toInt ≤ y.toInt then y else x) ∧
    Yields (.minn d a b) s [a, b] d (if x.toNat ≤ y.toNat then x else y) ∧
    Yields (.maxn d a b) s [a, b] d (if x.toNat ≤ y.toNat then y else x) ∧
    Yields (.slt d a b) s [a, b] d (if x.toInt < y.toInt then 1 else 0) ∧
    Yields (.sltn d a b) s [a, b] d (if x.toNat < y.toNat then 1 else 0) ∧
    Yields (.seq d a b) s [a, b] d (if x = y then 1 else 0)

/-- R95, R96, R97: the operations with an immediate complete in their turn with their results. -/
def Obligations.ImmediateOperationsYieldTheirResults : Prop :=
  ∀ (s : State) (d a : Reg) (imm : BitVec 10) (sh : BitVec 6) (big : BitVec 26) (off : BitVec 11) (hd : BitVec 5),
    let x := s.rv a
    (s.able [a] [d] →
      Yields (.addi d a imm) s [a] d (x + imm.signExtend 64) ∧
      Yields (.andi d a imm) s [a] d (x &&& imm.signExtend 64) ∧
      Yields (.ori d a imm) s [a] d (x ||| imm.signExtend 64) ∧
      Yields (.xori d a imm) s [a] d (x ^^^ imm.signExtend 64) ∧
      Yields (.shli d a sh) s [a] d (x <<< sh) ∧
      Yields (.shrai d a sh) s [a] d (x.sshiftRight' sh) ∧
      Yields (.shrli d a sh) s [a] d (x >>> sh) ∧
      Yields (.slti d a imm) s [a] d (if x.toInt < imm.toInt then 1 else 0) ∧
      Yields (.lih d a big) s [a] d ((x <<< 26) ||| big.setWidth 64)) ∧
    (s.able [] [d] →
      Yields (.li d big) s [] d (BitVec.ofInt 64 big.toInt) ∧
      Yields (.addpc d off hd) s [] d
        ((((s.slot s.cur).pc >>> 6) + off.signExtend 64) <<< 6 ||| hd.setWidth 64))

namespace Sys2Proof.Machine

/-- R98: the leading zero bits of a word: `n` of them. -/
def LeadingZeros (x : Word) (n : Nat) : Prop :=
  n ≤ 64 ∧ (∀ k, 64 ≤ k + n → k < 64 → x.getLsbD k = false) ∧ (n < 64 → x.getLsbD (63 - n) = true)

/-- R98: the trailing zero bits of a word: `n` of them. -/
def TrailingZeros (x : Word) (n : Nat) : Prop :=
  n ≤ 64 ∧ (∀ k, k < n → x.getLsbD k = false) ∧ (n < 64 → x.getLsbD n = true)

/-- R98, R99, R100: counting, extension, selection and bit fields complete in their turn with their results. -/
def CountsAndFieldsYieldTheirResults : Prop :=
  ∀ (s : State) (d a b c : Reg) (sz : Size) (wm1 lo : BitVec 6),
    let x := s.rv a
    (s.able [a] [d] →
      (∃ n, LeadingZeros x n ∧ Yields (.clz d a) s [a] d (BitVec.ofNat 64 n)) ∧
      (∃ n, TrailingZeros x n ∧ Yields (.ctz d a) s [a] d (BitVec.ofNat 64 n)) ∧
      Yields (.popc d a) s [a] d (BitVec.ofNat 64 ((List.range 64).countP fun k => x.getLsbD k)) ∧
      (∃ v : Word, Yields (.exts d a sz) s [a] d v ∧
        ∀ k, k < 64 → v.getLsbD k = x.getLsbD (min k (8 * sizeBytes sz - 1))) ∧
      (∃ v : Word, Yields (.extz d a sz) s [a] d v ∧
        ∀ k, k < 64 → v.getLsbD k = (decide (k < 8 * sizeBytes sz) && x.getLsbD k)) ∧
      (lo.toNat + wm1.toNat < 64 →
        (∃ v : Word, Yields (.bfx d a wm1 lo false) s [a] d v ∧
          ∀ k, k < 64 → v.getLsbD k = (decide (k ≤ wm1.toNat) && x.getLsbD (lo.toNat + k))) ∧
        (∃ v : Word, Yields (.bfx d a wm1 lo true) s [a] d v ∧
          ∀ k, k < 64 → v.getLsbD k = x.getLsbD (lo.toNat + min k wm1.toNat)))) ∧
    (s.able [a, b] [d] → lo.toNat + wm1.toNat < 64 →
      ∃ v : Word, Yields (.bfi d a b wm1 lo) s [a, b] d v ∧
        ∀ k, k < 64 → v.getLsbD k = if lo.toNat ≤ k ∧ k ≤ lo.toNat + wm1.toNat then x.getLsbD (k - lo.toNat) else (s.rv b).getLsbD k) ∧
    (s.able [a, b, c] [d] →
      Yields (.sel d a b c) s [a, b, c] d (if s.rv c ≠ 0 then x else s.rv b))

/-- R102: MLOG and MSET change only the mask register they name, and MGET reads one. -/
def MaskInstructions : Prop :=
  ∀ (s : State) (a : Reg) (md ma mb : BitVec 3) (op : LogOp),
    (s.able [] [] → ∃ t, exec (.mlog md ma mb op) s = .next t ∧
      Ran (s.setMreg s.cur md (match op with
        | .and => s.mreg s.cur ma &&& s.mreg s.cur mb
        | .or => s.mreg s.cur ma ||| s.mreg s.cur mb
        | .xor => s.mreg s.cur ma ^^^ s.mreg s.cur mb
        | .andn => s.mreg s.cur ma &&& ~~~s.mreg s.cur mb
        | .not => ~~~s.mreg s.cur ma)) t [] [] (s.slot s.cur).npc) ∧
    (s.able [a] [] → ∃ t, exec (.mset md a) s = .next t ∧
      Ran (s.setMreg s.cur md ((s.rv a).setWidth 16)) t [a] [] (s.slot s.cur).npc) ∧
    (s.able [] [a] → Yields (.mget md a) s [] a ((s.mreg s.cur md).setWidth 64))

end Sys2Proof.Machine

/-- R98, R99, R100: counting, extension, selection and bit fields complete in their turn with their results. R102: MLOG and MSET change only
the mask register they name, and MGET reads one. -/
def Obligations.CountsFieldsAndMasks : Prop :=
  CountsAndFieldsYieldTheirResults ∧ MaskInstructions

namespace Sys2Proof.Machine

/-! Taking a trap and returning from one (ch. 19, R76). -/

/-- R367: the trap record that slot `i` holds after the trap `t`, taken in state `s`. -/
structure Recorded (s : State) (i : Nat) (t : Trap) (dbl dlg : Bool) (r : Vector Word 8) : Prop where
  task : fld (r.getD 0 0) 63 32 = fld t.task 31 0
  zero : fld (r.getD 0 0) 31 16 = 0
  slot : fld (r.getD 0 0) 15 13 = i % 8
  flags : (r.getD 0 0).getLsbD 12 = dbl ∧ (r.getD 0 0).getLsbD 11 = t.late ∧ (r.getD 0 0).getLsbD 10 = dlg
  level : fld (r.getD 0 0) 9 8 = (s.slot i).lv.num
  code : fld (r.getD 0 0) 7 0 = t.code.num
  rest : r.getD 1 0 = t.pc ∧ r.getD 2 0 = t.addr ∧ r.getD 3 0 = BitVec.ofNat 64 t.seq ∧ r.getD 4 0 = t.ops ∧ r.getD 5 0 = t.epc ∧
    r.getD 6 0 = BitVec.ofNat 64 s.dclk
  place : fld (r.getD 7 0) 15 0 = i % 65536 ∧ fld (r.getD 7 0) 19 16 = (s.slot i).task.part % 16 ∧ fld (r.getD 7 0) 63 20 = 0

/-- The slot that enters a handler at `pc`, at level `lv`, with the record `r`. -/
def Slot.entered (sl : Slot) (r : Vector Word 8) (pc epc : Word) (est : BitVec 4) (lv : Level) : Slot :=
  { sl with
    trap := r, st := .ready, lv := lv, pc := pc, line := .none, from_ := sl.pc, via := .none, park := .none, hold := .none, req := .none
    found := .none, look := .none, barAt := .none, ctl := { sl.ctl with epc := epc, est := est } }

/-- R368: a trap that is delivered and is delegated by TDELEG enters the task's own handler; any other below M enters the supervisor's where
there is one. Nothing else changes: not the registers, not memory, not another slot. -/
def TrapEntersItsHandler : Prop :=
  ∀ (s : State) (i : Nat) (t : Trap), t.code ≠ .purity → (s.slot i).inh = false → (s.slot i).lv ≠ .m →
    let sl := s.slot i
    let toUser : Prop := sl.lv = .u ∧ (s.tdelegOf i).getLsbD t.code.num = true ∧ sl.ctl.utvec ≠ 0
    (toUser → ∃ r, Recorded s i t false true r ∧
      s.takeTrap i t = s.setSlot i (sl.entered r sl.ctl.utvec t.epc 0b1100 .u)) ∧
    (¬ toUser → s.tvecOf i ≠ 0 → ∃ r, Recorded s i t false false r ∧
      s.takeTrap i t = s.setSlot i (sl.entered r (s.tvecOf i) t.epc (if sl.lv = .u then 0b0100 else 0b0101) .s))

/-- R416: a trap taken at M is delivered to the management controller: the slot issues nothing until the controller acts. -/
def TrapAtMGoesToTheController : Prop :=
  ∀ (s : State) (i : Nat) (t : Trap), t.code ≠ .purity → (s.slot i).inh = false → (s.slot i).lv = .m →
    ∃ r, Recorded s i t false false r ∧
      s.takeTrap i t = s.setSlot i { (s.slot i).entered r t.epc t.epc 0b0110 .m with st := .stall, hold := .mgmt }

/-- R368: a trap inside a trap handler, and one with no handler, make the task fault out with the code; only the first sets DBL. The task
goes to DRAIN with its registers, and memory keeps its bytes. -/
def TrapWithoutHandlerFaultsOut : Prop :=
  ∀ (s : State) (i : Nat) (t : Trap), t.code ≠ .purity →
    ((s.slot i).inh = true ∨ ((s.slot i).lv ≠ .m ∧ s.tvecOf i = 0 ∧
      ¬ ((s.slot i).lv = .u ∧ (s.tdelegOf i).getLsbD t.code.num = true ∧ (s.slot i).ctl.utvec ≠ 0))) →
    let u := s.takeTrap i t
    (u.slot i).st = .drain ∧ (u.slot i).exit = .fault t.code ∧ Recorded s i t (s.slot i).inh false (u.slot i).trap ∧
    (u.slot i).regs = (s.slot i).regs ∧ (u.slot i).ctl = (s.slot i).ctl ∧ (u.slot i).lv = (s.slot i).lv ∧ u.mm = s.mm

/-- R76: ERET in a trap handler goes on at EPC, at the level that EST holds, with INH and DLG clear; nothing else changes. -/
def EretReturns : Prop :=
  ∀ s : State, (s.slot s.cur).inh = true → (s.slot s.cur).st = .ready → (s.slot s.cur).hold = .none →
    ∃ lv : Level, lv.num = min 2 (fld (s.slot s.cur).ctl.est 1 0) ∧
      exec .eret s = .next (s.setSlot s.cur { s.slot s.cur with
        pc := (s.slot s.cur).ctl.epc, line := .none, from_ := (s.slot s.cur).pc, via := .none, lv := lv
        ctl := { (s.slot s.cur).ctl with est := (s.slot s.cur).ctl.est &&& 0b0011 } })

/-- R76, R60: ERET with no handler to return from takes PRIVILEGE, before any effect. -/
def EretOutsideAHandlerTraps : Prop :=
  ∀ s : State, (s.slot s.cur).inh = false →
    exec .eret s = .next (s.takeTrap s.cur
      { code := .privilege, pc := (s.slot s.cur).pc, epc := (s.slot s.cur).pc, task := (s.slot s.cur).task.task })

/-- R76: TRAP takes TRAP_INSN with its operand in the record, so that ERET goes on at the next head. -/
def TrapInstruction : Prop :=
  ∀ (s : State) (imm : BitVec 10),
    exec (.trap imm) s = .next (s.takeTrap s.cur
      { code := .trapInsn, pc := (s.slot s.cur).pc, ops := BitVec.ofNat 64 imm.toNat, epc := (s.slot s.cur).npc
        task := (s.slot s.cur).task.task })

/-- R76, R63: HALT ends the task: the slot goes to DRAIN; a trap handler's task faults out with the trap's code. The other slots, the
registers and memory keep what they hold. -/
def HaltEndsTheTask : Prop :=
  ∀ s : State, ∃ t, exec .halt s = .next t ∧ (t.slot s.cur).st = .drain ∧
    ((s.slot s.cur).inh = false → (t.slot s.cur).exit = .halt) ∧
    (∀ c : TrapCode, (s.slot s.cur).inh = true → fld ((s.slot s.cur).trap.getD 0 0) 7 0 = c.num →
      (t.slot s.cur).exit = .fault c) ∧
    (t.slot s.cur).regs = (s.slot s.cur).regs ∧ (t.slot s.cur).cnt = (s.slot s.cur).cnt ∧ t.mm = s.mm ∧
    ∀ j, j ≠ s.cur → (t.slot j).st = (s.slot j).st ∧ (t.slot j).regs = (s.slot j).regs ∧ (t.slot j).pc = (s.slot j).pc

end Sys2Proof.Machine

/-- R76: ERET in a trap handler goes on at EPC, at the level that EST holds, with INH and DLG clear; nothing else changes. R76, R60: ERET
with no handler to return from takes PRIVILEGE, before any effect. R76: TRAP takes TRAP_INSN with its operand in the record, so that ERET
goes on at the next head. R76, R63: HALT ends the task: the slot goes to DRAIN; a trap handler's task faults out with the trap's code. The
other slots, the registers and memory keep what they hold. -/
def Obligations.TrapHaltAndEret : Prop :=
  EretReturns ∧ EretOutsideAHandlerTraps ∧ TrapInstruction ∧ HaltEndsTheTask

namespace Sys2Proof.Machine

/-- R416: the controller resumes the slot at EPC or at the PC it names, or ends the task with the trap's code. -/
def ManagementController : Prop :=
  ∀ (s : State) (k n : Nat) (pc : Option Word), (s.slot (8 * k + n)).st = .stall → (s.slot (8 * k + n)).hold = .mgmt →
    let i := 8 * k + n
    let sl := s.slot i
    let target := pc.getD sl.ctl.epc
    (∃ (t : State) (lv : Level), exec (.mgmtTrapResume k n pc) s = .next t ∧ lv.num = min 2 (fld sl.ctl.est 1 0) ∧
      t.slot i = { sl with
        st := .ready, hold := .none, pc := target, line := .none, from_ := sl.pc, via := .none, lv := lv
        ctl := { sl.ctl with epc := target, est := sl.ctl.est &&& 0b0011 } } ∧
      (∀ j, j ≠ i → t.slot j = s.slot j) ∧ t.mm = s.mm) ∧
    (∀ c : TrapCode, fld (sl.trap.getD 0 0) 7 0 = c.num → ∃ t, exec (.mgmtTrapEnd k n) s = .next t ∧
      (t.slot i).st = .drain ∧ (t.slot i).exit = .fault c ∧ (t.slot i).regs = sl.regs ∧ t.mm = s.mm)

end Sys2Proof.Machine

/-- R368: a trap that is delivered and is delegated by TDELEG enters the task's own handler; any other below M enters the supervisor's where
there is one. Nothing else changes: not the registers, not memory, not another slot. R416: a trap taken at M is delivered to the management
controller: the slot issues nothing until the controller acts. R368: a trap inside a trap handler, and one with no handler, make the task
fault out with the code; only the first sets DBL. The task goes to DRAIN with its registers, and memory keeps its bytes. R416: the
controller resumes the slot at EPC or at the PC it names, or ends the task with the trap's code. -/
def Obligations.TrapsEnterTheirHandlers : Prop :=
  TrapEntersItsHandler ∧ TrapAtMGoesToTheController ∧ TrapWithoutHandlerFaultsOut ∧ ManagementController

namespace Sys2Proof.Machine

/-! Control flow, parking and the issue table (ch. 4). -/

/-- R44: the target that a branch at `pc` names. -/
def targetOf (pc : Word) (off : BitVec 11) (hd : BitVec 5) : Word :=
  BitVec.ofNat 64 (((pc.toNat / 64 + (off.signExtend 58).toNat) % 2 ^ 58) * 64 + hd.toNat)

/-- R71: the branch conditions. -/
def Taken (c : Cond) (x y : Word) : Prop :=
  match c with
  | .eq => x = y
  | .ne => x ≠ y
  | .lt => x.toInt < y.toInt
  | .ge => y.toInt ≤ x.toInt
  | .gt => y.toInt < x.toInt
  | .le => x.toInt ≤ y.toInt
  | .ltn => x.toNat < y.toNat
  | .gen => y.toNat ≤ x.toNat
  | .gtn => y.toNat < x.toNat
  | .len => x.toNat ≤ y.toNat

/-- R72 to R75: NOP, the branches, the jumps and LOOP go on where their rules say, write what they say and change nothing else. A target in the
branch's own line keeps the branch's PC for the record of a fault met there (R73; JX, JLX and LOOP by log 61). -/
def BranchesGoWhereTheirRulesSay : Prop :=
  ∀ (s : State) (d a b : Reg) (off : BitVec 11) (hd : BitVec 5) (c : Cond),
    let next := (s.slot s.cur).npc
    let target := targetOf (s.slot s.cur).pc off hd
    let via := some (s.slot s.cur).pc
    (s.able [] [] → GoesTo .nop s [] next ∧ GoesTo (.b off hd) s [] target via) ∧
    (s.able [] [d] → ∃ t, exec (.bl d off hd) s = .next t ∧ Ran s t [] [d] target via ∧ Wrote s t s.cur d next) ∧
    (s.able [a, b] [] →
      (Taken c (s.rv a) (s.rv b) → GoesTo (.bc a b off hd c) s [a, b] target via) ∧
      (¬ Taken c (s.rv a) (s.rv b) → GoesTo (.bc a b off hd c) s [a, b] next)) ∧
    (s.able [a] [] →
      (Taken c (s.rv a) 0 → GoesTo (.bcz a off hd c) s [a] target via) ∧
      (¬ Taken c (s.rv a) 0 → GoesTo (.bcz a off hd c) s [a] next) ∧
      GoesTo (.jx a) s [a] (s.rv a) via) ∧
    (s.able [a] [d] → ∃ t, exec (.jlx d a) s = .next t ∧ Ran s t [a] [d] (s.rv a) via ∧ Wrote s t s.cur d next) ∧
    (s.able [] [] → plainReg a = true → a ≠ .x 0 → ∃ t, exec (.loop a off hd) s = .next t ∧
      Ran s t [] [a] (if s.rv a = 1 then next else target) (if s.rv a = 1 then none else via) ∧ Wrote s t s.cur a (s.rv a - 1))

/-- R43: the next head of a line, or head 1 of the next line. -/
def NextHead : Prop :=
  ∀ (pc : Word) (h : Nat), 1 ≤ fld pc 5 0 → fld pc 5 0 ≤ h → h ≤ 31 →
    (fld pc 5 0 < h → (nextPc pc h).toNat = pc.toNat + 1) ∧
    (fld pc 5 0 = h → (nextPc pc h).toNat = ((pc.toNat / 64 + 1) % 2 ^ 58) * 64 + 1)

end Sys2Proof.Machine

/-- R43: the next head of a line, or head 1 of the next line. R72 to R75: NOP, the branches, the jumps and LOOP go on where their rules say,
write what they say and change nothing else; a target in the branch's own line keeps the branch's PC for the record of a fault met there (R73;
for JX, JLX and LOOP that is log 61's choice). -/
def Obligations.HeadsGoOnAndBranch : Prop :=
  NextHead ∧ BranchesGoWhereTheirRulesSay

namespace Sys2Proof.Machine

/-- R77: PARK goes on when WP is set, and clears it; else the slot parks. -/
def ParkWaitsForItsWake : Prop :=
  ∀ s : State, s.able [] [] →
    ((s.slot s.cur).wp = true → ∃ t, exec .park s = .next t ∧
      Ran (s.modSlot s.cur fun sl => { sl with wp := false }) t [] [] (s.slot s.cur).npc) ∧
    ((s.slot s.cur).wp = false → exec .park s = .next (s.modSlot s.cur fun sl => { sl with
      st := .parked, park := .park, parkedAt := s.dclk, feLimit := sl.ctl.fewait }))

/-- R77: WAKE sets WP of a slot of its core, or lets a slot that PARK parked go on; a number above 7, and a slot that is IDLE, in DRAIN or
STOPPED, give 6. -/
def WakeWakes : Prop :=
  ∀ (s : State) (d a : Reg), s.able [a] [d] → (s.slot s.cur).st = .ready →
    let j := 8 * (s.cur / 8) + fld (s.rv a) 2 0
    let off := fld (s.rv a) 63 3 ≠ 0 ∨ (s.slot j).st = .idle ∨ (s.slot j).st = .drain ∨ (s.slot j).st = .stopped
    (off → Yields (.wake d a) s [a] d 6) ∧
    (¬ off → ¬ ((s.slot j).st = .parked ∧ (s.slot j).park = .park) → ∃ t, exec (.wake d a) s = .next t ∧
      Ran (s.modSlot j fun sl => { sl with wp := true }) t [a] [d] (s.slot s.cur).npc ∧ Wrote s t s.cur d 0) ∧
    (¬ off → (s.slot j).st = .parked → (s.slot j).park = .park → (s.slot j).unstepped = true →
      ∃ t, exec (.wake d a) s = .next t ∧
        Ran (s.setSlot j ((s.slot j).goneTo (s.slot j).npc (s.slot j).regs)) t [a] [d] (s.slot s.cur).npc ∧ Wrote s t s.cur d 0)

/-- R78: an entry of the issue table that ISSUESET refuses: its no-grant bit with a slot other than 0. -/
def badEntry (e : Byte) : Bool := (e.getLsbD 7 && fld e 6 4 ≠ 0) || (e.getLsbD 3 && fld e 2 0 ≠ 0)

/-- R78, R67, R69: ISSUESET writes eight entries of the pending image, or refuses them all; ISSUEGET reads eight, of the active image where
no ISSUESET has come since the last activation; the pending image takes effect at the frame boundary after the core's barrier, which fixes it
(log 71: an ISSUESET after the barrier is for the next one, and the activation ends it too for what ISSUEGET reads). -/
def IssueTable : Prop :=
  ∀ (s : State) (d a : Reg) (w : BitVec 2) (k : Nat),
    let c := s.core (s.cur / 8)
    let entry (j : Nat) : Byte := (s.rv a).extractLsb' (8 * j) 8
    (s.able [a] [d] → (s.slot s.cur).lv ≠ .u →
      ((∃ j, j < 8 ∧ badEntry (entry j) = true) → Yields (.issueset d a w) s [a] d 6) ∧
      ((∀ j, j < 8 → badEntry (entry j) = false) → ∃ (t : State) (tbl : Vector Byte 32), exec (.issueset d a w) s = .next t ∧
        (∀ e, e < 32 → tbl.getD e 0 = if e / 8 = w.toNat then entry (e % 8) else (if c.pendOn then c.tblP else c.tblA).getD e 0) ∧
        Ran (s.modCore (s.cur / 8) fun c => { c with tblP := tbl, pendOn := true, wantTbl := true }) t [a] [d] (s.slot s.cur).npc ∧
        Wrote s t s.cur d 0)) ∧
    (s.able [] [d] → ∃ v : Word, Yields (.issueget d true w) s [] d v ∧
      ∀ j, j < 8 → v.extractLsb' (8 * j) 8 = (if c.pendOn then c.tblP else c.tblA).getD (8 * w.toNat + j) 0) ∧
    (s.able [] [d] → c.ahEff = false → ∃ v : Word, Yields (.issueget d false w) s [] d v ∧
      ∀ j, j < 8 → v.extractLsb' (8 * j) 8 = c.tblA.getD (8 * w.toNat + j) 0) ∧
    (∀ img ah, (s.core k).barrier = some (img, ah) → s.dclk % 32 = 0 → s.sched.begun = false →
      exec (.issueTableActivate k) s = .next (s.setCore k { s.core k with
        tblA := img, pendOn := false, ahEff := ah, barrier := none })) ∧
    (∀ c' : CoreState, (s.core k).wantTbl = true → c' = (s.reachBarrier k).core k →
      c'.barrier = some ((s.core k).tblP, (s.core k).ah) ∧ c'.wantTbl = false)

end Sys2Proof.Machine

/-- R77: PARK goes on when WP is set, and clears it; else the slot parks. R77: WAKE sets WP of a slot of its core, or lets a slot that PARK
parked go on; a number above 7, and a slot that is IDLE, in DRAIN or STOPPED, give 6. R78, R67, R69: ISSUESET writes eight entries of the
pending image, or refuses them all; ISSUEGET reads eight, of the active image where no ISSUESET has come since the last
activation; the pending image takes effect at the frame boundary after the core's barrier, which fixes it (log 71). -/
def Obligations.ParkWakeAndIssueTable : Prop :=
  ParkWaitsForItsWake ∧ WakeWakes ∧ IssueTable

/-- R33, R60: an instruction marked S takes PRIVILEGE at level U, before any effect. -/
def Obligations.SupervisorInstructionsTrapAtU : Prop :=
  ∀ (s : State) (d a b : Reg) (w : BitVec 2) (sc : InvScope) (h : Bool), (s.slot s.cur).lv = .u →
    let trapped : State := s.takeTrap s.cur
      { code := .privilege, pc := (s.slot s.cur).pc, epc := (s.slot s.cur).pc, task := (s.slot s.cur).task.task }
    exec (.issueset d a w) s = .next trapped ∧ exec (.pinw d a) s = .next trapped ∧ exec (.tlbinv a b sc) s = .next trapped ∧
    exec (.vtwin d a) s = .next trapped ∧ exec (.gangsw d a b) s = .next trapped ∧ exec (.rplog d a) s = .next trapped ∧
    exec (.biasf d a h) s = .next trapped

namespace Sys2Proof.Machine

/-! Control registers (R87 to R90, R101). -/

/-- R87, R90: a task of this slot may GETC register `n`, at its level and in its mode. -/
def MayGetc (sl : Slot) (n : BitVec 10) : Prop :=
  (sl.lv = .u → n.toNat ∉ [0x022, 0x023, 0x047] ∧ (n = 0x020 → sl.ctl.est.getLsbD 3 = true)) ∧
  (sl.task.pure = true → n.toNat ∉ [0x00A, 0x00B, 0x01A])

/-- R87, R90: a task of this slot may SETC register `n`, at its level and in its mode. -/
def MaySetc (sl : Slot) (n : BitVec 10) : Prop :=
  (sl.lv = .u → n.toNat ∉ [0x007, 0x022, 0x023, 0x04B, 0x04C] ∧ (n = 0x020 → sl.ctl.est.getLsbD 3 = true)) ∧
  (sl.lv ≠ .m → n ≠ 0x047) ∧ (sl.task.pure = true → n ≠ 0x00B)

/-- R87: what GETC reads of the slot, its task, its core and its partition, by the register's number; BLK reads 0 in a slot that runs (R89). -/
def GetcReadsTheRegister : Prop :=
  ∀ (s : State) (d : Reg) (n : BitVec 10), s.able [] [d] → MayGetc (s.slot s.cur) n →
    let i := s.cur
    let sl := s.slot i
    let c := s.core (i / 8)
    ∃ v : Word, Yields (.getc d n) s [] d v ∧
      (n = 0x000 → v = BitVec.ofNat 64 i) ∧ (n = 0x001 → v = sl.task.task) ∧ (n = 0x002 → v = sl.task.ntask) ∧
      (n = 0x003 → v = BitVec.ofNat 64 (sl.task.part % 16)) ∧ (n = 0x004 → v = sl.task.tenant.setWidth 64) ∧
      (n = 0x005 → v = BitVec.ofNat 64 sl.lv.num) ∧ (n = 0x006 → v = sl.task.grp) ∧
      (n = 0x007 → (∀ j, j < 6 → fld v (2 * j + 1) (2 * j) = (c.duties.getD j 0).toNat) ∧ v.getLsbD 16 = c.ah) ∧
      (n = 0x008 → sl.st = .ready → v = 0) ∧ (n = 0x009 → v = sl.ctl.fewait) ∧ (n = 0x00A → v = BitVec.ofNat 64 s.dclk) ∧ (n = 0x00B → v = c.rseed.setWidth 64) ∧
      (n = 0x00C → v = if sl.vbusy = 0 then 0 else 1) ∧ (n = 0x00D → v = sl.ctl.nancnt.setWidth 64) ∧
      (n = 0x010 → v = sl.task.kfa.setWidth 64) ∧ (n = 0x011 → v = sl.task.kfb.setWidth 64) ∧
      (n = 0x012 → v = sl.task.kfo.setWidth 64) ∧ (n = 0x013 → v = sl.task.ksa) ∧ (n = 0x014 → v = sl.task.ksb) ∧
      (n = 0x018 → sl.task.evt = none → v = allOnes) ∧ (n = 0x019 → sl.task.evt = none → v = allOnes) ∧
      (n = 0x01A → sl.task.evt = none → v = allOnes) ∧
      (∀ e, s.openEvent i = some e → (n = 0x018 → v = e.msg.ts) ∧ (n = 0x019 → v = BitVec.ofNat 64 sl.task.agent) ∧
        (n = 0x01A → ∀ g, s.agent? sl.task.part sl.task.agent = some g → v = g.lvt)) ∧
      (∀ p, s.part? sl.task.part = some p →
        (n = 0x01B → v = p.newt.gvt) ∧ (n = 0x022 → v = (p.ctlAt s.dclk).2.1) ∧ (n = 0x023 → v = (p.ctlAt s.dclk).2.2) ∧
        (n = 0x047 → v = (p.ctlAt s.dclk).1) ∧
        (n = 0x048 → p.newt.cap < 2 ^ 25 → p.newt.next < 2 ^ 25 → fld v 56 32 = p.newt.cap ∧ fld v 24 0 = p.newt.next ∧
          fld v 63 57 = 0 ∧ fld v 31 25 = 0) ∧
        (n = 0x049 → fld v 63 32 = p.newt.round.toNat ∧ v.getLsbD 25 = decide (p.newt.w < p.newt.w0) ∧
          v.getLsbD 24 = !p.newt.pwait.isEmpty ∧ v.getLsbD 16 = p.newt.pend ∧ v.getLsbD 15 = p.newt.act ∧
          v.getLsbD 14 = (look p.newt.ps (stackOf (i / 8)) NewtPS.zero).colour ∧ fld v 31 26 = 0 ∧ fld v 23 17 = 0 ∧ fld v 13 7 = 0 ∧
          (0 < p.newt.pool → p.newt.used < p.newt.pool → fld v 6 0 = p.newt.used * 128 / p.newt.pool)) ∧
        (n = 0x04A → v = p.newt.w)) ∧
      (n = 0x04B → v.getLsbD 63 = (s.slot (8 * (i / 8) + 7)).live ∧ (c.net.cpc.toNat < 2 ^ 63 → fld v 62 0 = c.net.cpc.toNat)) ∧
      (n = 0x020 → v = sl.ctl.epc) ∧ (n = 0x021 → v = sl.ctl.est.setWidth 64) ∧ (n = 0x040 → v = sl.task.dtuse.setWidth 64) ∧
      (n = 0x041 → v = sl.ctl.vctl.setWidth 64) ∧ (n = 0x042 → v = c.brole) ∧ (n = 0x043 → v = sl.ctl.uictl.setWidth 64) ∧
      (n = 0x044 → v = sl.ctl.uivec) ∧ (n = 0x045 → v = sl.ctl.uipc) ∧
      (n = 0x046 → sl.mbox.length < 256 → fld v 7 0 = sl.mbox.length) ∧
      (n = 0x04C → v = if sl.ctl.dbgSs then 1 else 0) ∧ (n = 0x04D → v = sl.ctl.utvec) ∧ (n = 0x04E → v = sl.ctl.dlcnt.setWidth 64)

/-- R65, R66: what a write of DUTY by a slot of core `k` leaves: the codes and AH as written, AH in effect as before; a code is in effect at
once on a slot that holds no task. -/
def DutyWritten (s t : State) (k : Nat) (v : Word) : Prop :=
  (∀ j, j < 6 → ((t.core k).duties.getD j 0).toNat = fld v (2 * j + 1) (2 * j)) ∧ (t.core k).ah = v.getLsbD 16 ∧
  (t.core k).ahEff = (s.core k).ahEff ∧
  ∀ j, j < 6 → (t.slot (8 * k + j)).dutyCode =
    if (s.slot (8 * k + j)).live then (s.slot (8 * k + j)).dutyCode else BitVec.ofNat 2 (fld v (2 * j + 1) (2 * j))

/-- R65, R66: from `s` to `t` nothing differs but core `k`'s duties and AH, and the duty codes of its slots. -/
def OnlyDuty (s t : State) (k : Nat) : Prop :=
  t = { s with slots := t.slots, cores := t.cores } ∧ (∀ j, t.slot j = { s.slot j with dutyCode := (t.slot j).dutyCode }) ∧
  (∀ j, j / 8 ≠ k → t.slot j = s.slot j) ∧ (∀ j, j ≠ k → t.core j = s.core j) ∧
  t.core k = { s.core k with duties := (t.core k).duties, ah := (t.core k).ah }

/-- R352: what a write of CPC leaves: the communication slot starts at the PC written, at level U, in the writer's partition and tenant; or
the write is ignored while that slot holds a task. -/
def CpcWritten (s t : State) (i : Nat) (v : Word) : Prop :=
  let c := 8 * (i / 8) + 7
  if (s.slot c).live then t.slot c = s.slot c ∧ (t.core (i / 8)).net.cpc = (s.core (i / 8)).net.cpc
  else (t.slot c).st = .ready ∧ (t.slot c).pc = v &&& 0x7FFFFFFFFFFFFFFF ∧ (t.slot c).lv = .u ∧
    (t.slot c).task.part = (s.slot i).task.part ∧ (t.slot c).task.tenant = (s.slot i).task.tenant ∧ (t.slot c).task.task = 0 ∧
    (t.slot c).task.ntask = 1 ∧ (∀ r, (t.slot c).readX r = 0) ∧ (t.core (i / 8)).net.cpc = v &&& 0x7FFFFFFFFFFFFFFF

/-- R101: SETC gives the old value to its destination and changes the RW fields of the register it names, and no other; a write of a
register that is only read changes nothing. A write of DUTY or CPC does what R65, R66 and R352 say. -/
def SetcWritesTheRegister : Prop :=
  ∀ (s : State) (d a : Reg) (n : BitVec 10), s.able [a] [d] → MaySetc (s.slot s.cur) n →
    let i := s.cur
    let v := s.rv a
    let ctl (f : Ctl → Ctl) : State := s.modSlot i fun sl => { sl with ctl := f sl.ctl }
    let part (f : Machine.Part → Machine.Part) : State :=
      s.modPart (s.slot i).task.part fun p => { f p with ctlOld := some (s.dclk, p.ctlAt s.dclk) }
    let core (f : CoreState → CoreState) : State := s.modCore (i / 8) f
    let becomes (base : State) : Prop :=
      ∃ t, exec (.setc d a n) s = .next t ∧ Ran base t [a] [d] (s.slot i).npc ∧ Wrote s t i d (s.readCr i n)
    (n = 0x009 → becomes (ctl fun c => { c with fewait := v })) ∧
    (n = 0x00B → becomes (core fun c => { c with rseed := v.setWidth 32, seedOld := some (s.dclk, c.rseed) })) ∧
    (n = 0x00D → becomes (ctl fun c => { c with nancnt := v.setWidth 32 })) ∧
    (n = 0x020 → becomes (ctl fun c => { c with epc := v })) ∧
    (n = 0x022 → becomes (part fun p => { p with tvec := v })) ∧
    (n = 0x023 → becomes (part fun p => { p with tdeleg := v &&& 0x7FFFE })) ∧
    (n = 0x041 → becomes (ctl fun c => { c with vctl := (v.setWidth 16 &&& 0xEE00) ||| (c.vctl &&& 1) })) ∧
    (n = 0x045 → becomes (ctl fun c => { c with uipc := v })) ∧
    (n = 0x047 → becomes (part fun p => { p with ptbase := v &&& 0x00FFFFFFFFFF0000 })) ∧
    (n = 0x04C → v.getLsbD 0 = false ∨ (s.slot i).inh = true → becomes (ctl fun c => { c with dbgSs := v.getLsbD 0 })) ∧
    (n = 0x04D → becomes (ctl fun c => { c with utvec := v })) ∧
    (n.toNat ∈ [0x000, 0x001, 0x002, 0x003, 0x004, 0x005, 0x006, 0x008, 0x00A, 0x00C, 0x010, 0x011, 0x012, 0x013, 0x014, 0x018,
      0x019, 0x01A, 0x01B, 0x021, 0x040, 0x042, 0x043, 0x044, 0x046, 0x048, 0x049, 0x04A, 0x04E] → becomes s) ∧
    ((s.slot i).live = true →
      (n = 0x007 → ∃ base, DutyWritten s base (i / 8) v ∧ OnlyDuty s base (i / 8) ∧ becomes base) ∧
      (n = 0x04B → ∃ base, CpcWritten s base i v ∧ (∀ j, j ≠ 8 * (i / 8) + 7 → base.slot j = s.slot j) ∧
        (∀ k, k ≠ i / 8 → base.core k = s.core k) ∧
        base.core (i / 8) = { s.core (i / 8) with net := { (s.core (i / 8)).net with cpc := (base.core (i / 8)).net.cpc } } ∧
        base = { s with slots := base.slots, cores := base.cores } ∧ becomes base))

/-- R90: GETC below a register's read level and SETC below its write level take PRIVILEGE; in pure mode GETC of DCLK, RSEED and LVT and SETC
of RSEED take PURITY. Nothing else happens. -/
def ControlRegisterLevels : Prop :=
  ∀ (s : State) (d a : Reg) (n : BitVec 10),
    let sl := s.slot s.cur
    let trapped (c : TrapCode) : State := s.takeTrap s.cur { code := c, pc := sl.pc, epc := sl.pc, task := sl.task.task }
    (sl.lv = .u → n.toNat ∈ [0x022, 0x023, 0x047] → exec (.getc d n) s = .next (trapped .privilege)) ∧
    (sl.lv = .u → n.toNat ∈ [0x007, 0x022, 0x023, 0x047, 0x04B, 0x04C] → exec (.setc d a n) s = .next (trapped .privilege)) ∧
    (sl.lv = .s → n = 0x047 → exec (.setc d a n) s = .next (trapped .privilege)) ∧
    (sl.lv = .u → sl.ctl.est.getLsbD 3 = false → n = 0x020 →
      exec (.getc d n) s = .next (trapped .privilege) ∧ exec (.setc d a n) s = .next (trapped .privilege)) ∧
    (sl.task.pure = true → s.portCheck s.cur [] [d] = .ok → n.toNat ∈ [0x00A, 0x00B, 0x01A] →
      exec (.getc d n) s = .next (trapped .purity)) ∧
    (sl.task.pure = true → s.portCheck s.cur [a] [d] = .ok → n = 0x00B → exec (.setc d a n) s = .next (trapped .purity))

/-- R65, R66, R90, R352: the happenings of a register write, each by a slot that holds a task at S or above. -/
def RegisterWriteHappenings : Prop :=
  ∀ (s : State) (k n : Nat) (v : Word), n < 8 → (s.slot (8 * k + n)).live = true → (s.slot (8 * k + n)).lv ≠ .u →
    let i := 8 * k + n
    (∃ t, exec (.dutyWrite k n v) s = .next t ∧ DutyWritten s t k v ∧ t.mm = s.mm ∧
      ∀ j, (t.slot j).regs = (s.slot j).regs ∧ (t.slot j).pc = (s.slot j).pc) ∧
    (∃ t, exec (.cpcWrite k n v) s = .next t ∧ CpcWritten s t i v ∧ t.mm = s.mm ∧ ∀ j, j ≠ 8 * k + 7 → t.slot j = s.slot j) ∧
    (exec (.registerWrite k n 0x04D v) s =
      .next (s.modSlot i fun sl => { sl with ctl := { sl.ctl with utvec := v } }))

end Sys2Proof.Machine

/-- R87: what GETC reads of the slot, its task, its core and its partition, by the register's number. R101: SETC gives the old value to its
destination and changes the RW fields of the register it names, and no other; a write of a register that is only read changes nothing. R90:
GETC below a register's read level and SETC below its write level take PRIVILEGE; in pure mode GETC of DCLK, RSEED and LVT and SETC of RSEED
take PURITY. Nothing else happens. R65, R66, R90, R352: the happenings of a register write, each by a slot that holds a task at S or above.
-/
def Obligations.ControlRegisters : Prop :=
  GetcReadsTheRegister ∧ SetcWritesTheRegister ∧ ControlRegisterLevels ∧ RegisterWriteHappenings

namespace Sys2Proof.Machine

/-! Loads, stores, full/empty words and atomics on the own core's local memory (ch. 8, ch. 12). -/

/-- R27, R28, R149, R150, R159: `n` bytes at `va`, aligned, lie in the local memory of the running slot's core, in a bank of software's or
the module's role; `pa` is their place in memory. No earlier access of the slot is under way, and its task goes on. -/
structure InOwnMemory (s : State) (va : Word) (n pa : Nat) : Prop where
  core : s.cur < 65536
  place : ∃ off, pa = lmAddr (s.cur / 8) off ∧ off % n = 0 ∧ off + n ≤ 0x20000 ∧
    (va.toNat = 0x00FFFF0000000000 + off ∨ va.toNat = 0x00FF000000000000 + s.cur / 8 * 0x20000 + off) ∧
    (s.role (s.cur / 8) (off / 0x1000) = 0 ∨ s.role (s.cur / 8) (off / 0x1000) = 3)
  idle : (s.slot s.cur).pend = []
  counts : (s.slot s.cur).cnt.ld < 15 ∧ (s.slot s.cur).cnt.st < 15
  alive : (s.slot s.cur).exit = .none

/-- R161: `v` holds the `n` bytes at `pa`, low byte first, and above them zeros or copies of the highest bit. -/
def LoadedFrom (s : State) (pa n : Nat) (sx : Bool) (v : Word) : Prop :=
  ∀ j, j < 8 → v.extractLsb' (8 * j) 8 =
    if j < n then s.mm.bytes.byte (pa + j) else if sx && (s.mm.bytes.byte (pa + n - 1)).getLsbD 7 then 0xFF else 0

/-- R155, R157, R161: from `s` to `t` the `n` bytes at `pa` have become the low bytes of `v`, every other byte keeps its value, a word that
is written whole is poisoned no more, and no full/empty bit and no waiter changes. -/
def StoredAt (s t : State) (pa n : Nat) (v : Nat) : Prop :=
  (∀ x, t.mm.bytes.byte x = if pa ≤ x ∧ x < pa + n then BitVec.ofNat 8 (v / 256 ^ (x - pa)) else s.mm.bytes.byte x) ∧
  (∀ w, w ∈ t.mm.poison ↔ w ∈ s.mm.poison ∧ ¬ (w % 8 = 0 ∧ pa ≤ w ∧ w + 8 ≤ pa + n)) ∧
  t.mm.full = s.mm.full ∧ t.mm.feq = s.mm.feq

/-- From `s` to `t` the `n` bytes at `pa` have become the low bytes of `v`, and every other byte keeps its value. -/
def StoredIn (s t : State) (pa n : Nat) (v : Nat) : Prop :=
  ∀ x, t.mm.bytes.byte x = if pa ≤ x ∧ x < pa + n then BitVec.ofNat 8 (v / 256 ^ (x - pa)) else s.mm.bytes.byte x

/-- From `s`, with a fresh access number taken, to `t`: the head has completed, and memory is `t`'s. -/
def RanOnMemory (s t : State) (srcs dsts : List Reg) : Prop :=
  Ran { s.newId.2 with mm := t.mm } t srcs dsts (s.slot s.cur).npc

/-- From `s` to `t` as `RanOnMemory`; the waiters of the full/empty word `w` are served after the turn (R62, R155). -/
def RanOnWord (s t : State) (w : Nat) (srcs dsts : List Reg) : Prop :=
  let u := s.newId.2
  let u := if s.sched.inTurn then u.modSched fun c => { c with serve := insertNat w c.serve } else u
  Ran { u with mm := t.mm } t srcs dsts (s.slot s.cur).npc

/-- R161, R164, R243: a load of the own core's local memory completes in its turn with the bytes it names; memory keeps every byte. FEGET
gives the word's full/empty bit. A load of a poisoned word takes POISON instead (R157). -/
def LoadsReadOwnMemory : Prop :=
  ∀ (s : State) (d a b : Reg) (imm : BitVec 16) (sz : Size) (sz2 : Size2) (h : Hint) (sc : Scope) (pa : Nat),
    let n := sizeBytes sz
    let ea := s.rv a + BitVec.ofInt 64 imm.toInt
    let gives (i : Instr) (srcs : List Reg) (va : Word) (n : Nat) (sx : Bool) : Prop :=
      (s.poisoned pa n = false → ∃ t v, exec i s = .next t ∧ RanOnMemory s t srcs [d] ∧ t.mm = s.mm ∧ Wrote s t s.cur d v ∧
        LoadedFrom s pa n sx v) ∧
      (s.poisoned pa n = true → exec i s = .next (s.newId.2.takeTrap s.cur
        { code := .poison, pc := (s.slot s.cur).pc, addr := va, epc := (s.slot s.cur).pc, task := (s.slot s.cur).task.task }))
    (s.able [a] [d] → InOwnMemory s ea n pa → gives (.ld d a imm sz h) [a] ea n false ∧ gives (.lds d a imm sz h) [a] ea n true) ∧
    (s.able [a, b] [d] → InOwnMemory s (ea + BitVec.ofNat 64 ((s.rv b).toNat * n)) n pa →
      gives (.ldx d a b imm sz h) [a, b] (ea + BitVec.ofNat 64 ((s.rv b).toNat * n)) n false) ∧
    (s.able [a] [d] → InOwnMemory s ea (size2Bytes sz2) pa →
      gives (.ldacq d a imm sz2 sc) [a] ea (size2Bytes sz2) false) ∧
    (s.able [a] [d] → InOwnMemory s ea 8 pa → ∃ t, exec (.feget d a imm) s = .next t ∧ RanOnMemory s t [a] [d] ∧ t.mm = s.mm ∧
      Wrote s t s.cur d (if pa ∈ s.mm.full then 1 else 0))

/-- R161, R162, R164, R243: a store to the own core's local memory completes in its turn, changes the bytes it names and no other. STN
changes one half of a byte. FESET changes the word's full/empty bit and no byte. -/
def StoresWriteOwnMemory : Prop :=
  ∀ (s : State) (a b c : Reg) (imm : BitVec 16) (sz : Size) (sz2 : Size2) (h : Hint) (sc : Scope) (hi full : Bool) (pa : Nat),
    let n := sizeBytes sz
    let ea := s.rv a + BitVec.ofInt 64 imm.toInt
    let stores (i : Instr) (srcs : List Reg) (n v : Nat) : Prop :=
      ∃ t, exec i s = .next t ∧ RanOnMemory s t srcs [] ∧ StoredAt s t pa n v
    (s.able [a, b] [] → InOwnMemory s ea n pa → stores (.st a b imm sz h) [a, b] n (s.rv b).toNat) ∧
    (s.able [a, b, c] [] → InOwnMemory s (ea + BitVec.ofNat 64 ((s.rv b).toNat * n)) n pa →
      stores (.stx a b c imm sz h) [a, b, c] n (s.rv c).toNat) ∧
    (s.able [a, b] [] → InOwnMemory s ea (size2Bytes sz2) pa →
      stores (.strel a b imm sz2 sc) [a, b] (size2Bytes sz2) (s.rv b).toNat) ∧
    (s.able [a, b] [] → InOwnMemory s ea 1 pa → s.poisoned pa 1 = false →
      let old := (s.mm.bytes.byte pa).toNat
      let v := (s.rv b).toNat % 16
      stores (.stn a b imm hi h) [a, b] 1 (if hi then 16 * v + old % 16 else 16 * (old / 16) + v)) ∧
    (s.able [a] [] → InOwnMemory s ea 8 pa → s.mm.feq = [] → ∃ t, exec (.feset a imm full) s = .next t ∧ RanOnWord s t pa [a] [] ∧
      t.mm.bytes = s.mm.bytes ∧ t.mm.poison = s.mm.poison ∧ t.mm.feq = [] ∧
      ∀ w, w ∈ t.mm.full ↔ if w = pa then full = true else w ∈ s.mm.full)

end Sys2Proof.Machine

/-- R161, R164, R243: a load of the own core's local memory completes in its turn with the bytes it names; memory keeps every byte. FEGET
gives the word's full/empty bit. A load of a poisoned word takes POISON instead (R157). R161, R162, R164, R243: a store to the own core's
local memory completes in its turn, changes the bytes it names and no other. STN changes one half of a byte. FESET changes the word's
full/empty bit and no byte. -/
def Obligations.LoadsAndStoresOfOwnMemory : Prop :=
  LoadsReadOwnMemory ∧ StoresWriteOwnMemory

/-- R155, R164: LDF and LDFE of a FULL word of the own core's local memory, and STF to an EMPTY one, complete in their turn; LDFE leaves the
word EMPTY and STF leaves it FULL. In the other state of the word the slot parks and waits at it. -/
def Obligations.FullEmptyAccesses : Prop :=
  ∀ (s : State) (d a b : Reg) (imm : BitVec 16) (pa : Nat),
    let ea := s.rv a + BitVec.ofInt 64 imm.toInt
    let i := s.cur
    let waits (instr : Instr) (p : Park) : Prop :=
      ∃ t, exec instr s = .next t ∧ (t.slot i).st = .parked ∧ (t.slot i).park = p ∧ (t.slot i).parkedAt = s.dclk ∧
        (t.slot i).regs = (s.slot i).regs ∧ (t.slot i).pc = (s.slot i).pc ∧ t.mm.bytes = s.mm.bytes ∧ t.mm.full = s.mm.full ∧
        t.mm.feq = [(pa, i, s.sched.nextId)]
    InOwnMemory s ea 8 pa → s.mm.feq = [] →
    (s.able [a] [d] →
      (pa ∈ s.mm.full → s.poisoned pa 8 = false →
        (∃ t v, exec (.ldf d a imm) s = .next t ∧ RanOnWord s t pa [a] [d] ∧ t.mm = s.mm ∧ Wrote s t i d v ∧
          LoadedFrom s pa 8 false v) ∧
        (∃ t v, exec (.ldfe d a imm) s = .next t ∧ RanOnWord s t pa [a] [d] ∧ Wrote s t i d v ∧ LoadedFrom s pa 8 false v ∧
          t.mm.bytes = s.mm.bytes ∧ t.mm.poison = s.mm.poison ∧ t.mm.feq = [] ∧ ∀ w, w ∈ t.mm.full ↔ w ∈ s.mm.full ∧ w ≠ pa)) ∧
      (pa ∉ s.mm.full → waits (.ldf d a imm) (.feFull ea) ∧ waits (.ldfe d a imm) (.feFull ea))) ∧
    (s.able [a, b] [] →
      (pa ∉ s.mm.full → ∃ t, exec (.stf a b imm) s = .next t ∧ RanOnWord s t pa [a, b] [] ∧
        (∀ x, t.mm.bytes.byte x =
          if pa ≤ x ∧ x < pa + 8 then (s.rv b).extractLsb' (8 * (x - pa)) 8 else s.mm.bytes.byte x) ∧
        (∀ w, w ∈ t.mm.full ↔ w = pa ∨ w ∈ s.mm.full) ∧ t.mm.feq = []) ∧
      (pa ∈ s.mm.full → waits (.stf a b imm) (.feEmpty ea)))

namespace Sys2Proof.Machine

/-- R244: `n` bytes as a two's complement number. -/
def signedNat (n x : Nat) : Int := if x < 2 ^ (8 * n - 1) then x else (x : Int) - 2 ^ (8 * n)

end Sys2Proof.Machine

/-- R244, R245: an atomic on the own core's local memory completes in its turn: the old value goes to the register and the new one to
memory, in one step; the full/empty bit stays. A compare and swap that fails writes no memory. -/
def Obligations.AtomicsActOnOwnMemory : Prop :=
  ∀ (s : State) (d a b c : Reg) (imm : BitVec 16) (sz : Size2) (sc : Scope) (k : AKind) (h : Hint) (pa : Nat),
    let n := size2Bytes sz
    let i := s.cur
    let ea := s.rv a + BitVec.ofInt 64 imm.toInt
    let rmw (instr : Instr) (new : Nat → Nat → Nat) : Prop :=
      ∃ t v, exec instr s = .next t ∧ RanOnMemory s t [a, b] [d] ∧ Wrote s t i d v ∧ LoadedFrom s pa n false v ∧
        StoredAt s t pa n (new v.toNat ((s.rv b).toNat % 2 ^ (8 * n)))
    (s.slot i).task.pure = false →
    (s.able [a, b] [d] → InOwnMemory s (s.rv a) n pa → s.poisoned pa n = false →
      rmw (.aadd d a b sz sc k h) (fun x y => x + y) ∧
      rmw (.aand d a b sz sc k h) (fun x y => x &&& y) ∧
      rmw (.aor d a b sz sc k h) (fun x y => x ||| y) ∧
      rmw (.axor d a b sz sc k h) (fun x y => x ^^^ y) ∧
      rmw (.amin d a b sz sc k h) (fun x y => if signedNat n x ≤ signedNat n y then x else y) ∧
      rmw (.amax d a b sz sc k h) (fun x y => if signedNat n x ≤ signedNat n y then y else x) ∧
      rmw (.aminn d a b sz sc k h) (fun x y => if x ≤ y then x else y) ∧
      rmw (.amaxn d a b sz sc k h) (fun x y => if x ≤ y then y else x) ∧
      rmw (.aswp d a b sz sc k h) (fun _ y => y)) ∧
    (s.able [a, b, c] [d] → InOwnMemory s ea n pa → s.poisoned pa n = false → wellFormed (.acas d a b c imm sz sc k h) = true →
      ∃ t v, exec (.acas d a b c imm sz sc k h) s = .next t ∧ RanOnMemory s t [a, b, c] [b, d] ∧ Wrote s t i b v ∧
        LoadedFrom s pa n false v ∧
        (v.toNat = (s.rv b).toNat % 2 ^ (8 * n) → Wrote s t i d 0 ∧ StoredAt s t pa n (s.rv c).toNat) ∧
        (v.toNat ≠ (s.rv b).toNat % 2 ^ (8 * n) → Wrote s t i d 1 ∧ t.mm = s.mm)) ∧
    (s.able [a] [d] → InOwnMemory s ea 16 pa → s.poisoned pa 16 = false → wellFormed (.acas2 d a b c imm sc k h) = true →
      ∃ t lo hi, exec (.acas2 d a b c imm sc k h) s = .next t ∧ RanOnMemory s t [a] [b, Reg.next b, d] ∧
        LoadedFrom s pa 8 false lo ∧ LoadedFrom s (pa + 8) 8 false hi ∧ (d ≠ b → Wrote s t i b lo) ∧ Wrote s t i (Reg.next b) hi ∧
        (lo = s.rv b ∧ hi = s.rv (Reg.next b) → Wrote s t i d 0 ∧
          StoredAt s t pa 16 ((s.rv c).toNat + 2 ^ 64 * (s.rv (Reg.next c)).toNat)) ∧
        (¬ (lo = s.rv b ∧ hi = s.rv (Reg.next b)) → Wrote s t i d 1 ∧ t.mm = s.mm))

namespace Sys2Proof.Machine

/-- What has been written to a bound destination of slot `i` (R80, R82, R204). -/
def Landed (s t : State) (i : Nat) (d : Dst) (v : Word) : Prop :=
  match d with
  | .x n => n ≠ 0 → (t.slot i).regs.x.getD n.toNat 0 = v
  | .sx n => (t.slot i).regs.sx.getD n.toNat 0 = v
  | .y n => n.toNat < 28 → (t.core (i / 8)).y.getD n.toNat 0 = if s.yTaken i n.toNat then s.reg i (.y n) else v

/-- R86, R160: the access `a` of slot `i`, of the one piece `p` of device memory, is under way, none before it has still to be performed at
a byte of it, and its page is in no flip (R239). -/
structure Outstanding (s : State) (i id : Nat) (a : Access) (p : Piece) : Prop where
  here : (s.slot i).pend.find? (fun b => b.id = id) = some a
  parts : a.parts = [p] ∧ a.left = [0] ∧ a.got = [[]] ∧ p.stash = none ∧ 0 < p.n ∧ p.n ≤ 8 ∧ p.pa + p.n ≤ devEnd
  first : ∀ b ∈ (s.slot i).pend.takeWhile fun b => b.id ≠ id, ∀ j ∈ b.left, ∀ q, b.parts[j]? = some q →
    ¬ (p.pa < q.pa + q.n ∧ q.pa < p.pa + p.n)
  still : s.pageBusy p.pa = false
  slot : (s.slot i).st = .ready ∧ (s.slot i).hold = .none ∧ (s.slot i).exit = .none

/-- R160, R161: an outstanding load or store of device memory is performed: the load's value goes to its register, the store's bytes to
memory; its counter falls. No other byte of device memory changes. R226, R238: the value is that of the newest bytes, where the page has C =
1 or no core holds newer ones than the line's home. -/
def OutstandingAccessesArePerformed : Prop :=
  ∀ (s : State) (k n id : Nat) (a : Access) (p : Piece), n < 8 → Outstanding s (8 * k + n) id a p →
    let i := 8 * k + n
    let pa := p.pa
    let m := p.n
    (∀ d sx, a.kind = .load d sx → (p.cached = true ∨ get? s.mm.homes (lineAddr pa) = none) → s.poisoned pa m = false → ∃ t v, exec (.loadPerformed k n id) s = .next t ∧ Landed s t i d v ∧
      LoadedFrom s pa m sx v ∧ (t.slot i).cnt = { (s.slot i).cnt with ld := (s.slot i).cnt.ld - 1 } ∧
      (t.slot i).pend = (s.slot i).pend.filter (fun b => b.id ≠ id) ∧ (t.slot i).pc = (s.slot i).pc ∧
      ∀ x, x < devEnd → t.mm.bytes.byte x = s.mm.bytes.byte x) ∧
    (∀ data, a.kind = .store data → data.length = m → (s.slot i).task.evt = none → ∃ t, exec (.storePerformed k n id) s = .next t ∧
      (t.slot i).cnt = { (s.slot i).cnt with st := (s.slot i).cnt.st - 1 } ∧
      (t.slot i).pend = (s.slot i).pend.filter (fun b => b.id ≠ id) ∧ (t.slot i).regs = (s.slot i).regs ∧
      (t.slot i).pc = (s.slot i).pc ∧
      ∀ x, x < devEnd →
        t.mm.bytes.byte x = if pa ≤ x ∧ x < pa + m then data.getD (x - pa) 0 else s.mm.bytes.byte x)

/-- R155, R156: a full/empty access that reaches its word of another core is served where the word is in the right state: a load takes the
word, a store fills it, the access's counter falls and its slot goes on. One that finds the word in the other state parks its slot. -/
def RemoteFullEmptyAccessArrives : Prop :=
  ∀ (s : State) (k n id : Nat) (a : Access), n < 8 →
    let i := 8 * k + n
    let w := a.word
    let served (t : State) : Prop := (t.slot i).st = .ready ∧ (t.slot i).pc = (s.slot i).npc ∧ (t.slot i).pend = []
    let waits (p : Park) : Prop := ∃ t, exec (.feRemoteArrival k n id) s = .next t ∧ (t.slot i).st = .parked ∧ (t.slot i).park = p ∧
      (t.slot i).parkedAt = s.dclk ∧ (t.slot i).cnt = (s.slot i).cnt ∧ t.mm.feq = [(w, i, id)] ∧ t.mm.bytes = s.mm.bytes ∧
      t.mm.full = s.mm.full
    (s.slot i).pend = [a] → a.id = id → a.queued = false → a.left = [0] →
    a.parts.map (·.pa) = [w] → lmBase ≤ w → w + 8 ≤ lmEnd →
    w % 8 = 0 → s.role (lmCore w) (lmBank w) = 0 → s.pageBusy w = false → s.mm.feq = [] → (s.slot i).unstepped = true →
    (∀ d e, a.kind = .ldf d e →
      (w ∈ s.mm.full → s.poisoned w 8 = false → ∃ t v, exec (.feRemoteArrival k n id) s = .next t ∧ served t ∧ Landed s t i d v ∧
        LoadedFrom s w 8 false v ∧ (t.slot i).cnt = { (s.slot i).cnt with ld := (s.slot i).cnt.ld - 1 } ∧
        t.mm.bytes = s.mm.bytes ∧ ∀ x, x ∈ t.mm.full ↔ x ∈ s.mm.full ∧ (e = true → x ≠ w)) ∧
      (w ∉ s.mm.full → waits (.feFull a.va))) ∧
    (∀ v, a.kind = .stf v →
      (w ∉ s.mm.full → ∃ t, exec (.feRemoteArrival k n id) s = .next t ∧ served t ∧ (t.slot i).regs = (s.slot i).regs ∧
        (t.slot i).cnt = { (s.slot i).cnt with st := (s.slot i).cnt.st - 1 } ∧ StoredIn s t w 8 v.toNat ∧
        ∀ x, x ∈ t.mm.full ↔ x = w ∨ x ∈ s.mm.full) ∧
      (w ∈ s.mm.full → waits (.feEmpty a.va)))

end Sys2Proof.Machine

/-- R160, R161: an outstanding load or store of device memory is performed: the load's value goes to its register, the store's bytes to
memory; its counter falls. No other byte of device memory changes. R155, R156: a full/empty access that reaches its word
of another core is served where the word is in the right state: a load takes the word, a store fills it, the access's counter falls and its
slot goes on; one that finds the word in the other state parks its slot. -/
def Obligations.OutstandingAccessesLand : Prop :=
  OutstandingAccessesArePerformed ∧ RemoteFullEmptyAccessArrives

namespace Sys2Proof.Machine

/-- R215, R217: an entry of a page table that leads to the next table. -/
def IsTable (e : Word) : Prop := e.getLsbD 0 = true ∧ e.getLsbD 1 = true ∧ fld e 11 2 = 0 ∧ fld e 63 56 = 0

/-- R215, R217, R218: a walk reads one entry of each of four tables, the first at PTBASE (as it stood before this core cycle's SETC), and
ends at the leaf of level 4 with its page and its rights, or at the first entry that is not valid, with TRANSLATION, reason 2. -/
def PageWalkReadsTheTables : Prop :=
  ∀ (s : State) (p : Nat) (v : Part) (va : Word), s.part? p = some v →
    let a1 := fld (v.ctlAt s.dclk).1 55 16 * 65536 + 8 * fld va 55 43
    let e1 := s.rdWord a1
    let a2 := fld e1 55 12 * 4096 + 8 * fld va 42 34
    let e2 := s.rdWord a2
    let a3 := fld e2 55 12 * 4096 + 8 * fld va 33 25
    let e3 := s.rdWord a3
    let a4 := fld e3 55 12 * 4096 + 8 * fld va 24 16
    let e4 := s.rdWord a4
    let size := if e4.getLsbD 7 then 2 ^ 21 else 2 ^ 16
    let clean (a : Nat) : Prop := a < devEnd ∧ s.poisoned a 8 = false
    clean a1 →
    (e1.getLsbD 0 = false → s.walk p va = .fault .translation va 0x102) ∧
    (IsTable e1 → clean a2 → e2.getLsbD 0 = false → s.walk p va = .fault .translation va 0x202) ∧
    (IsTable e1 → clean a2 → IsTable e2 → clean a3 → e3.getLsbD 0 = false → s.walk p va = .fault .translation va 0x302) ∧
    (IsTable e1 → clean a2 → IsTable e2 → clean a3 → IsTable e3 → clean a4 → e4.getLsbD 0 = false →
      s.walk p va = .fault .translation va 0x402) ∧
    (IsTable e1 → clean a2 → IsTable e2 → clean a3 → IsTable e3 → clean a4 → e4.getLsbD 0 = true → e4.getLsbD 1 = false →
      fld e4 55 12 * 4096 % size = 0 → fld e4 11 10 = 0 → fld e4 55 12 * 4096 + size ≤ devEnd →
      ∃ t : Tlb, s.walk p va = .leaf t ∧ t.part = p ∧ t.vbase = va.toNat / size * size ∧ t.size = size ∧
        t.leaf.pbase = fld e4 55 12 * 4096 ∧ t.leaf.tgt = 0 ∧ t.leaf.r = e4.getLsbD 2 ∧ t.leaf.w = e4.getLsbD 3 ∧
        t.leaf.x = e4.getLsbD 4 ∧ t.leaf.u = e4.getLsbD 5 ∧ t.leaf.c = e4.getLsbD 6 ∧ t.leaf.ver = e4.getLsbD 8 ∧
        t.leaf.sealed_ = e4.getLsbD 9)

/-- R49, R152 to R154, R217: what a slot in STALL waits for arrives: the wait ends, the translation, the line or the ownership is there, and
the slot tries its head again or takes the fault that was found. -/
def RequestsAreAnswered : Prop :=
  ∀ (s : State) (k n : Nat), n < 8 →
    let i := 8 * k + n
    let sl := s.slot i
    let ends (instr : Instr) (q : State → Prop) : Prop :=
      ∃ t, exec instr s = .next t ∧ t.slot i = { sl with req := none } ∧ (∀ x, x < devEnd → t.mm.bytes.byte x = s.mm.bytes.byte x) ∧ q t
    (∀ va c root, sl.req = some (.walk va c root) → s.walkBusy root va = false →
      let finds (code : TrapCode) (a o : Word) : Prop := exec (.tlbWalkComplete k n) s = .next ((s.walked root va).setSlot i
        { sl with req := none, found := some { req := .walk va c root, code := code, addr := a, ops := o } })
      (∀ e, s.walkAt root sl.task.part va = .leaf e → leafCheck sl.lv (Acc.ofCode c) va e.leaf = none → e.part = sl.task.part →
        e.vbase ≤ va.toNat → va.toNat < e.vbase + e.size →
        ends (.tlbWalkComplete k n) fun t => t.tlb? k sl.task.part va = some e) ∧
      (∀ e code a o, s.walkAt root sl.task.part va = .leaf e → leafCheck sl.lv (Acc.ofCode c) va e.leaf = some (code, a, o) →
        finds code a o) ∧
      (∀ code a o, s.walkAt root sl.task.part va = .fault code a o → finds code a o)) ∧
    (∀ pa c l, sl.req = some (.line pa c l) → s.pageBusy pa = false → ends (.lineFill k n) fun t => pa ∈ (t.core k).lineBuf) ∧
    (∀ b off bank pa, sl.req = some (.stash b off 0) → s.stashBusy k sl.task.part b off = false → get? (s.core k).stash b = some bank →
      (∃ p, (s.xlateNow k sl.task.part sl.lv .r (bank.base + BitVec.ofNat 64 off)).1 = .ok p ∧ p.place ≠ .hostP ∧ lineAddr p.pa = pa) →
      ends (.stashFill k n) fun t => ∃ v, get? (t.core k).stash b = some v ∧ get? v.lines (off / 128) = some (pa, false, false)) ∧
    (∀ pa, sl.req = some (.own pa none) → s.pageBusy pa = false → ends (.ownershipGrant k n) fun t =>
      (∀ l ∈ (t.core k).cache, l.pa = pa → l.owned = true) ∧ (∀ j, j ≠ k → ∀ l ∈ (t.core j).cache, l.pa ≠ pa)) ∧
    (∀ pa b off bank o d, sl.req = some (.own pa (some (b, off))) → s.pageBusy pa = false →
      (s.stashWriteFault k sl.task sl.lv b off).1 = none → get? (s.core k).stash b = some bank → get? bank.lines (off / 128) = some (pa, o, d) →
      ends (.ownershipGrant k n) fun t => (∀ j, ∀ l ∈ (t.core j).cache, l.pa ≠ pa) ∧
        ∃ v e, get? (t.core k).stash b = some v ∧ get? v.lines (off / 128) = some (pa, true, e) ∧ (e = d ∨
          pa ∈ (s.walkReads (bank.base + BitVec.ofNat 64 off) 4 (fld (s.rootOf sl.task.part) 55 16 * 65536)).map lineAddr)) ∧
    (∀ pa e p ag, sl.req = some (.granule pa) → sl.task.evt = some e → s.part? sl.task.part = some p →
      get? p.newt.agents sl.task.agent = some ag → p.newt.used < p.newt.pool →
      ∃ t p' ag', exec (.granuleCopyDone k n) s = .next t ∧ t.slot i = { sl with req := none } ∧
        t.part? sl.task.part = some p' ∧ get? p'.newt.agents sl.task.agent = some ag' ∧ ag'.events = ag.events.map fun x =>
          if x.num = e then { x with copies := x.copies ++ [{ pa := pa / 4096 * 4096, taken := false, old := [], bad := [] }] } else x)

end Sys2Proof.Machine

/-- R215, R217, R218: a walk reads one entry of each of four tables, the first at PTBASE (as it stood before this core cycle's SETC), and
ends at the leaf of level 4 with its page and its rights, or at the first entry that is not valid, with TRANSLATION, reason 2. R49, R152 to
R154, R217: what a slot in STALL waits for arrives: the wait ends, the translation, the line or the ownership is there, and the slot tries
its head again or takes the fault that was found. -/
def Obligations.RequestsAreAnsweredAndWalked : Prop :=
  PageWalkReadsTheTables ∧ RequestsAreAnswered

/-- R166, R242: WAIT, FENCE and CNTGET: a slot goes on when its counters are within WAIT's limits and else is WAITING; FENCE goes on when no
access that it waits for is under way and else stays in STALL. -/
def Obligations.CountersAndFences : Prop :=
  ∀ (s : State) (d : Reg) (l st c t : BitVec 4) (sc : Scope), s.able [] [] →
    let sl := s.slot s.cur
    let within : Prop := sl.cnt.ld ≤ l.toNat ∧ sl.cnt.st ≤ st.toNat ∧ sl.cnt.cp ≤ c.toNat ∧ sl.cnt.tl ≤ t.toNat
    let loads : Prop := ∃ a ∈ sl.pend, a.kind.cnt = .ld
    let stalls (i : Instr) : Prop := exec i s = .next (s.modSlot s.cur fun sl => { sl with st := .stall })
    (within → GoesTo (.wait l st c t) s [] sl.npc) ∧
    (¬ within → exec (.wait l st c t) s = .next (s.modSlot s.cur fun sl => { sl with
      st := .waiting, hold := .none, waitFor := { ld := l.toNat, st := st.toNat, cp := c.toNat, tl := t.toNat } })) ∧
    (¬ loads → GoesTo (.fence sc .acq) s [] sl.npc) ∧ (loads → stalls (.fence sc .acq)) ∧
    (∀ k, k ≠ .acq → (sl.pend = [] → GoesTo (.fence sc k) s [] sl.npc) ∧ (sl.pend ≠ [] → stalls (.fence sc k))) ∧
    (s.able [] [d] → Yields (.cntget d) s [] d (BitVec.ofNat 64 (sl.cnt.ld * 4096 + sl.cnt.st * 256 + sl.cnt.cp * 16 + sl.cnt.tl)))

/-- R151, R165: BANKROLE changes the roles of the banks that its mask names and gives the old roles; STASHMAP maps a bank in the stash role,
or refuses; STASHWB ends at once where no line is DIRTY, and else is counted in st until the lines are written back. -/
def Obligations.BankRolesAndStashBanks : Prop :=
  ∀ (s : State) (d a b : Reg) (bank : BitVec 5) (h : Hint), (s.slot s.cur).task.pure = false →
    let i := s.cur
    let k := i / 8
    let base := s.rv a
    let dirty : Prop := ∃ e ∈ (s.core k).stash, (s.rv a).getLsbD e.1 = true ∧ s.role k e.1 = 2 ∧ ∃ l ∈ e.2.lines, l.2.2.2 = true
    let foreign : Prop := fld base 63 56 ≠ 0 ∨ fld base 63 48 = 0xFF
    (s.able [a, b] [d] → ∃ t, exec (.bankrole d a b) s = .next t ∧ Wrote s t i d (s.core k).brole ∧
      (t.slot i).pc = (s.slot i).npc ∧ (t.slot i).st = .ready ∧ (∀ x, x < devEnd → t.mm.bytes.byte x = s.mm.bytes.byte x) ∧
      ∀ j, j < 32 → t.role k j = if (s.rv b).getLsbD j then fld (s.rv a) (2 * j + 1) (2 * j) else s.role k j) ∧
    (s.able [a] [d] →
      (s.role k bank.toNat ≠ 2 → Yields (.stashmap d a bank h) s [a] d 6) ∧
      (s.role k bank.toNat = 2 → fld base 11 0 ≠ 0 → exec (.stashmap d a bank h) s = .next (s.takeTrap i
        { code := .misalign, pc := (s.slot i).pc, addr := base, epc := (s.slot i).pc, task := (s.slot i).task.task })) ∧
      (s.role k bank.toNat = 2 → fld base 11 0 = 0 → foreign → Yields (.stashmap d a bank h) s [a] d 6) ∧
      (s.role k bank.toNat = 2 → fld base 11 0 = 0 → ¬ foreign → ∃ t, exec (.stashmap d a bank h) s = .next t ∧
        Wrote s t i d 0 ∧ (t.slot i).pc = (s.slot i).npc ∧ (∀ x, x < devEnd → t.mm.bytes.byte x = s.mm.bytes.byte x) ∧
        get? (t.core k).stash bank.toNat = if base = 0 then none else some { base := base, hint := h, lines := [] })) ∧
    (s.able [a] [] → (s.slot i).cnt.st < 15 →
      (¬ dirty → GoesTo (.stashwb a) s [a] (s.slot i).npc) ∧
      (dirty → ∃ t, exec (.stashwb a) s = .next t ∧ (t.slot i).pc = (s.slot i).npc ∧ t.mm = s.mm ∧
        (t.slot i).regs = (s.slot i).regs ∧ (t.slot i).cnt = { (s.slot i).cnt with st := (s.slot i).cnt.st + 1 }))

namespace Sys2Proof.Machine

/-! What happens at a slot's turns and at the end of its task (R83 to R85, R156, R157, R371, R63). -/

/-- R83, R85, R308: the ports. A pop takes the oldest word of the intake into the register; a push puts a word behind the others of the
outlet; y31 gives the address of the slot's event, or all ones with no event open. Nothing else changes. -/
def PortsMoveWords : Prop :=
  ∀ (s : State) (k n : Nat) (p : BitVec 2) (d : Reg) (v : Word), n < 8 → p.toNat < 3 →
    let i := 8 * k + n
    let sl := s.slot i
    let port : Reg := .y (BitVec.ofNat 5 (28 + p.toNat))
    let only (t : State) : Prop := OnlySlot s t i ∧ t.slot i = { sl with regs := { sl.regs with x := (t.slot i).regs.x, sx := (t.slot i).regs.sx } }
    sl.st = .ready →
    (s.portCheck i [port] [d] = .ok → ∃ t, exec (.portPop k n p d) s = .next t ∧ only t ∧
      Wrote s t i d ((s.intakeOf k p.toNat).headD 0) ∧ t.intakeOf k p.toNat = (s.intakeOf k p.toNat).drop 1 ∧
      ∀ q, q < 3 → q ≠ p.toNat → t.intakeOf k q = s.intakeOf k q) ∧
    (s.portCheck i [] [port] = .ok → ∃ t, exec (.portPush k n p v) s = .next t ∧ only t ∧ (t.slot i).regs = sl.regs ∧
      t.outletOf k p.toNat = s.outletOf k p.toNat ++ [.word v] ∧
      (∀ q, q < 3 → q ≠ p.toNat → t.outletOf k q = s.outletOf k q) ∧ ∀ q, q < 3 → t.intakeOf k q = s.intakeOf k q) ∧
    (s.portCheck i [.y 31] [d] = .ok → ∃ t, exec (.eventPortPop k n d) s = .next t ∧ only t ∧
      Wrote s t i d (if sl.task.evt.isSome then BitVec.ofNat 64 (0x00FFFF000001FE00 + 64 * n) else BitVec.allOnes 64) ∧
      ∀ q, q < 3 → t.intakeOf k q = s.intakeOf k q)

/-- R156: a full/empty wait that has lasted FEWAIT core cycles is withdrawn at its home: at a word of the own core at once, and the slot
takes FE_TIMEOUT with the word's address, the low 32 bits of the limit and the cause of the wait; to another core's word the withdrawal sets
out. -/
def FullEmptyWaitsTimeOut : Prop :=
  ∀ (s : State) (k n : Nat) (a : Access) (va : Word),
    let i := 8 * k + n
    let sl := s.slot i
    let timesOut (cause : Nat) (c : Counters) : Prop :=
      ∃ m : State, m = { s with slots := m.slots, mm := m.mm } ∧ (∀ j, j ≠ i → m.slot j = s.slot j) ∧
        m.mm = { s.mm with feq := s.mm.feq.filter fun q => !(q.2.1 = i && q.2.2 = a.id) } ∧ m.slot i = { sl with pend := [], cnt := c } ∧
        exec (.feTimeout k n) s = .next (m.takeTrap i
          { code := .feTimeout, pc := sl.pc, addr := va, ops := BitVec.ofNat 64 (sl.feLimit.toNat % 2 ^ 32 + cause * 2 ^ 32)
            epc := sl.pc, task := sl.task.task })
    sl.st = .parked → sl.feLimit ≠ 0 → sl.parkedAt + sl.feLimit.toNat ≤ s.dclk → sl.pend = [a] → a.leaving = false → a.va = va →
    (lmCore a.word = k →
      (∀ d e, a.kind = .ldf d e → sl.park = .feFull va → timesOut 3 { sl.cnt with ld := sl.cnt.ld - 1 }) ∧
      (∀ v, a.kind = .stf v → sl.park = .feEmpty va → timesOut 4 { sl.cnt with st := sl.cnt.st - 1 })) ∧
    (lmCore a.word ≠ k → a.isFe = true → (∃ p, sl.park = .feFull p ∨ sl.park = .feEmpty p) → exec (.feTimeout k n) s = .next (s.setSlot i { sl with pend := [{ a with leaving := true }] }))

/-- R131, R157, R371: a slot that is ready takes a raised trap at its turn: POISON of the load that raised it, exact where nothing has
issued since; COPROC with the PC, the task and the ring entry of the operation that failed, an entry which is then free. Of several, POISON
is taken first, and of two COPROCs the one whose operation was issued first. -/
def RaisedTrapsAreTaken : Prop :=
  ∀ (s : State) (k n : Nat) (l : Late) (pre post : List Late), n < 8 →
    let i := 8 * k + n
    let sl := s.slot i
    let left (m : State) : Prop := (∀ j, j ≠ i → m.slot j = s.slot j) ∧ m.slot i = { sl with late := pre ++ post } ∧ m.mm = s.mm
    sl.st = .ready → sl.park = .none → sl.late = pre ++ l :: post →
    (∀ pc addr exact, l = .poison pc addr exact → (∀ x ∈ pre, ∀ pc addr e, x ≠ .poison pc addr e) →
      ∃ m : State, left m ∧ m = { s with slots := m.slots } ∧ exec (.latePoison k n) s = .next (m.takeTrap i
        { code := .poison, pc := pc, addr := addr, late := !exact, epc := if exact then pc else sl.pc, task := sl.task.task })) ∧
    (∀ e o task pc addr ops, l = .coproc e o task pc addr ops →
      (∀ x ∈ pre ++ post, (∃ b, x = .deadlock b) ∨ (∃ o t p a q, x = .engine o t p a q) ∨ ∃ f u t p a q, x = .coproc f u t p a q ∧ o < u) →
      ∃ m : State, left m ∧ m = { s with slots := m.slots, cores := m.cores } ∧ get? (m.core k).ring e = none ∧
        (m.core k = { s.core k with ring := (m.core k).ring }) ∧
        (∀ f, f ≠ e → get? (m.core k).ring f = get? (s.core k).ring f) ∧ exec (.coproc k n) s = .next (m.takeTrap i
          { code := .coproc, pc := pc, addr := addr, seq := e, ops := ops, late := true, epc := sl.pc, task := task }))

/-- R63: the task of a slot in DRAIN whose counters are zero and whose latch is empty retires, and the slot is idle; its registers stay until a
task is dispatched to it; the launch has one live task less, and one more that halted if HALT ended it. -/
def TasksRetire : Prop :=
  ∀ (s : State) (k n l : Nat) (v : Launch), n < 8 →
    let i := 8 * k + n
    let sl := s.slot i
    sl.st = .drain → sl.cnt = { ld := 0, st := 0, cp := 0, tl := 0 } → sl.latch = none → sl.vbusy = 0 → sl.late = [] →
    sl.task.launch = some l → get? s.disp.launches l = some v → v.live > 1 → sl.task.evt = none → sl.task.groups = [] →
    ∃ t, exec (.taskRetire k n) s = .next t ∧ (t.slot i).st = .idle ∧ (t.slot i).regs = sl.regs ∧ (t.slot i).mbox = [] ∧
      get? t.disp.launches l = some { v with
        live := v.live - 1, halted := if sl.exit = .halt then v.halted + 1 else v.halted } ∧
      (∀ j, j ≠ i → t.slot j = s.slot j) ∧ t.mm = s.mm ∧ (t.core k).y = (s.core k).y

end Sys2Proof.Machine

/-- R83, R85, R308: the ports. A pop takes the oldest word of the intake into the register; a push puts a word behind the others of the
outlet; y31 gives the address of the slot's event, or all ones with no event open. Nothing else changes. R156: a full/empty wait that has
lasted FEWAIT core cycles is withdrawn at its home, and the slot takes FE_TIMEOUT with the word's address, the low 32 bits of the limit and
the cause of the wait. R131, R157, R371: a slot that is ready takes a raised trap at its turn: POISON of the load that raised it, exact
where nothing has issued since; COPROC with the PC, the task and the ring entry of the operation that failed, an entry which is then free.
Of several, POISON is taken first, and of two COPROCs the one whose operation was issued first. R63: the task of a slot in DRAIN whose
counters are zero and whose latch is empty retires, and the slot is idle; its registers stay until a task is dispatched to it; the launch has
one live task less, and one more that halted if HALT ended it. -/
def Obligations.SlotHappenings : Prop :=
  PortsMoveWords ∧ FullEmptyWaitsTimeOut ∧ RaisedTrapsAreTaken ∧ TasksRetire

namespace Sys2Proof.Machine

/-! Conversions and decode tables (ch. 6). -/

/-- R116, R118, R119: `b` is `s` but for what a conversion does beside its result: the running slot's task uses the decode tables that `fs`
name, `nans` NaNs are counted up to 0xFFFFFFFF, and one draw `u` is taken if `drew`. A SETC of RSEED of the same core cycle stands. -/
structure Converting (s b : State) (fs : List Fmt) (drew : Bool) (u nans : Nat) : Prop where
  rest : b = { s with slots := b.slots, cores := b.cores }
  slots : ∀ j, j ≠ s.cur → b.slot j = s.slot j
  cores : ∀ k, k ≠ s.cur / 8 → b.core k = s.core k
  slot : ∃ dt : BitVec 2, (∀ t, t < 2 → dt.getLsbD t = ((s.slot s.cur).task.dtuse.getLsbD t || fs.any fun f => f.elem.isTab && f.dt = t)) ∧
    b.slot s.cur = { s.slot s.cur with
      task := { (s.slot s.cur).task with dtuse := dt }
      ctl := { (s.slot s.cur).ctl with nancnt := BitVec.ofNat 32 (min 0xFFFFFFFF ((s.slot s.cur).ctl.nancnt.toNat + nans)) } }
  core : if drew then
      let c := s.core (s.cur / 8)
      let was := match c.seedOld with | some (t, v) => if t = s.dclk then some v else none | none => none
      u = (nextDraw (was.getD c.rseed)).toNat ∧
      b.core (s.cur / 8) = match was with
        | some v => { c with seedOld := some (s.dclk, nextDraw v) }
        | none => { c with rseed := nextDraw c.rseed }
    else b.core (s.cur / 8) = s.core (s.cur / 8)

/-- R109, R121: `f` is the format that the word `w` names to a scalar conversion; its scale kind is 0. -/
def Scalar (w : BitVec 16) (f : Fmt) : Prop := Fmt.parse w = some f ∧ f.sk = 0

/-- R118, R121, R122: FCVT, FCVTI, ICVTF and FCLASS complete in their turn: FCVT gives the code of the source's value in the destination
format, FCVTI the value rounded and kept in its range, ICVTF the code of the integer, FCLASS the class mask, one of bits 8:0 with bit 9 for
a NaN-marked entry. A NaN in NaN-as-zero mode counts and gives +0, and rounding mode 3 takes one draw. A word that is not valid takes
ILLEGAL_OP, and a pure task that would draw takes PURITY. -/
def ConversionsYieldTheirResults : Prop :=
  ∀ (s : State) (d a b : Reg) (n : Bool) (f g : Fmt), s.able [a, b] [d] →
    let i := s.cur
    let task := (s.slot i).task
    let tab (f : Fmt) : Table := if f.dt = 0 then (s.core (i / 8)).dt0 else (s.core (i / 8)).dt1
    let lo : BitVec 16 := (s.rv b).extractLsb' 0 16
    let ws : BitVec 16 := if b = .x 0 then task.kfa else lo
    let wd : BitVec 16 := if b = .x 0 then task.kfo else (s.rv b).extractLsb' 16 16
    let wi : BitVec 16 := if b = .x 0 then task.kfo else lo
    let code := (s.rv a).toNat % 2 ^ f.elem.width
    let v := f.decode (tab f) code
    let zero := Val.fin false 0 1 0
    let gives (ins : Instr) (fs : List Fmt) (drew : Bool) (nans : Nat) (w : Nat → Word) : Prop :=
      ∃ m u t, Converting s m fs drew u nans ∧ exec ins s = .next t ∧ Ran m t [a, b] [d] (s.slot i).npc ∧ Wrote m t i d (w u)
    let traps (ins : Instr) (c : TrapCode) : Prop := ∃ r : Trap, r.code = c ∧ exec ins s = .next (s.takeTrap i r)
    (Scalar ws f → Scalar wd g → task.pure = false ∨ g.rm ≠ 3 →
      gives (.fcvt d a b) [f, g] (g.rm = 3 && !g.elem.isTab) (if g.nz && v.isNan then 1 else 0) fun u =>
        BitVec.ofNat 64 (g.encode (tab g) u (if g.nz && v.isNan then zero else v))) ∧
    (Scalar ws f → task.pure = false ∨ f.rm ≠ 3 →
      gives (.fcvti d a b n) [f] (f.rm = 3) (if f.nz && v.isNan then 1 else 0) fun u =>
        BitVec.ofInt 64 (v.saturate f.rm u (if n then 0 else -2 ^ 63) (if n then 2 ^ 64 - 1 else 2 ^ 63 - 1))) ∧
    (Scalar wi g → task.pure = false ∨ g.rm ≠ 3 →
      gives (.icvtf d a b n) [g] (g.rm = 3 && !g.elem.isTab) 0 fun u =>
        BitVec.ofNat 64 (g.encode (tab g) u (.ofInt (if n then ((s.rv a).toNat : Int) else (s.rv a).toInt)))) ∧
    (Scalar ws f → ∃ k, k < 9 ∧
      gives (.fclass d a b) [f] false 0 (fun _ => BitVec.ofNat 64 (2 ^ k +
        if f.elem.isTab && (Table.entry (tab f) code).getLsbD 31 then 512 else 0)) ∧
      (k = 8 ↔ v.isNan = true) ∧ (k = 0 ∨ k = 7 ↔ ∃ sg, v = .inf sg) ∧ (k = 3 ∨ k = 4 ↔ ∃ sg m e, v = .fin sg 0 m e) ∧
      (v.isNan = false → (k < 4 ↔ v.sign = true))) ∧
    (task.pure = false → ¬ (∃ f, Scalar ws f) →
      traps (.fcvt d a b) .illegalOp ∧ traps (.fcvti d a b n) .illegalOp ∧ traps (.fclass d a b) .illegalOp) ∧
    (task.pure = false → ¬ (∃ f, Scalar wi f) → traps (.icvtf d a b n) .illegalOp) ∧
    (task.pure = true → (Scalar ws f → f.rm = 3 → traps (.fcvti d a b n) .purity) ∧
      (Scalar wd g → g.rm = 3 → traps (.fcvt d a b) .purity) ∧ (Scalar wi g → g.rm = 3 → traps (.icvtf d a b n) .purity))

end Sys2Proof.Machine

/-- R121: in every format but those of a decode table, a code that is not NaN keeps its bits through its value, in every rounding mode. -/
def Obligations.CodesSurviveTheirOwnFormat : Prop :=
  ∀ (f : Fmt) (t : Table) (u code : Nat), f.elem.isTab = false → f.rm < 4 → u < 2 ^ 32 → code < 2 ^ f.elem.width →
    (f.decode t code).isNan = false → f.encode t u (f.decode t code) = code

namespace Sys2Proof.Machine

/-- R123: DTLOAD of an aligned image in a scratch bank of its own core, whose table no slot uses, replaces that table with the image's 256
entries, bits 30:19 zero, and yields 0; it yields 1 and leaves the table while a slot uses it. DTREAD yields an entry. -/
def DecodeTablesAreLoadedAndRead : Prop :=
  ∀ (s : State) (d a : Reg) (t : BitVec 1) (off : Nat), s.able [a] [d] → (s.slot s.cur).task.pure = false →
    let k := s.cur / 8
    let tab (u : State) : Table := if t = 0 then (u.core k).dt0 else (u.core k).dt1
    let used := ∃ j, j / 8 = k ∧ (s.slot j).task.dtuse.getLsbD t.toNat = true
    (off % 1024 = 0 → off < 0x20000 → s.role k (off / 4096) = 0 →
      (s.rv a).toNat = 0x00FFFF0000000000 + off ∨ k < 8192 ∧ (s.rv a).toNat = lmAddr k off →
      (used → Yields (.dtload d a t) s [a] d 1) ∧
      (¬ used → s.poisoned (lmAddr k off) 1024 = false →
        ∃ m u, exec (.dtload d a t) s = .next u ∧ Ran m u [a] [d] (s.slot s.cur).npc ∧ Wrote m u s.cur d 0 ∧
          m = { s with cores := m.cores } ∧ (∀ j, j ≠ k → m.core j = s.core j) ∧
          (m.core k = if t = 0 then { s.core k with dt0 := (m.core k).dt0 } else { s.core k with dt1 := (m.core k).dt1 }) ∧
          ∀ e, e < 256 → ∀ b, b < 32 → (Table.entry (tab m) e).getLsbD b =
            (decide (b < 19 ∨ b = 31) && (s.mm.bytes.byte (lmAddr k off + 4 * e + b / 8)).getLsbD (b % 8)))) ∧
    Yields (.dtread d a t) s [a] d ((Table.entry (tab s) ((s.rv a).toNat % 256)).setWidth 64)

end Sys2Proof.Machine

/-- R118, R121, R122: FCVT, FCVTI, ICVTF and FCLASS complete in their turn: FCVT gives the code of the source's value in the destination
format, FCVTI the value rounded and kept in its range, ICVTF the code of the integer, FCLASS the class mask, one of bits 8:0 with bit 9 for
a NaN-marked entry. A NaN in NaN-as-zero mode counts and gives +0, and rounding mode 3 takes one draw. A word that is not valid takes
ILLEGAL_OP, and a pure task that would draw takes PURITY. R123: DTLOAD of an aligned image in a scratch bank of its own core, whose table no
slot uses, replaces that table with the image's 256 entries, bits 30:19 zero, and yields 0; it yields 1 and leaves the table while a slot
uses it. DTREAD yields an entry. -/
def Obligations.ScalarConversions : Prop :=
  ConversionsYieldTheirResults ∧ DecodeTablesAreLoadedAndRead

namespace Sys2Proof.Machine

/-! The vector and special-function pipes (ch. 7). -/

/-- R127, R129: from `s` to `t` the running slot has issued `ins` into its latch, with the values that it reads, and goes on; in long mode
with the next entry of the core's coprocessor ring. No register and no memory changes. -/
def Latched (s t : State) (ins : Instr) (xa xb : BitVec 4) (mk : Option (BitVec 3)) (d : Dst) : Prop :=
  let i := s.cur
  let sl := s.slot i
  ∃ l : Latch, l.instr = ins ∧ l.xa = sl.readX (xa.setWidth 5) ∧ l.xb = sl.readX (xb.setWidth 5) ∧
    (∀ m, mk = some m → l.mask = s.mreg i m) ∧ l.vctl = sl.ctl.vctl ∧ l.dst = d ∧ l.pc = sl.pc ∧ l.long = sl.longMode ∧
    l.issued = s.dclk ∧ l.sent = false ∧ l.res = none ∧
    t.slot i = { sl.goneTo sl.npc sl.regs with
      latch := some l, task := (t.slot i).task, vbusy := if sl.longMode then sl.vbusy + 1 else sl.vbusy } ∧
    (sl.longMode = true → l.seq = (s.core (i / 8)).ringNext ∧ (t.core (i / 8)).ringNext = ((s.core (i / 8)).ringNext + 1) % 64 ∧
      ∃ e, get? (t.core (i / 8)).ring l.seq = some e ∧ e.slot = i ∧ e.task = sl.task.task ∧ e.pc = sl.pc ∧ e.fault = false) ∧
    t.mm = s.mm ∧ (∀ j, j ≠ i → t.slot j = s.slot j) ∧ ∀ j, j ≠ i / 8 → t.core j = s.core j

/-- R127, R129, R131, R133, R134: a vector or special-function instruction issues into the slot's latch when it is empty, and in long mode
when the next ring entry is free; the slot goes on. While the latch is full the head stays in STALL. -/
def VectorInstructionsIssueIntoTheLatch : Prop :=
  ∀ (s : State) (w : Width) (vd va vb vc xa nl : BitVec 4) (nh : BitVec 1) (mk : Option (BitVec 3)) (ty : VType) (cc : CmpCond)
    (ck : CmpKind) (ar sx : Bool) (op : RedOp) (fn : SfnOp) (d : Reg) (szx : BitVec 2),
    let i := s.cur
    let sl := s.slot i
    sl.unstepped = true →
    let free : Prop := sl.latch = none ∧ (sl.longMode = true → get? (s.core (i / 8)).ring (s.core (i / 8)).ringNext = none)
    let issues (ins : Instr) (xa : BitVec 4) (mk : Option (BitVec 3)) : Prop :=
      (free → ∃ t, exec ins s = .next t ∧ Latched s t ins xa 0 mk (.x 0)) ∧
      (sl.latch ≠ none → exec ins s = .next (s.modSlot i fun sl => { sl with st := .stall }))
    (sl.task.pure = false ∨ fld sl.ctl.vctl 11 10 ≠ 3 →
      issues (.vadd w vd va vb mk ty) 0 mk ∧ issues (.vsub w vd va vb mk ty) 0 mk ∧ issues (.vmul w vd va vb mk ty) 0 mk ∧
      issues (.vfma w vd va vb vc mk ty) 0 mk ∧ issues (.vmin w vd va vb mk ty) 0 mk ∧ issues (.vmax w vd va vb mk ty) 0 mk ∧
      issues (.vabs w vd va mk ty) 0 mk ∧ issues (.vred w vd va op mk ty) 0 mk) ∧
    issues (.vcmp w vd va vb mk cc ck) 0 mk ∧ issues (.vsel w vd va vb mk) 0 mk ∧ issues (.vand w vd va vb mk) 0 mk ∧
    issues (.vor w vd va vb mk) 0 mk ∧ issues (.vxor w vd va vb mk) 0 mk ∧ issues (.vshl w vd va vb mk) 0 mk ∧
    issues (.vshr w vd va vb mk ar) 0 mk ∧ issues (.vbcast w vd xa mk) xa mk ∧ issues (.vins w vd xa nl mk nh) xa mk ∧
    issues (.vidx w vd mk) 0 mk ∧ issues (.vperm w vd va vb mk) 0 mk ∧ issues (.sfn w vd va fn mk ty) 0 mk ∧
    (s.portCheck i [] [d] = .ok → (sl.longMode = true → plainReg d = true) → free →
      ∃ t, exec (.vmovx d va nl nh sx szx) s = .next t ∧ Latched s t (.vmovx d va nl nh sx szx) 0 0 none (sl.bind d))

/-- R109, R141: a conversion of packed elements issues in the same way when its format words are valid; in short mode one with a word that
is not valid takes ILLEGAL_OP, with the word in the record. -/
def VectorConversionsIssue : Prop :=
  ∀ (s : State) (vd va xb : BitVec 4),
    let i := s.cur
    let sl := s.slot i
    sl.unstepped = true → sl.task.pure = false → sl.latch = none →
    (sl.longMode = true → get? (s.core (i / 8)).ring (s.core (i / 8)).ringNext = none) →
    let xv := sl.readX (xb.setWidth 5)
    let words := if xb = 0 then (sl.task.kfa, sl.task.kfo) else (xv.setWidth 16, xv.extractLsb' 16 16)
    let one (ins : Instr) (scaled : Nat) : Prop :=
      (∀ f g : Fmt, Fmt.parse words.1 = some f → Fmt.parse words.2 = some g → (f.sk = 0 ∨ scaled = 1 ∧ xb ≠ 0) →
        (g.sk = 0 ∨ scaled = 2 ∧ xb ≠ 0) → ∃ t, exec ins s = .next t ∧ Latched s t ins 0 xb none (.x 0)) ∧
      (sl.longMode = false → Fmt.parse words.1 = none → ∃ r : Trap, exec ins s = .next (s.takeTrap i r) ∧ r.code = .illegalOp ∧
        fld r.ops 47 32 = words.1.toNat ∧ r.ops.getLsbD 48 = true ∧ r.ops.getLsbD 49 = false)
    one (.vdec vd va xb) 1 ∧ one (.venc vd va xb) 2 ∧ one (.vcvt vd va xb) 0

end Sys2Proof.Machine

/-- R127, R129, R131, R133, R134: a vector or special-function instruction issues into the slot's latch when it is empty, and in long mode
when the next ring entry is free; the slot goes on. While the latch is full the head stays in STALL. R109, R141: a conversion of packed
elements issues in the same way when its format words are valid; in short mode one with a word that is not valid takes ILLEGAL_OP, with the
word in the record. -/
def Obligations.VectorIssue : Prop :=
  VectorInstructionsIssueIntoTheLatch ∧ VectorConversionsIssue

namespace Sys2Proof.Machine

/-! What a vector or special-function instruction gives of its registers (R125, R126, R134 to R143). -/

/-- Lane `j` of width `w` of a vector register (R125). -/
def laneOf (w v j : Nat) : Nat := v / 2 ^ (w * j) % 2 ^ w

/-- R126: lane `j` of width `w` is active under the mask, in its 256-bit segment. -/
def activeLane (w : Nat) (mk : Option (BitVec 3)) (m : BitVec 16) (j : Nat) : Bool :=
  match mk with
  | none => true
  | some _ => m.getLsbD (if w = 8 then j % 32 / 2 else j % (256 / w))

/-- R135: the exact result `x` of an integer lane, as its type keeps it. -/
def fitLane (t : VType) (w : Nat) (x : Int) : Nat :=
  match t with
  | .is => (max (-(2 ^ (w - 1) : Int)) (min (2 ^ (w - 1) - 1) x) % 2 ^ w).toNat
  | .ns => (max 0 (min (2 ^ w - 1) x)).toNat
  | _ => (x % 2 ^ w).toNat

/-- R135: the value of an integer lane of type `t`. -/
def laneInt (t : VType) (w x : Nat) : Int :=
  match t with
  | .ns => x
  | _ => if x < 2 ^ (w - 1) then x else (x : Int) - 2 ^ w

/-- R118: a value in NaN-as-zero mode, and what it counts. -/
def nzVal (nz : Bool) (v : Val) : Val := if nz && v.isNan then .zero false else v

def nzCount (nz : Bool) (v : Val) : Nat := if nz && v.isNan then 1 else 0

/-- R137: a comparison of two values that are not NaN holds. -/
def Compares (c : CmpCond) (lt eq : Bool) : Bool :=
  match c with
  | .eq => eq
  | .lt => lt
  | .le => lt || eq
  | .ne => !eq

/-- R140: one level of the reduction's tree: neighbours are combined, operation `k` of the tree first. -/
def pairLevel (f : Nat → Val → Val → Val) : Nat → List Val → List Val
  | k, a :: b :: t => f k a b :: pairLevel f (k + 1) t
  | _, l => l

/-- R140: the tree, its operations numbered level by level. -/
def pairTree (f : Nat → Val → Val → Val) : Nat → Nat → List Val → List Val
  | 0, _, l => l
  | n + 1, k, l => if l.length ≤ 1 then l else pairTree f n (k + l.length / 2) (pairLevel f k l)

/-- R109, R141: the format words of a conversion are `f` and `g`, and both may stand there. -/
def ConvFmts (ins : Instr) (xb : Word) (kfa kfo : BitVec 16) (f g : Fmt) : Prop :=
  let words (x : BitVec 4) : Prop := Fmt.parse (if x = 0 then kfa else xb.setWidth 16) = some f ∧
    Fmt.parse (if x = 0 then kfo else xb.extractLsb' 16 16) = some g
  match ins with
  | .vdec _ _ x => words x ∧ (f.sk = 0 ∨ x ≠ 0) ∧ g.sk = 0
  | .venc _ _ x => words x ∧ f.sk = 0 ∧ (g.sk = 0 ∨ x ≠ 0)
  | .vcvt _ _ x => words x ∧ f.sk = 0 ∧ g.sk = 0
  | _ => False

/-- An instruction of vector registers that gives a vector register, its format words valid. -/
def GivesVector (ins : Instr) (xb : Word) (kfa kfo : BitVec 16) : Prop :=
  match ins with
  | .vadd .. | .vsub .. | .vmul .. | .vfma .. | .vmin .. | .vmax .. | .vabs .. | .vcmp .. | .vsel .. | .vand .. | .vor .. | .vxor ..
  | .vshl .. | .vshr .. | .vbcast .. | .vins .. | .vidx .. | .vperm .. | .vred .. | .sfn .. => True
  | _ => ∃ f g, ConvFmts ins xb kfa kfo f g

/-- R134 to R143: `ins`, on registers of `bits` bits with these contents, mask, VCTL, x operands, format words, decode tables and draws, gives
the register `d` the value `out` and counts `nans` NaNs. -/
def VecResult (bits : Nat) (ins : Instr) (reg : BitVec 4 → Nat) (mask vctl : BitVec 16) (xa xb : Word) (kfa kfo : BitVec 16)
    (tab : Nat → Table) (ds : List (BitVec 32)) (d : BitVec 4) (out nans : Nat) : Prop :=
  let rm := fld vctl 11 10
  let nz := vctl.getLsbD 9
  let n (w : Width) : Nat := bits / w.bits
  let act (w : Width) (mk : Option (BitVec 3)) (j : Nat) : Bool := activeLane w.bits mk mask j
  let x (w : Width) (v : BitVec 4) (j : Nat) : Nat := laneOf w.bits (reg v) j
  let int (w : Width) (ty : VType) (v : BitVec 4) (j : Nat) : Int := laneInt ty w.bits (x w v j)
  let raw (w : Width) (ty : VType) (v : BitVec 4) (j : Nat) : Val := (vtFmt ty).decode (x w v j)
  let flt (w : Width) (ty : VType) (v : BitVec 4) (j : Nat) : Val := nzVal nz (raw w ty v j)
  let each (w : Width) (vd : BitVec 4) (mk : Option (BitVec 3)) (f : Nat → Nat) : Prop :=
    d = vd ∧ ∀ j, j < n w → laneOf w.bits out j = if act w mk j then f j else x w vd j
  let counts (w : Width) (mk : Option (BitVec 3)) (c : Nat → Nat) : Prop := nans = (((List.range (n w)).filter (act w mk)).map c).sum
  let ints (w : Width) (vd : BitVec 4) (mk : Option (BitVec 3)) (ty : VType) (f : Nat → Int) : Prop :=
    each w vd mk (fun j => fitLane ty w.bits (f j)) ∧ nans = 0
  -- a floating lane: the exact value `v` with the NaNs `c` of its operands, rounded with the draw of its place among the active lanes
  let floats (w : Width) (vd : BitVec 4) (mk : Option (BitVec 3)) (ty : VType) (v : Nat → Val) (c : Nat → Nat) : Prop :=
    (rm = 3 → (List.range (n w)).countP (act w mk) ≤ ds.length) ∧
    (each w vd mk fun j =>
      let u := if rm = 3 then (ds.getD ((List.range j).countP (act w mk)) 0).toNat else 0
      (vtFmt ty).encode rm u (nzVal nz (v j))) ∧ counts w mk fun j => c j + nzCount nz (v j)
  let arith (w : Width) (vd va vb : BitVec 4) (mk : Option (BitVec 3)) (ty : VType) (i : Int → Int → Int) (f : Val → Val → Val) : Prop :=
    if ty.isFloat then floats w vd mk ty (fun j => f (flt w ty va j) (flt w ty vb j))
      fun j => nzCount nz (raw w ty va j) + nzCount nz (raw w ty vb j)
    else ints w vd mk ty fun j => i (int w ty va j) (int w ty vb j)
  let conv (vd va : BitVec 4) (scaled : Fmt → Fmt → Val → Val) : Prop :=
    ∀ f g, ConvFmts ins xb kfa kfo f g →
      let m := bits / max f.elem.width g.elem.width
      let v (j : Nat) : Val := scaled f g (f.decode (tab f.dt) (laneOf f.elem.width (reg va) j))
      let drawing : Bool := g.rm = 3 && !g.elem.isTab
      (drawing = true → m ≤ ds.length) ∧ d = vd ∧ out < 2 ^ (g.elem.width * m) ∧
      (∀ j, j < m → laneOf g.elem.width out j = g.encode (tab g.dt) (if drawing then (ds.getD j 0).toNat else 0) (nzVal g.nz (v j))) ∧
      nans = ((List.range m).map fun j => nzCount g.nz (v j)).sum
  match ins with
  | .vadd w vd va vb mk ty => arith w vd va vb mk ty (· + ·) Val.add
  | .vsub w vd va vb mk ty => arith w vd va vb mk ty (· - ·) fun a b => a.add b.neg
  | .vmul w vd va vb mk ty => arith w vd va vb mk ty (· * ·) Val.mul
  | .vmin w vd va vb mk ty => arith w vd va vb mk ty min Val.min
  | .vmax w vd va vb mk ty => arith w vd va vb mk ty max Val.max
  | .vfma w vd va vb vc mk ty =>
    if ty.isFloat then
      let p (j : Nat) : Val := (flt w ty va j).mul (flt w ty vb j)
      floats w vd mk ty (fun j => (nzVal nz (p j)).add (flt w ty vc j)) fun j => nzCount nz (raw w ty va j) + nzCount nz (raw w ty vb j)
        + nzCount nz (raw w ty vc j) + nzCount nz (p j)
    else ints w vd mk ty fun j => int w ty va j * int w ty vb j + int w ty vc j
  | .vabs w vd va mk ty =>
    if ty.isFloat then floats w vd mk ty (fun j => (flt w ty va j).abs) fun j => nzCount nz (raw w ty va j)
    else ints w vd mk ty fun j => (laneInt .int w.bits (x w va j)).natAbs
  | .vcmp w vd va vb mk c ck =>
    let ones (b : Bool) : Nat := if b then 2 ^ w.bits - 1 else 0
    let cmp (ty : VType) : Prop := (each w vd mk fun j =>
      ones (Compares c (decide (int w ty va j < int w ty vb j)) (decide (int w ty va j = int w ty vb j)))) ∧ nans = 0
    let cmpF (ty : VType) : Prop := (each w vd mk fun j =>
        let a := flt w ty va j
        let b := flt w ty vb j
        ones (if a.isNan || b.isNan then decide (c = .ne) else Compares c (a.lt b) (!a.lt b && !b.lt a))) ∧
      counts w mk fun j => nzCount nz (raw w ty va j) + nzCount nz (raw w ty vb j)
    match ck with
    | .s => cmp .int
    | .n => cmp .ns
    | .f16 => cmpF .f16
    | .fl => if w.bits = 16 then cmpF .bf16 else cmpF .f32
  | .vsel w vd va vb mk => (each w vd mk fun j => if x w vd j ≠ 0 then x w va j else x w vb j) ∧ nans = 0
  | .vand w vd va vb mk => (each w vd mk fun j => x w va j &&& x w vb j) ∧ nans = 0
  | .vor w vd va vb mk => (each w vd mk fun j => x w va j ||| x w vb j) ∧ nans = 0
  | .vxor w vd va vb mk => (each w vd mk fun j => x w va j ^^^ x w vb j) ∧ nans = 0
  | .vshl w vd va vb mk => (each w vd mk fun j => x w va j * 2 ^ (x w vb j % w.bits) % 2 ^ w.bits) ∧ nans = 0
  | .vshr w vd va vb mk ar => (each w vd mk fun j =>
      if ar then (int w .int va j / 2 ^ (x w vb j % w.bits) % 2 ^ w.bits).toNat else x w va j / 2 ^ (x w vb j % w.bits)) ∧ nans = 0
  | .vbcast w vd _ mk => (each w vd mk fun _ => xa.toNat % 2 ^ w.bits) ∧ nans = 0
  | .vidx w vd mk => (each w vd mk fun j => j % 2 ^ w.bits) ∧ nans = 0
  | .vperm w vd va vb mk => (each w vd mk fun j => x w va (x w vb j % n w)) ∧ nans = 0
  | .vins w vd _ nl mk nh =>
    let at_ := (if bits = 2048 then fld vctl 15 13 * (256 / w.bits) else 0) + nl.toNat + 16 * nh.toNat
    d = vd ∧ nans = 0 ∧ ∀ j, j < n w → laneOf w.bits out j = if j = at_ && act w mk j then xa.toNat % 2 ^ w.bits else x w vd j
  | .vred w vd va op mk ty =>
    let xs := ((List.range (n w)).filter (act w mk)).map (x w va)
    let top : Int := if ty = .ns then 2 ^ w.bits - 1 else 2 ^ (w.bits - 1) - 1
    let bot : Int := if ty = .ns then 0 else -(2 ^ (w.bits - 1))
    d = vd ∧ (if ty.isFloat then
      let g (a b : Val) : Val := match op with
        | .min => a.min b
        | .max => a.max b
        | _ => a.add b
      let step (k : Nat) (a b : Val) : Val :=
        (vtFmt ty).decode ((vtFmt ty).encode rm (if rm = 3 then (ds.getD k 0).toNat else 0) (nzVal nz (g a b)))
      let none_ : Val := match op with
        | .min => .inf false
        | .max => .inf true
        | _ => .zero false
      (rm = 3 → xs.length - 1 ≤ ds.length) ∧
      out = (vtFmt ty).encode 0 0 ((pairTree step 9 0 (xs.map fun c => nzVal nz ((vtFmt ty).decode c))).headD none_)
    else nans = 0 ∧ out = match op with
      | .add => fitLane ty w.bits (xs.map (laneInt ty w.bits)).sum
      | .min => fitLane ty w.bits ((xs.map (laneInt ty w.bits)).foldl min top)
      | .max => fitLane ty w.bits ((xs.map (laneInt ty w.bits)).foldl max bot)
      | .and => xs.foldl (· &&& ·) (2 ^ w.bits - 1)
      | .or => xs.foldl (· ||| ·) 0
      | .xor => xs.foldl (· ^^^ ·) 0)
  | .sfn w vd va fn mk ty =>
    (each w vd mk fun j => (vtFmt ty).encode 0 0 (sfnValue fn (flt w ty va j))) ∧ counts w mk fun j => nzCount nz (raw w ty va j)
  | .vdec vd va _ => conv vd va fun f _ v => if f.sk = 0 then v else v.scale (scaleField f.sk xb)
  | .venc vd va _ => conv vd va fun _ g v => if g.sk = 0 then v else v.div (scaleField g.sk xb)
  | .vcvt vd va _ => conv vd va fun _ _ v => v
  | _ => True

/-- R126, R138: what a short-mode instruction writes of its destination, lane by lane: the active lanes, the lane that VINS names, or the
whole register. -/
def WritesLanes (ins : Instr) (mask : BitVec 16) (m : BitVec 256) : Prop :=
  let each (w : Width) (f : Nat → Bool) : Prop := ∀ j, j < 256 / w.bits → laneOf w.bits m.toNat j = if f j then 2 ^ w.bits - 1 else 0
  match ins with
  | .vadd w _ _ _ mk _ | .vsub w _ _ _ mk _ | .vmul w _ _ _ mk _ | .vfma w _ _ _ _ mk _ | .vmin w _ _ _ mk _ | .vmax w _ _ _ mk _
  | .vabs w _ _ mk _ | .vcmp w _ _ _ mk _ _ | .vsel w _ _ _ mk | .vand w _ _ _ mk | .vor w _ _ _ mk | .vxor w _ _ _ mk
  | .vshl w _ _ _ mk | .vshr w _ _ _ mk _ | .vbcast w _ _ mk | .vidx w _ mk | .vperm w _ _ _ mk | .sfn w _ _ _ mk _ =>
    each w fun j => activeLane w.bits mk mask j
  | .vins w _ _ nl mk nh => each w fun j => j = nl.toNat + 16 * nh.toNat && activeLane w.bits mk mask j
  | _ => m = BitVec.allOnes 256

/-- R138: the lane that VMOVX takes of a register, as its value. -/
def movxValue (bits v : Nat) (vctl : BitVec 16) (nl : BitVec 4) (nh : BitVec 1) (sx : Bool) (szx : BitVec 2) : Word :=
  let w := [16, 32, 64, 8].getD szx.toNat 8
  let c := laneOf w v ((if bits = 2048 then fld vctl 15 13 * (256 / w) else 0) + nl.toNat + 16 * nh.toNat)
  if sx && 2 ^ (w - 1) ≤ c then BitVec.ofInt 64 ((c : Int) - 2 ^ w) else BitVec.ofNat 64 c

/-- The decode tables of core `k` (R113). -/
def State.tables (s : State) (k : Nat) (t : Nat) : Table := if t = 0 then (s.core k).dt0 else (s.core k).dt1

/-- R67, R126, R127, R134 to R143: an entry of the issue table gives the latched short-mode instruction its pipe; the result is fixed for the
last busy core cycle, with the lanes that it writes. Its draws begin with those that it took when it issued (R116). -/
def VectorGrantFixesTheResult : Prop :=
  ∀ (s : State) (k n : Nat) (l : Latch), n < 8 →
    let i := 8 * k + n
    let c := s.core k
    let sl := s.slot i
    let sfn := match l.instr with
      | .sfn .. => true
      | _ => false
    let e := s.effEntry k (s.dclk % 32)
    sl.latch = some l → l.long = false → l.res = none → s.octRuns (k / 8) = true →
    (if sfn then c.sfree ≤ s.dclk ∧ e.getLsbD 7 = false ∧ fld e 6 4 = n else c.vfree ≤ s.dclk ∧ e.getLsbD 3 = false ∧ fld e 2 0 = n) →
    ∃ (t : State) (r : VResult), exec (.vectorGrant k n) s = .next t ∧ (t.slot i).latch = some { l with res := some r } ∧
      (t.slot i).regs = sl.regs ∧ t.mm = s.mm ∧ (∀ j, j ≠ i → t.slot j = s.slot j) ∧
      r.until_ + 1 = s.dclk + vecBusy l.instr ∧ (if sfn then (t.core k).sfree else (t.core k).vfree) = s.dclk + vecBusy l.instr ∧
      (wellFormed l.instr = true → GivesVector l.instr l.xb sl.task.kfa sl.task.kfo → r.xw = none ∧ WritesLanes l.instr l.mask r.lanes ∧
        ∃ (d : BitVec 4) (v : BitVec 256) (ds : List (BitVec 32)), r.vw = some (d, v) ∧ ds.take l.draws.length = l.draws ∧
          VecResult 256 l.instr (fun x => (s.vreg i x).toNat) l.mask sl.ctl.vctl l.xa l.xb sl.task.kfa sl.task.kfo (s.tables k) ds d
            v.toNat r.nans) ∧
      (∀ d va nl nh sx szx, l.instr = .vmovx d va nl nh sx szx → r.vw = none ∧ r.nans = 0 ∧
        r.xw = some (l.dst, movxValue 256 (s.vreg i va).toNat sl.ctl.vctl nl nh sx szx))

/-- R127: in the last busy core cycle the lanes of the short-mode result are written and the others keep what they hold, NaNs are counted, and
the latch is empty. -/
def VectorResultIsWritten : Prop :=
  ∀ (s : State) (k n : Nat) (l : Latch) (r : VResult), n < 8 →
    let i := 8 * k + n
    (s.slot i).latch = some l → l.res = some r → r.until_ ≤ s.dclk →
    ∃ t, exec (.vectorResult k n) s = .next t ∧ (t.slot i).latch = none ∧ (t.slot i).pc = (s.slot i).pc ∧ t.mm = s.mm ∧
      (t.slot i).ctl.nancnt.toNat = min 0xFFFFFFFF ((s.slot i).ctl.nancnt.toNat + r.nans) ∧
      (∀ j, j ≠ i → t.slot j = s.slot j) ∧ (∀ d v, r.xw = some (d, v) → Landed s t i d v) ∧
      (r.xw = none → (t.slot i).regs.x = (s.slot i).regs.x ∧ t.cores = s.cores) ∧
      ∀ x : BitVec 4, t.vreg i x = match r.vw with
        | some (vd, v) => if x = vd then (v &&& r.lanes) ||| (s.vreg i vd &&& ~~~r.lanes) else s.vreg i x
        | none => s.vreg i x

end Sys2Proof.Machine

/-- R67, R126, R127, R134 to R143: an entry of the issue table gives the latched short-mode instruction its pipe; the result is fixed for the last
busy core cycle, with the lanes that it writes. R127: in the last busy core cycle those lanes of the destination are written and the others keep
what they hold, NaNs are counted, and the latch is empty. -/
def Obligations.VectorResults : Prop :=
  VectorGrantFixesTheResult ∧ VectorResultIsWritten

namespace Sys2Proof.Machine

/-- The latch of a long-mode command is empty of it, or waits for the value of a VMOVX (R129). -/
def LeftLatch (l : Latch) (a : Option Latch) : Prop :=
  match l.instr with
  | .vmovx .. => a = some { l with sent := true }
  | _ => a = none

/-- R128 to R132, R144 to R146: long mode: VMODE takes the lowest free window or answers 2, and gives it back when no command is left;
VFENCE waits; a command leaves the latch for its window's queue, the unit starts it at an arithmetic-cycle boundary with the registers as
they are then, and completes it. -/
def LongMode : Prop :=
  ∀ (s : State) (d : Reg),
    let i := s.cur
    let o := octetOf (i / 8)
    let sl := s.slot i
    let free (w : Nat) : Prop := w < 8 ∧ (s.win o w).holder = none
    (s.able [] [d] → sl.longMode = false →
      (∀ w, free w → (∀ v, v < w → ¬ free v) → ∃ t, exec (.vmode d true) s = .next t ∧ Wrote s t i d 0 ∧
        (t.slot i).pc = sl.npc ∧ (t.slot i).longMode = true ∧ (t.slot i).regs.v = sl.regs.v ∧ t.mm = s.mm ∧
        t.win o w = { holder := some i, regs := Vector.replicate 16 0, queue := [] } ∧ ∀ v, v ≠ w → t.win o v = s.win o v) ∧
      ((∀ w, ¬ free w) → Yields (.vmode d true) s [] d 2) ∧
      (sl.vbusy = 0 → Yields (.vmode d false) s [] d 0)) ∧
    (s.able [] [d] → sl.longMode = true → Yields (.vmode d true) s [] d 0 ∧
      (sl.vbusy = 0 → ∃ t, exec (.vmode d false) s = .next t ∧ Wrote s t i d 0 ∧ (t.slot i).pc = sl.npc ∧
        (t.slot i).longMode = false ∧ t.mm = s.mm ∧ ∀ w, s.window? i = some w → (t.win o w).holder = none) ∧
      (sl.vbusy ≠ 0 → exec (.vmode d false) s = .next (s.modSlot i fun sl => { sl with st := .stall }))) ∧
    (s.able [] [] → (sl.vbusy = 0 → GoesTo .vfence s [] sl.npc) ∧
      (sl.vbusy ≠ 0 → exec .vfence s = .next (s.modSlot i fun sl => { sl with st := .stall }))) ∧
    (s.able [] [d] → ∃ v : Word, Yields (.vstat d) s [] d v ∧ v.getLsbD 0 = sl.longMode ∧ v.getLsbD 1 = sl.coprocRaised ∧
      (s.window? i = none → (s.oct o).lvRun = none → fld v 9 4 = 0))

/-- R129, R130, R134 to R143: the way of a long-mode command from the latch to its window's registers, and what it writes there. -/
def LongModeCommands : Prop :=
  ∀ (s : State) (k n o w : Nat), n < 8 →
    let i := 8 * k + n
    (∀ l, o = octetOf k → (s.slot i).latch = some l → l.long = true → l.sent = false → s.window? i = some w →
      (s.oct o).accepted w < 8 → ∃ t, exec (.lvCommandEnqueue k n) s = .next t ∧
        t.win o w = { s.win o w with queue := (s.win o w).queue ++ [{ slot := i, cmd := l }] } ∧
        LeftLatch l (t.slot i).latch ∧ (t.slot i).regs = (s.slot i).regs ∧ t.mm = s.mm) ∧
    (∀ q rest, s.dclk % 2 = 0 → s.sched.begun = false → (s.oct o).lvRun = none → s.octRuns o = true → s.nextWindow o = some w → (s.win o w).queue = q :: rest →
      ∃ t r, exec (.lvCommandStart o) s = .next t ∧ (t.oct o).lvRun = some r ∧ r.win = w ∧ r.cmd = q ∧ r.dead = false ∧
        r.src = (s.win o w).regs.toList ∧ r.until_ + 1 = s.dclk + 2 * lvBusy q.cmd.instr ∧ (t.oct o).lvLast = w ∧
        t.win o w = { s.win o w with queue := rest } ∧ t.slots = s.slots ∧ t.mm = s.mm) ∧
    (∀ r l, (s.oct o).lvRun = some r → r.until_ ≤ s.dclk → r.dead = false → r.win = w → r.cmd.slot = i → o = octetOf k → r.cmd.cmd = l →
      (s.slot i).st = .ready →
      let sl := s.slot i
      let seed := match (s.core k).seedOld with
        | some (c, v) => if c = s.dclk then v else (s.core k).rseed
        | none => (s.core k).rseed
      let ended (t : State) : Prop := exec (.lvCommandComplete o) s = .next t ∧ (t.oct o).lvRun = none ∧
        (t.win o w).queue = (s.win o w).queue ∧ (t.slot i).vbusy = sl.vbusy - 1 ∧ get? (t.core k).ring l.seq = none ∧ t.mm = s.mm
      (wellFormed l.instr = true → GivesVector l.instr l.xb sl.task.kfa sl.task.kfo → ∃ t ds d out nans, ended t ∧ (t.slot i).regs = sl.regs ∧
        VecResult 2048 l.instr (fun x => (r.src.getD x.toNat 0).toNat) l.mask l.vctl l.xa l.xb sl.task.kfa sl.task.kfo (s.tables k) ds d
          out nans ∧
        (∀ j, j < ds.length → ds.getD j 0 = Nat.iterate nextDraw (j + 1) seed) ∧
        (t.slot i).ctl.nancnt.toNat = min 0xFFFFFFFF (sl.ctl.nancnt.toNat + nans) ∧
        ∀ x : BitVec 4, (t.win o w).regs.getD x.toNat 0 = if x = d then BitVec.ofNat 2048 out else (s.win o w).regs.getD x.toNat 0) ∧
      (∀ d va nl nh sx szx, l.instr = .vmovx d va nl nh sx szx → ∃ t, ended t ∧ (t.slot i).latch = none ∧
        Landed s t i l.dst (movxValue 2048 (r.src.getD va.toNat 0).toNat l.vctl nl nh sx szx) ∧ (t.win o w).regs = (s.win o w).regs))

end Sys2Proof.Machine

/-- R128 to R132, R144 to R146: long mode: VMODE takes the lowest free window or answers 2, and gives it back when no command is left;
VFENCE waits; a command leaves the latch for its window's queue, the unit starts it at an arithmetic-cycle boundary with the registers as
they are then, and completes it. R129, R130, R134 to R143: the way of a long-mode command from the latch to its window's registers, and what it
writes there. -/
def Obligations.LongModeRuns : Prop :=
  LongMode ∧ LongModeCommands

/-- R163: the vector loads and stores of the own core's local memory complete in their turn, a lane at a time for the strided ones. -/
def Obligations.VectorLoadsAndStores : Prop :=
  ∀ (s : State) (w : Width) (vd : BitVec 4) (a b : Reg) (imm : BitVec 16) (h : Hint) (pa : Nat) (pas : Nat → Nat),
    let i := s.cur
    let ea := s.rv a + BitVec.ofInt 64 imm.toInt
    let m := w.bits / 8
    let ranV (t : State) (v : BitVec 256) (srcs : List Reg) : Prop :=
      Ran (s.newId.2.setVreg i vd v) t srcs [] (s.slot i).npc ∧ t.mm = s.mm
    (s.slot i).longMode = false →
    (s.able [a] [] → InOwnMemory s ea 32 pa →
      (s.poisoned pa 32 = false → ∃ t v, exec (.vld vd a imm h) s = .next t ∧ ranV t v [a] ∧
        ∀ j, j < 32 → v.extractLsb' (8 * j) 8 = s.mm.bytes.byte (pa + j)) ∧
      (∃ t, exec (.vst vd a imm h) s = .next t ∧ RanOnMemory s t [a] [] ∧ StoredAt s t pa 32 (s.vreg i vd).toNat)) ∧
    (s.able [a, b] [] → (∀ j, j < 32 / m → InOwnMemory s (ea + BitVec.ofNat 64 j * s.rv b) m (pas j)) →
      ((∀ j, j < 32 / m → s.poisoned (pas j) m = false) → ∃ t v, exec (.vldx w vd a b imm h) s = .next t ∧ ranV t v [a, b] ∧
        ∀ j x, j < 32 / m → x < m → v.extractLsb' (8 * (m * j + x)) 8 = s.mm.bytes.byte (pas j + x)) ∧
      ((∀ j l, j < 32 / m → l < j → pas l ≠ pas j) → ∃ t, exec (.vstx a b w vd imm h) s = .next t ∧ RanOnMemory s t [a, b] [] ∧
        (∀ j x, j < 32 / m → x < m → t.mm.bytes.byte (pas j + x) = (s.vreg i vd).extractLsb' (8 * (m * j + x)) 8) ∧
        (∀ x, (∀ j, j < 32 / m → ¬ (pas j ≤ x ∧ x < pas j + m)) → t.mm.bytes.byte x = s.mm.bytes.byte x) ∧
        t.mm.full = s.mm.full ∧ t.mm.feq = s.mm.feq))

namespace Sys2Proof.Machine

/-! The matrix unit (ch. 9). -/

/-- R168: from `s` to `t` the running slot has put `ins` with these operand values at the end of its core's matrix queue, with the next ring
entry, counted it in tl, and gone on; its registers and memory stay. -/
def Queued (s t : State) (ins : Instr) (srcs : List Reg) (a b c : Word) : Prop :=
  let i := s.cur
  let k := i / 8
  let sl := s.slot i
  let m := (s.oct (octetOf k)).mat
  ∃ op : MatOp, (t.core k).mat.queue = (s.core k).mat.queue ++ [op] ∧ op.instr = ins ∧ op.a = a ∧ op.b = b ∧ op.c = c ∧ op.slot = i ∧
    op.seq = (s.core k).ringNext ∧ op.order = m.count ∧ op.ti = sl.task ∧ (t.oct (octetOf k)).mat.count = m.count + 1 ∧
    (t.core k).ringNext = ((s.core k).ringNext + 1) % 64 ∧ (get? (t.core k).ring op.seq).isSome = true ∧
    t.slot i = { sl.goneTo sl.npc sl.regs with task := (t.slot i).task, cnt := { sl.cnt with tl := sl.cnt.tl + 1 } } ∧
    t.mm = s.mm ∧ (∀ j, j ≠ i → t.slot j = s.slot j) ∧ (∀ j, j ≠ k → t.core j = s.core j) ∧
    (t.core k).mat.acc = (s.core k).mat.acc ∧
    ∀ p, p < 3 → t.intakeOf k p = if Reg.y (BitVec.ofNat 5 (28 + p)) ∈ srcs then (s.intakeOf k p).drop 1 else s.intakeOf k p

/-- R168, R176 to R180: a matrix operation joins its core's queue with its operands as they are at issue, while the queue has room for it, a
ring entry is free and tl is below 15; else its head stays in STALL. On a replaying core the record stands for the room (R378, log 30). -/
def MatrixOperationsAreQueued : Prop :=
  ∀ (s : State) (a b c : Reg) (row0 m1 : BitVec 7) (z wk fl drop : Bool) (l : BitVec 1) (h : Hint) (imm : BitVec 16),
    let i := s.cur
    let sl := s.slot i
    sl.unstepped = true → sl.task.pure = false →
    let room : Prop := ((s.core (i / 8)).mat.busy s.dclk < 16 ∨ s.replays (i / 8) = true) ∧
      get? (s.core (i / 8)).ring (s.core (i / 8)).ringNext = none ∧ sl.cnt.tl < 15
    let issues (ins : Instr) (srcs : List Reg) (x y v : Word) : Prop := s.portCheck i srcs [] = .ok →
      (room → ∃ t, exec ins s = .next t ∧ Queued s t ins srcs x y v) ∧
      (¬ room → exec ins s = .next (s.modSlot i fun sl => { sl with st := .stall }))
    issues (.tmma a c row0 m1 z l) [a, c] (s.rv a) 0 (s.rv c) ∧
    issues (.tzero a) [a] (s.rv a) 0 0 ∧
    issues (.tbld a b h l) [a, b] (s.rv a) (s.rv b) 0 ∧
    issues (.tbpass drop l) [] 0 0 0 ∧
    issues (.tdrain a b c imm z wk fl) [a, b, c] (s.rv a + BitVec.ofInt 64 imm.toInt) (s.rv b) (s.rv c)

/-- R182 to R184: TFENCE waits until tl is 0; TSTAT reads the NaN row bits, which `.clr` clears, and the unit's state; TWGT sets a core's
weight and gives the old one. -/
def MatrixStateInstructions : Prop :=
  ∀ (s : State) (d a b : Reg),
    let i := s.cur
    let k := i / 8
    let m := (s.core k).mat
    let o := (s.oct (octetOf k)).mat
    (s.able [] [] → ((s.slot i).cnt.tl = 0 → GoesTo .tfence s [] (s.slot i).npc) ∧
      ((s.slot i).cnt.tl ≠ 0 → exec .tfence s = .next (s.modSlot i fun sl => { sl with st := .stall }))) ∧
    (s.able [] [d] →
      Yields (.tstat d false 1) s [] d (m.nanRows.extractLsb' 0 64) ∧ Yields (.tstat d false 2) s [] d (m.nanRows.extractLsb' 64 64) ∧
      (∃ t, exec (.tstat d true 1) s = .next t ∧ Wrote s t i d (m.nanRows.extractLsb' 0 64) ∧ (t.slot i).pc = (s.slot i).npc ∧
        (t.core k).mat = { m with nanRows := m.nanRows.extractLsb' 64 64 ++ (0 : BitVec 64) } ∧ t.mm = s.mm) ∧
      (∃ t, exec (.tstat d true 2) s = .next t ∧ Wrote s t i d (m.nanRows.extractLsb' 64 64) ∧ (t.slot i).pc = (s.slot i).npc ∧
        (t.core k).mat = { m with nanRows := (0 : BitVec 64) ++ m.nanRows.extractLsb' 0 64 } ∧ t.mm = s.mm) ∧
      (∃ v : Word, Yields (.tstat d false 0) s [] d v ∧ (m.queue.length ≤ 16 →
        fld v 4 0 = m.queue.length ∧ fld v 13 5 = 0 ∧ v.getLsbD 14 = o.l0.inc.isSome ∧ v.getLsbD 15 = o.l1.inc.isSome ∧
        fld v 17 16 = o.l0.st.num ∧ fld v 19 18 = o.l1.st.num ∧ fld v 23 20 = m.weight.toNat ∧ v.getLsbD 24 = (m.nanRows != 0)))) ∧
    (s.able [a, b] [d] → ∃ t, exec (.twgt d a b) s = .next t ∧ (t.slot i).pc = (s.slot i).npc ∧ t.mm = s.mm ∧
      let c := 8 * octetOf k + fld (s.rv b) 2 0
      Wrote s t i d ((s.core c).mat.weight.setWidth 64) ∧ (t.core c).mat.weight.toNat = fld (s.rv a) 3 0 ∧
      ∀ j, j ≠ c → (t.core j).mat = (s.core j).mat)

end Sys2Proof.Machine

/-- R168, R176 to R180: a matrix operation joins its core's queue with its operands as they are at issue, while the queue has room for it, a
ring entry is free and tl is below 15; else its head stays in STALL. R182 to R184: TFENCE waits until tl is 0; TSTAT reads the NaN row bits,
which `.clr` clears, and the unit's state; TWGT sets a core's weight and gives the old one. -/
def Obligations.MatrixInstructionsIssue : Prop :=
  MatrixOperationsAreQueued ∧ MatrixStateInstructions

namespace Sys2Proof.Machine

/-- What the end of a matrix operation `op` leaves of its slot: its ring entry is free and tl has fallen (R168). -/
def OpEnded (s t : State) (op : MatOp) : Prop :=
  (t.slot op.slot).cnt = { (s.slot op.slot).cnt with tl := (s.slot op.slot).cnt.tl - 1 } ∧
  (t.slot op.slot).pc = (s.slot op.slot).pc ∧ get? (t.core (op.slot / 8)).ring op.seq = none

/-- R168 to R170, R176 to R180: the operation at the head of a core's queue starts when its unit and its latch allow it: TZERO runs for two
core cycles; TBPASS that drops its tile ends with this core cycle, and one that passes it on is SENDING for 64; a load begins with the latch
LOADING; TDRAIN begins with its checks made; a TMMA whose tile can be read holds the array for 64 core cycles. -/
def MatrixOperationsStart : Prop :=
  ∀ (s : State) (k : Nat) (op : MatOp) (rest : List MatOp), s.matrixStarts k = true → (s.core k).mat.queue = op :: rest → op.slot / 8 = k →
    (s.slot op.slot).st = .ready →
    let o := octetOf k
    let starts (q : State → Prop) : Prop :=
      ∃ t, exec (.matrixOpStart k) s = .next t ∧ (t.core k).mat.queue = rest ∧ (t.core k).mat.acc = (s.core k).mat.acc ∧ q t
    (∀ a, op.instr = .tzero a → starts fun t => t.slots = s.slots ∧ t.mm = s.mm ∧
      ∃ r, (t.core k).mat.run = some r ∧ r.op = op ∧ r.until_ = s.dclk + 1) ∧
    (∀ l, op.instr = .tbpass true l → starts fun t => t.slots = s.slots ∧ t.mm = s.mm ∧
      ∃ r, ((t.oct o).mat.latch l).run = some (k, r) ∧ r.op = op ∧ r.until_ = s.dclk) ∧
    (∀ l, op.instr = .tbpass false l → starts fun t => t.slots = s.slots ∧ ((t.oct o).mat.latch l).st = .sending ∧
      ∃ r, ((t.oct o).mat.latch l).run = some (k, r) ∧ r.op = op ∧ r.until_ = s.dclk + 63) ∧
    (∀ a b h l, op.instr = .tbld a b h l → (∀ f, tileFmt (tileWord b op.b op.ti.kfb) = some f → f.sk ≠ 3 ∨ b ≠ .x 0) →
      starts fun t => t.slots = s.slots ∧ t.mm = s.mm ∧ ((t.oct o).mat.latch l).st = .loading ∧
      ∃ r, ((t.oct o).mat.latch l).run = some (k, r) ∧ r.op = op ∧
        (∀ sk, (s.tbldStart op b).1 = .ok sk → r.fault = none ∧ r.sk3 = sk ∧ r.until_ = s.dclk + tbldCycles op b - 1) ∧
        (∀ x, (s.tbldStart op b).1 = .error (some x) → r.fault = some x ∧ r.until_ = s.dclk)) ∧
    (∀ a b c imm z wk fl, op.instr = .tdrain a b c imm z wk fl → starts fun t => t.slots = s.slots ∧ t.mm = s.mm ∧
      ∃ r, (t.core k).mat.run = some r ∧ r.op = op ∧ r.sent = false ∧ r.rows = 0 ∧ (∀ p, s.drainPlan op fl = .ok p → r.fault = none) ∧
        ∀ x, s.drainPlan op fl = .error x → r.fault = some x) ∧
    (∀ a c row0 m1 z l b, op.instr = .tmma a c row0 m1 z l → ((s.oct o).mat.latch l).tile = some b →
      (∀ f, tileFmt (tileWord c op.c op.ti.kfa) = some f → f.sk ≠ 3 ∨ c ≠ .x 0) →
      (∀ x, (s.tmmaTile op c (m1.toNat + 1) b).1 = .ok x → starts fun t => (t.oct o).mat.free = s.dclk + 64 ∧
        ∃ r, (t.core k).mat.run = some r ∧ r.op = op ∧ r.fault = none ∧ r.tile = some x ∧ r.btile = some b ∧ r.until_ = s.dclk + 63) ∧
      (∀ x, (s.tmmaTile op c (m1.toNat + 1) b).1 = .error (some x) → starts fun t => t.mm = s.mm ∧
        ∃ r, (t.core k).mat.run = some r ∧ r.op = op ∧ r.fault = some x ∧ r.until_ = s.dclk))

/-- R174, R176, R177: a running TMMA and a running TZERO write their rows and no other, and complete. R185: a TMMA that met a fault at its
start writes no row, and COPROC is raised for its slot. -/
def RowsAreWritten : Prop :=
  ∀ (s : State) (k : Nat) (r : MatRun), (s.core k).mat.run = some r → r.op.slot / 8 = k → r.until_ ≤ s.dclk →
    (s.slot r.op.slot).st = .ready → (s.slot r.op.slot).exit = .none →
    let m := (s.core k).mat
    let row (mat : MatCore) (x n : Nat) : BitVec 32 := look mat.acc (256 * x + n) 0
    (∀ a, r.op.instr = .tzero a → ∃ t, exec (.tzeroComplete k) s = .next t ∧ OpEnded s t r.op ∧ (t.core k).mat.run = none ∧ t.mm = s.mm ∧
      let lo := if a = .x 0 then 0 else fld r.op.a 6 0
      let hi := if a = .x 0 then 128 else min 128 (lo + fld r.op.a 15 8)
      (∀ x n, n < 256 → row (t.core k).mat x n = if lo ≤ x ∧ x < hi then 0 else row m x n) ∧
      ∀ x, x < 128 → (t.core k).mat.nanRows.getLsbD x = (m.nanRows.getLsbD x && !(decide (lo ≤ x) && decide (x < hi)))) ∧
    (∀ a c row0 m1 z l x, r.op.instr = .tmma a c row0 m1 z l → r.fault = some x → r.quiet = false → ∃ t, exec (.tmmaComplete k) s = .next t ∧
      (t.core k).mat.run = none ∧ (t.core k).mat.acc = m.acc ∧ t.mm = s.mm ∧ (t.slot r.op.slot).coprocRaised = true) ∧
    (∀ a c row0 m1 z l ta tb fa fb, r.op.instr = .tmma a c row0 m1 z l → r.fault = none → r.tile = some ta → r.btile = some tb → tileFmt ta.fw = some fa →
      tileFmt tb.fw = some fb → ∃ t, exec (.tmmaComplete k) s = .next t ∧ OpEnded s t r.op ∧ (t.core k).mat.run = none ∧ t.mm = s.mm ∧
      let fo := tmmaOut c r.op.c r.op.ti.kfo
      let out := tmmaRun ta tb fa fb (m1.toNat + 1) (fld fo 11 10) (fo.getLsbD 9) fun x n => if z then 0 else row m (row0.toNat + x) n
      (∀ x n, n < 256 → x < row0.toNat ∨ row0.toNat + out.rows.length ≤ x → row (t.core k).mat x n = row m x n) ∧
      (∀ j vs n, out.rows[j]? = some vs → vs.length ≤ 256 → n < vs.length → row (t.core k).mat (row0.toNat + j) n = vs.getD n 0))

/-- R170, R178, R179: the end of a load leaves its latch FULL with the tile that was read, or EMPTY where the load faulted; the end of a
TBPASS's move leaves the latch released and the tile in the next unit. -/
def LatchesFillAndPass : Prop :=
  ∀ (s : State) (o k : Nat) (l : BitVec 1) (r : MatRun), ((s.oct o).mat.latch l).run = some (k, r) → r.until_ ≤ s.dclk →
    (s.slot r.op.slot).st = .ready →
    let u := o / 16 * 16 + (o % 16 + 1) % 16
    (∀ a b h x, r.op.instr = .tbld a b h l → (s.tbldTile r b h).1 = .ok x → ∃ t, exec (.tbldComplete o l) s = .next t ∧
      OpEnded s t r.op ∧ ((t.oct o).mat.latch l).st = .full ∧ ((t.oct o).mat.latch l).tile = some x ∧
      ((t.oct o).mat.latch l).run = none) ∧
    (∀ a b h e, r.op.instr = .tbld a b h l → (s.tbldTile r b h).1 = .error (some e) → ((s.oct o).mat.latch l).inc = none →
      ∃ t, exec (.tbldComplete o l) s = .next t ∧ ((t.oct o).mat.latch l).st = .empty ∧ ((t.oct o).mat.latch l).run = none) ∧
    (∀ drop, r.op.instr = .tbpass drop l → ((s.oct o).mat.latch l).inc = none → ∃ t, exec (.tbpassMoveEnd o l) s = .next t ∧
      OpEnded s t r.op ∧ t.mm = s.mm ∧ ((t.oct o).mat.latch l).st = .empty ∧
      ((t.oct o).mat.latch l).done = ((s.oct o).mat.latch l).done + 1 ∧
      (drop = true → (t.oct u).mat.latch l = (s.oct u).mat.latch l) ∧
      (drop = false →
      let b := (s.oct u).mat.latch l
      (t.oct u).mat.latch l = if b.st = .empty ∧ ((s.oct o).mat.latch l).tile.isSome = true
        then { b with st := .full, tile := ((s.oct o).mat.latch l).tile, inc := none }
        else { b with inc := ((s.oct o).mat.latch l).tile }))

end Sys2Proof.Machine

/-- R168 to R170, R176 to R180: the operation at the head of a core's queue starts when its unit and its latch allow it: TZERO runs for two
core cycles; TBPASS that drops its tile ends with this core cycle, and one that passes it on is SENDING for 64; a load begins with the latch
LOADING; TDRAIN begins with its checks made; a TMMA whose tile can be read holds the array for 64 core cycles. R174, R176, R177: a running
TMMA and a running TZERO write their rows and no other, and complete. R170, R178, R179: the end of a load leaves its latch FULL with the
tile that was read, or EMPTY where the load faulted; the end of a TBPASS's move leaves the latch released and the tile in the next unit. -/
def Obligations.MatrixOperationsRun : Prop :=
  MatrixOperationsStart ∧ RowsAreWritten ∧ LatchesFillAndPass

namespace Sys2Proof.Machine

/-- R180, R181, R155: a running TDRAIN into scratch banks, where no page is in a flip and no full/empty access waits, writes its rows and then its
flag word below them, the bytes drained, which is FULL; no other byte changes. Then its message goes to the target core, with the code line that
`.w` asks for. -/
def DrainsWriteTheirRows : Prop :=
  ∀ (s : State) (k : Nat) (r : MatRun) (a b c : Reg) (imm : BitVec 16) (z wk fl : Bool) (p : DrainPlan),
    (s.core k).mat.run = some r → r.op.instr = .tdrain a b c imm z wk fl → r.op.slot / 8 = k → r.sent = false → r.quiet = false →
    r.fault = none → r.rows = 0 → r.until_ ≤ s.dclk → s.drawsLate k r.op = false → s.drainPlan r.op fl = .ok p →
    (∀ b, b < 32 → s.role p.target b = 0) → (∀ x, isLm x = true → s.pageBusy x = false) → s.mm.feq = [] →
    let rows := (s.drainRows r p z p.cnt).2.1.mm
    let flag := lmAddr p.target (r.op.a.toNat % 0x20000 - 8)
    ∃ t n w, exec (.tdrainComplete k) s = .next t ∧ (fl = false → t.mm = rows) ∧
      (fl = true → (∀ x, t.mm.bytes.byte x =
          if flag ≤ x ∧ x < flag + 8 then BitVec.ofNat 8 (p.cnt * p.rowBytes / 256 ^ (x - flag)) else rows.bytes.byte x) ∧
        (∀ x, x ∈ t.mm.full ↔ x = flag ∨ x ∈ rows.full) ∧ ∀ x, x ∈ t.mm.poison ↔ x ∈ rows.poison ∧ x ≠ flag) ∧
      (t.core k).mat.run = some { r with rows := p.cnt, sent := true } ∧ get? t.net.wakes n = some w ∧ w.target = p.target ∧
      w.pc = (if wk then some r.op.c else none) ∧ w.sender = r.op.slot ∧ w.core = k ∧ w.dead = false ∧
      w.dst.toNat = 0x00FFFF0000000000 + r.op.a.toNat % 0x20000

/-- R181, R36, R37: the arrival of a wake-up message starts its code line on a free task slot of the target core, the lowest (log 8's choice), or
places it at the end of the core's wake queue where none is free; with it the TDRAIN completes. -/
def WakeUpMessagesArrive : Prop :=
  ∀ (s : State) (n : Nat) (w : WakeMsg) (r : MatRun), get? s.net.wakes n = some w →
    (∀ v, s.part? w.ti.part = some v → v.gang = .running) →
    (s.core w.core).mat.run = some r → r.sent = true → r.op.slot / 8 = w.core → (s.slot r.op.slot).st = .ready →
    let arrives (q : State → Prop) : Prop := ∃ t, exec (.wakeupMessage n) s = .next t ∧ get? t.net.wakes n = none ∧ t.mm = s.mm ∧
      (t.core w.core).mat.run = none ∧ OpEnded s t r.op ∧ q t
    (w.dead = true ∨ w.pc = none → arrives fun t => ∀ i, i ≠ r.op.slot → t.slot i = s.slot i) ∧
    (∀ pc, w.dead = false → w.pc = some pc → (s.core w.target).wakeQ.length < 16 → s.corePart w.target = some w.ti.part →
      s.freeTaskSlot w.target = none → arrives fun t => (∀ i, i ≠ r.op.slot → t.slot i = s.slot i) ∧
        ∃ line, (t.core w.target).wakeQ = (s.core w.target).wakeQ ++ [line] ∧ line.pc = pc ∧ line.x1 = w.dst ∧
          line.x2 = BitVec.ofNat 64 w.sender) ∧
    (∀ pc j, w.dead = false → w.pc = some pc → (s.core w.target).wakeQ = [] → s.corePart w.target = some w.ti.part →
      s.freeTaskSlot w.target = some j → arrives fun t => (∀ i, i ≠ r.op.slot → i ≠ j → t.slot i = s.slot i) ∧
        (t.slot j).st = .ready ∧ (t.slot j).pc = pc ∧ (t.slot j).lv = .u ∧ (t.slot j).task.part = w.ti.part ∧
        ∀ x, x < 32 → (t.slot j).regs.x.getD x 0 = if x = 1 then w.dst else if x = 2 then BitVec.ofNat 64 w.sender else 0)

end Sys2Proof.Machine

/-- R180, R181, R155: a running TDRAIN into scratch banks, where no page is in a flip and no full/empty access waits, writes its rows and then its
flag word below them, the bytes drained, which is FULL; no other byte changes. Then its message goes to the target core, with the code line that
`.w` asks for. R181, R36, R37: the arrival of a wake-up message starts its code line on a free task slot of the target core, the lowest (log 8's
choice), or places it at the end of the core's wake queue where none is free; with it the TDRAIN completes. -/
def Obligations.DrainsAndWakeUpMessages : Prop :=
  DrainsWriteTheirRows ∧ WakeUpMessagesArrive

namespace Sys2Proof.Machine

/-! The copy engine, mailboxes and user-level interrupts (ch. 10). -/

/-- R200: from `s` to `t` the running slot has put a request with these words at the end of its core's FIFO, counted it in cp, reserved its
mailbox entry where it needs one, and gone on. -/
def Pushed (s t : State) (what : CopyWhat) (w0 w1 w2 w3 : Word) (need : Bool) : Prop :=
  let i := s.cur
  let k := i / 8
  let sl := s.slot i
  ∃ r : CopyReq, (t.core k).cpy.fifo = (s.core k).cpy.fifo ++ [r] ∧ r.what = what ∧ r.w0 = w0 ∧ r.w1 = w1 ∧ r.w2 = w2 ∧ r.w3 = w3 ∧
    r.slot = i ∧ r.pc = sl.pc ∧ r.lv = sl.lv ∧ r.ti = sl.task ∧ r.dead = false ∧ (t.slot i).pc = sl.npc ∧ (t.slot i).st = .ready ∧
    (t.slot i).cnt = { sl.cnt with cp := sl.cnt.cp + 1 } ∧ (t.slot i).mboxRsv = (if need then sl.mboxRsv + 1 else sl.mboxRsv) ∧
    (t.slot i).mbox = sl.mbox ∧ t.mm = s.mm ∧ (∀ j, j ≠ i → t.slot j = s.slot j) ∧ ∀ j, j ≠ k → t.core j = s.core j

/-- R200, R205, R221: CPY, TOKACC and PFT push a request while the FIFO has room for it, cp is below 15 and a mailbox entry can be reserved
where the request needs one; else the head stays in STALL. CPYT answers 0, or 2 or 1 with no effect. -/
def CopyRequestsArePushed : Prop :=
  ∀ (s : State) (d a b : Reg) (q : BitVec 3) (imm : BitVec 16) (h : Hint),
    let i := s.cur
    let sl := s.slot i
    let x (j : Nat) : Word := sl.readX (BitVec.ofNat 5 (4 * q.toNat + j))
    let quiet : Bool := (x 0).getLsbD 9
    let full : Prop := 8 ≤ (s.core (i / 8)).cpy.fifo.length
    let busy (need : Bool) : Prop := 15 ≤ sl.cnt.cp ∨ (need = true ∧ 16 ≤ sl.mbox.length + sl.mboxRsv)
    let stalls (ins : Instr) : Prop := exec ins s = .next (s.modSlot i fun sl => { sl with st := .stall })
    let ea := s.rv a + BitVec.ofInt 64 imm.toInt
    sl.task.pure = false → sl.unstepped = true →
    (¬ full → ¬ busy (!quiet) → ∃ t, exec (.cpy q) s = .next t ∧ (t.slot i).regs = sl.regs ∧
      Pushed s t .words (x 0) (x 1) (x 2) (x 3) (!quiet)) ∧
    (full ∨ busy (!quiet) → stalls (.cpy q)) ∧
    (s.able [] [d] →
      (¬ full → ¬ busy (!quiet) → ∃ t, exec (.cpyt d q) s = .next t ∧ Pushed s t .words (x 0) (x 1) (x 2) (x 3) (!quiet) ∧
        Wrote s t i d 0) ∧
      (full → Yields (.cpyt d q) s [] d 2) ∧ (¬ full → busy (!quiet) → Yields (.cpyt d q) s [] d 1)) ∧
    (s.able [a, b] [] →
      (¬ full → ¬ busy true → ∃ t, exec (.tokacc a b imm) s = .next t ∧ (t.slot i).regs = sl.regs ∧
        Pushed s t (.tokacc ea (s.rv b)) 8 0 0 0 true) ∧
      (full ∨ busy true → stalls (.tokacc a b imm))) ∧
    (s.able [a] [] →
      (¬ full → ¬ busy false → ∃ t, exec (.pft a imm h) s = .next t ∧ (t.slot i).regs = sl.regs ∧
        Pushed s t (.pft ea h) 0x200 0 0 0 false) ∧
      (full ∨ busy false → stalls (.pft a imm h)))

/-- R201, R202: MBXPOP takes the oldest message, or gives the code of an empty mailbox; WFM goes on when there is a message and else parks.
-/
def MailboxInstructions : Prop :=
  ∀ (s : State) (p : BitVec 4), s.able [] [] →
    let i := s.cur
    let lo : Reg := .x (BitVec.ofNat 5 (2 * p.toNat))
    let hi : Reg := .x (BitVec.ofNat 5 (2 * p.toNat + 1))
    ((s.slot i).mbox = [] → ∃ t, exec (.mbxpop p) s = .next t ∧ Ran s t [] [lo, hi] (s.slot i).npc ∧ Wrote s t i lo 0x5FF ∧
      Wrote s t i hi 0) ∧
    (∀ m rest, (s.slot i).mbox = m :: rest → ∃ t, exec (.mbxpop p) s = .next t ∧
      Ran (s.modSlot i fun sl => { sl with mbox := rest }) t [] [lo, hi] (s.slot i).npc ∧ Wrote s t i lo m.w0 ∧ Wrote s t i hi m.w1) ∧
    ((s.slot i).mbox ≠ [] → GoesTo .wfm s [] (s.slot i).npc) ∧
    ((s.slot i).mbox = [] → exec .wfm s = .next (s.modSlot i fun sl =>
      { sl with st := .parked, park := .wfm, parkedAt := s.dclk, feLimit := sl.ctl.fewait }))

/-- R203, R204: UIEN sets the handler and the enable bit and gives the old UICTL; a slot that may be interrupted and has a message enters
its handler with the PC to resume saved; UIRET goes on there, and takes PRIVILEGE outside a handler. -/
def UserInterrupts : Prop :=
  ∀ (s : State) (d a b : Reg) (k n : Nat), n < 8 →
    let i := s.cur
    let sl := s.slot i
    let j := 8 * k + n
    (s.able [a, b] [d] → ∃ t, exec (.uien d a b) s = .next t ∧ Wrote s t i d (sl.ctl.uictl.setWidth 64) ∧ (t.slot i).pc = sl.npc ∧
      (t.slot i).ctl = { sl.ctl with
        uivec := if (s.rv b).getLsbD 0 then s.rv a else sl.ctl.uivec
        uictl := (sl.ctl.uictl &&& 2) ||| (if (s.rv b).getLsbD 0 then 1 else 0) } ∧ t.mm = s.mm) ∧
    (sl.inUi = true → sl.unstepped = true → exec .uiret s = .next (s.setSlot i { sl with
      st := .ready, hold := .none, pc := sl.ctl.uipc, line := .none, from_ := sl.pc, via := .none
      ctl := { sl.ctl with uictl := sl.ctl.uictl &&& 1 } })) ∧
    (sl.inUi = false → exec .uiret s = .next (s.takeTrap i
      { code := .privilege, pc := sl.pc, epc := sl.pc, task := sl.task.task })) ∧
    (∀ pc, (s.slot j).uiResume = some pc → exec (.uiEntry k n) s = .next (s.setSlot j { s.slot j with
      st := .ready, park := .none, hold := .none, req := .none, found := .none, pc := (s.slot j).ctl.uivec, line := .none
      from_ := (s.slot j).pc, via := .none, ctl := { (s.slot j).ctl with uipc := pc, uictl := (s.slot j).ctl.uictl ||| 2 } })) ∧
    ((s.slot j).st = .ready → (s.slot j).ctl.uictl = 1 → (s.slot j).inh = false → (s.slot j).mbox ≠ [] →
      (s.slot j).uiResume = some (s.slot j).pc)

end Sys2Proof.Machine

/-- R201, R202: MBXPOP takes the oldest message, or gives the code of an empty mailbox; WFM goes on when there is a message and else parks.
R203, R204: UIEN sets the handler and the enable bit and gives the old UICTL; a slot that may be interrupted and has a message enters its
handler with the PC to resume saved; UIRET goes on there, and takes PRIVILEGE outside a handler. -/
def Obligations.MailboxesAndUserInterrupts : Prop :=
  MailboxInstructions ∧ UserInterrupts

namespace Sys2Proof.Machine

/-- R191, R192: request `r`, the head of core `k`'s FIFO, has started: it is in flight with what it is to report, and out of the FIFO. -/
def Started (s t : State) (k : Nat) (r : CopyReq) (status word1 : Nat) (fault : Option (TrapCode × Word)) : Prop :=
  let o := octetOf k
  ∃ run : CopyRun, (t.oct o).cpy.flight = (s.oct o).cpy.flight ++ [run] ∧ run.core = k ∧ run.req = r ∧
    run.status = BitVec.ofNat 8 status ∧ run.word1 = BitVec.ofNat 64 word1 ∧ run.fault = fault ∧ (t.oct o).cpy.last = k % 8 ∧
    (t.core k).cpy.fifo = (s.core k).cpy.fifo.drop 1

/-- What a request's own reads and writes leave of the engine's queues. -/
def Undisturbed (s t : State) (k : Nat) : Prop :=
  (t.core k).cpy = (s.core k).cpy ∧ (t.oct (octetOf k)).cpy = (s.oct (octetOf k)).cpy

/-- R189 to R191, R194 to R196, R205, R221: the request at the head of a FIFO that may start does so, by its kind: a request with a reserved
field or operand is refused, with no write; any other runs, and reports what its kind finds. Log 26's choice: its data moves as it starts. Log
27's: KIND 8 by CPY is refused as TOKACC, KIND above 8 is refused as it starts by COPY_KIND_COPY, and a descriptor of TOKACC or PFT is 8-byte
aligned. -/
def CopyRequestsStart : Prop :=
  ∀ (s : State) (k : Nat) (r : CopyReq), s.copyHead k = some r →
    let starts (ins : Instr) (go : State → CopyReq → CopyEnd) : Prop :=
      (r.refused = true → ∃ t, exec ins s = .next t ∧ Started s t k r 6 0 none ∧ t.mm = s.mm ∧ t.slots = s.slots) ∧
      (∀ out, r.refused = false → go s r = .ok out → Undisturbed s out.s k →
        ∃ t, exec ins s = .next t ∧ Started s t k r out.status out.word1 out.fault ∧ t.mm = out.s.mm ∧ t.slots = out.s.slots)
    (r.what = .words → (r.kind = 0 → starts (.copyKindCopy k) copyCopy) ∧ (r.kind = 1 → starts (.copyKindGather k) (copyIndexed true)) ∧
      (r.kind = 2 → starts (.copyKindScatter k) (copyIndexed false)) ∧ (r.kind = 3 → starts (.copyKindFill k) copyFill) ∧
      (r.kind = 4 → starts (.copyKindConvert k) copyConvert) ∧ (r.kind = 5 → starts (.copyKindHash k) copyHash) ∧
      (r.kind = 6 → starts (.copyKindSelacc k) copySelacc) ∧ (r.kind = 7 → starts (.copyKindSelmem k) copySelmem) ∧
      (r.kind = 8 → ∃ t, exec (.copyKindTokacc k) s = .next t ∧ Started s t k r 6 0 none ∧ t.mm = s.mm) ∧
      (8 < r.kind → ∃ t, exec (.copyKindCopy k) s = .next t ∧ Started s t k r 6 0 none ∧ t.mm = s.mm)) ∧
    (∀ desc draft, r.what = .tokacc desc draft →
      (desc.toNat % 8 ≠ 0 → ∃ t, exec (.copyKindTokacc k) s = .next t ∧ Started s t k r 6 0xFFFFFFFF none ∧ t.mm = s.mm) ∧
      (∀ out, copyTokacc desc draft s r = .ok out → Undisturbed s out.s k → ∃ t, exec (.copyKindTokacc k) s = .next t ∧
        Started s t k r out.status out.word1 out.fault ∧ t.mm = out.s.mm ∧ t.slots = out.s.slots)) ∧
    (∀ desc h, r.what = .pft desc h →
      (desc.toNat % 8 ≠ 0 → ∃ t, exec (.prefetchRequest k) s = .next t ∧ Started s t k r 6 0 none ∧ t.mm = s.mm ∧ t.slots = s.slots) ∧
      (∀ u, copyPft desc h s r = some u → Undisturbed s u k → ∃ t, exec (.prefetchRequest k) s = .next t ∧ Started s t k r 6 0 none ∧
        t.mm = u.mm ∧ t.slots = u.slots))

end Sys2Proof.Machine

/-- R200, R205, R221: CPY, TOKACC and PFT push a request while the FIFO has room for it, cp is below 15 and a mailbox entry can be reserved
where the request needs one; else the head stays in STALL. CPYT answers 0, or 2 or 1 with no effect. R189 to R191, R194 to R196, R205, R221:
the request at the head of a FIFO that may start does so, by its kind: a request with a reserved field or operand is refused, with no write;
any other runs, and reports what its kind finds. Log 26's choice: its data moves as it starts. Log 27's: KIND 8 by CPY is refused as TOKACC, KIND
above 8 is refused as it starts by COPY_KIND_COPY, and a descriptor of TOKACC or PFT is 8-byte aligned. -/
def Obligations.CopyRequestsArePushedAndStart : Prop :=
  CopyRequestsArePushed ∧ CopyRequestsStart

namespace Sys2Proof.Machine

/-- R27, R28, R150: an 8-byte word at `va` lies in core `k`'s local memory at `pa`, in a bank of software's or the module's role. -/
def OwnWord (s : State) (k : Nat) (va : Word) (pa : Nat) : Prop :=
  k < 8192 ∧ ∃ off, pa = lmAddr k off ∧ off % 8 = 0 ∧ off < 0x20000 ∧
    (va.toNat = 0x00FFFF0000000000 + off ∨ va.toNat = 0x00FF000000000000 + k * 0x20000 + off) ∧
    (s.role k (off / 0x1000) = 0 ∨ s.role k (off / 0x1000) = 3)

/-- R155, R189, R192: a COPY and a FILL of one word of the own core's local memory write that word and no other byte, carry the poison of
what they read, and leave the word FULL. That the word is written as the request starts, before its completion, is log 26's choice. -/
def CopyAndFillOfOneWord : Prop :=
  ∀ (s : State) (k src dst : Nat) (r : CopyReq), s.copyHead k = some r → r.slot / 8 = k → r.what = .words → r.refused = false → r.w3 = 8 →
    OwnWord s k r.w2 dst → s.pageBusy dst = false → s.mm.feq = [] →
    let writes (ins : Instr) (bs : Nat → Byte) (bad : Bool) : Prop :=
      ∃ t, exec ins s = .next t ∧ Started s t k r 0 8 none ∧ t.slots = s.slots ∧
        (∀ x, t.mm.bytes.byte x = if dst ≤ x ∧ x < dst + 8 then bs (x - dst) else s.mm.bytes.byte x) ∧
        (∀ w, w ∈ t.mm.full ↔ w = dst ∨ w ∈ s.mm.full) ∧ (∀ w, w ∈ t.mm.poison ↔ if w = dst then bad = true else w ∈ s.mm.poison)
    (r.kind = 3 → writes (.copyKindFill k) (fun j => r.w1.extractLsb' (8 * j) 8) false) ∧
    (r.kind = 0 → OwnWord s k r.w1 src → s.pageBusy src = false →
      writes (.copyKindCopy k) (fun j => s.mm.bytes.byte (src + j)) (s.poisoned src 8))

/-- R192, R193, R197: a request in flight that meets its fault raises COPROC for its slot, unless it asked for none; one whose fault is met
and whose core has none earlier in flight completes: its message is posted and cp falls. -/
def CopyRequestsComplete : Prop :=
  ∀ (s : State) (o i : Nat) (r : CopyRun), (s.oct o).cpy.flight[i]? = some r →
    let j := r.req.slot
    (∀ c a, r.fault = some (c, a) → ∃ t, exec (.copyRequestFault o i) s = .next t ∧
      (t.oct o).cpy.flight = (s.oct o).cpy.flight.set i { r with fault := none } ∧ t.mm = s.mm ∧
      (r.req.dead = true ∨ r.req.nt = true → t.slots = s.slots) ∧
      (r.req.dead = false → r.req.nt = false → (s.slot j).exit ≠ .cancelled → ∃ ops, (t.slot j).late = (s.slot j).late ++
        [.engine r.req.order r.req.ti.task r.req.pc a ops] ∧ fld ops 7 0 = c.num ∧ fld ops 15 8 = r.req.kind ∧
        fld ops 63 32 = r.tag.toNat)) ∧
    (r.fault = none → (∀ q ∈ (s.oct o).cpy.flight.take i, q.core ≠ r.core) → r.flag = none → (s.slot j).st = .ready →
      (s.slot j).park = .none → ∃ t, exec (.copyRequestComplete o i) s = .next t ∧
        (t.oct o).cpy.flight = (s.oct o).cpy.flight.eraseIdx i ∧ t.mm = s.mm ∧ (t.slot j).pc = (s.slot j).pc ∧
        (t.slot j).cnt = { (s.slot j).cnt with cp := (s.slot j).cnt.cp - 1 } ∧ (t.slot j).regs = (s.slot j).regs ∧
        (r.req.dead = true ∨ r.req.qt = true → (t.slot j).mbox = (s.slot j).mbox) ∧
        (r.req.dead = false → r.req.qt = false → ∃ m, (t.slot j).mbox = (s.slot j).mbox ++ [m] ∧ m.w1 = r.word1 ∧
          fld m.w0 7 0 = r.req.kind ∧ fld m.w0 15 8 = r.status.toNat ∧ fld m.w0 63 32 = r.tag.toNat))

end Sys2Proof.Machine

/-- R155, R189, R192: a COPY and a FILL of one word of the own core's local memory write that word and no other byte, carry the poison of
what they read, and leave the word FULL; that it is written as the request starts, before its completion, is log 26's choice. R192, R193, R197: a
request in flight that meets its fault raises COPROC for its slot, unless it
asked for none; one whose fault is met and whose core has none earlier in flight completes: its message is posted and cp falls. -/
def Obligations.CopyRequestsMoveTheirData : Prop :=
  CopyAndFillOfOneWord ∧ CopyRequestsComplete

namespace Sys2Proof.Machine

/-! The shared cache and the TLBs (ch. 11). -/

/-- R22, R159, R418: the words `w 0`, `w 1`, … of a descriptor of `n` bytes lie at `va` in the local memory of the running slot's core, in
banks of software's or the module's role, with no poison; no earlier access of the slot is under way, and no byte of it is in a flip (R239).
-/
structure DescriptorAt (s : State) (va : Word) (n : Nat) (w : Nat → Word) : Prop where
  core : s.cur < 65536
  idle : (s.slot s.cur).pend = []
  place : ∃ off, off % 8 = 0 ∧ off + n ≤ 0x20000 ∧
    (va.toNat = 0x00FFFF0000000000 + off ∨ va.toNat = 0x00FF000000000000 + s.cur / 8 * 0x20000 + off) ∧
    (∀ b, off / 0x1000 ≤ b → b ≤ (off + n - 1) / 0x1000 → s.role (s.cur / 8) b = 0 ∨ s.role (s.cur / 8) b = 3) ∧
    s.poisoned (lmAddr (s.cur / 8) off) n = false ∧ (∀ x, x < n → s.pageBusy (lmAddr (s.cur / 8) off + x) = false) ∧
    ∀ j x, 8 * j < n → x < 8 → (w j).extractLsb' (8 * x) 8 = s.mm.bytes.byte (lmAddr (s.cur / 8) off + 8 * j + x)

/-- R213, R220: PINQ reads a window, the quota with the usage, or the overflow count; PINW refuses a descriptor with a reserved field,
removes a window that names no page, no stack or no slice, and else sets one while the quota allows its charge. -/
def PinWindows : Prop :=
  ∀ (s : State) (d a : Reg) (p : Part) (w : Nat → Word), s.able [a] [d] → (s.slot s.cur).task.pure = false →
    s.part? (s.slot s.cur).task.part = some p →
    let i := s.cur
    let v := (s.rv a).toNat
    let win := fld (w 1) 35 32
    let pages := fld (w 1) 31 0
    let reserved : Prop := fld (w 0) 15 0 ≠ 0 ∨ fld (w 1) 63 40 ≠ 0 ∨ w 3 ≠ 0
    let none_ : Prop := pages = 0 ∨ fld (w 1) 39 36 = 0 ∨ w 2 = 0
    let old := match get? p.pins win with
      | some x => x.charge
      | none => 0
    let gives (v : Word) (now : Option PinWin) : Prop :=
      ∃ t q, exec (.pinw d a) s = .next t ∧ Wrote s t i d v ∧ (t.slot i).pc = (s.slot i).npc ∧ t.mm.bytes = s.mm.bytes ∧
        t.part? (s.slot i).task.part = some q ∧ get? q.pins win = now ∧ ∀ x, x ≠ win → get? q.pins x = get? p.pins x
    (v < 16 → get? p.pins v = none → Yields (.pinq d a) s [a] d 0) ∧
    (∀ x, v < 16 → get? p.pins v = some x →
      Yields (.pinq d a) s [a] d (BitVec.ofNat 64 (2 ^ 63 + x.stackMask * 2 ^ 32 + x.charge))) ∧
    (v = 16 → Yields (.pinq d a) s [a] d (BitVec.ofNat 64 (p.quota * 2 ^ 32 + (p.pins.map fun w => w.2.charge).sum))) ∧
    (v = 17 → Yields (.pinq d a) s [a] d (BitVec.ofNat 64 p.overflow)) ∧ (17 < v → Yields (.pinq d a) s [a] d allOnes) ∧
    ((s.slot i).lv ≠ .u → DescriptorAt s (s.rv a) 32 w →
      (reserved → Yields (.pinw d a) s [a] d 6) ∧
      (¬ reserved → none_ → gives 0 none) ∧
      (¬ reserved → ¬ none_ → (s.pinPages i (w 0) pages).1 = none → gives 6 (get? p.pins win)) ∧
      (∀ l, ¬ reserved → ¬ none_ → (s.pinPages i (w 0) pages).1 = some l →
        let held := l.filter fun pg => (fld (w 1) 39 36).testBit (pg % 4)
        let charge := popcount 64 (w 2).toNat * held.length
        (p.quota * 2048 < p.pinUsage - old + charge → gives 2 (get? p.pins win)) ∧
        (¬ p.quota * 2048 < p.pinUsage - old + charge → gives 0 (some
          { base := (w 0).toNat, pages := pages, stackMask := fld (w 1) 39 36, sliceMask := (w 2).toNat, charge := charge
            phys := held }))))

/-- R223: the TLB entries that TLBINV drops. -/
def Dropped (p : Nat) (sc : InvScope) (a n : Nat) (e : Tlb) : Prop :=
  e.part = p ∧ match sc with
    | .va => e.vbase ≤ a ∧ a < e.vbase + e.size
    | .range => n ≠ 0 ∧ e.vbase < a + n ∧ a < e.vbase + e.size
    | .part => True

/-- R222, R223: CWB leaves none of the core's cached lines dirty, CINV leaves none of them, and both give the number written back, or all
ones for a range too long; TLBINV drops every translation that its scope names from every TLB and no other. No byte of device memory
changes. -/
def CacheMaintenance : Prop :=
  ∀ (s : State) (d a b : Reg) (sc : InvScope) (llc : Bool),
    let i := s.cur
    let k := i / 8
    let dirty := ((s.core k).cache.filter fun l => l.dirty).length +
      ((s.core k).stash.flatMap fun b => b.2.lines.filter fun l => l.2.2.2).length
    let done (t : State) (v : Word) : Prop :=
      Wrote s t i d v ∧ (t.slot i).pc = (s.slot i).npc ∧ ∀ x, x < devEnd → t.mm.bytes.byte x = s.mm.bytes.byte x
    (s.able [a, b] [d] →
      (2 ^ 40 < (s.rv b).toNat → (∀ all, Yields (.cwb d a b all) s [a, b] d allOnes) ∧
        ((s.slot i).task.pure = false → ∀ all, Yields (.cinv d a b llc all) s [a, b] d allOnes)) ∧
      ((s.rv b).toNat ≤ 2 ^ 40 →
        (∃ t v, exec (.cwb d a b false) s = .next t ∧ done t v) ∧
        (∃ t, exec (.cwb d a b true) s = .next t ∧ done t (BitVec.ofNat 64 dirty) ∧ t.mm.bytes = s.mm.bytes ∧
          ∀ l ∈ (t.core k).cache, l.dirty = false) ∧
        ((s.slot i).task.pure = false → (∃ t v, exec (.cinv d a b llc false) s = .next t ∧ done t v) ∧
          ∃ t, exec (.cinv d a b llc true) s = .next t ∧ done t (BitVec.ofNat 64 dirty) ∧ (t.core k).cache = []))) ∧
    (s.able [a, b] [] → (s.slot i).lv ≠ .u → (s.slot i).task.pure = false → (∀ e ∈ s.slots, e.2.pend = []) → (s.slot i).pend = [] →
      let p := (s.slot i).task.part
      ∃ t, exec (.tlbinv a b sc) s = .next t ∧ t.slot i = (s.slot i).goneTo (s.slot i).npc (s.slot i).regs ∧ t.mm = s.mm ∧
        (∀ o, ∀ e ∈ (t.oct o).tlb, ¬ Dropped p sc (s.rv a).toNat (s.rv b).toNat e) ∧
        (∀ o, ∀ e ∈ (t.die o).tlb, ¬ Dropped p sc (s.rv a).toNat (s.rv b).toNat e) ∧
        (∀ o, ∀ e ∈ (s.oct o).tlb, ¬ Dropped p sc (s.rv a).toNat (s.rv b).toNat e → e ∈ (t.oct o).tlb))

end Sys2Proof.Machine

/-- R213, R220: PINQ reads a window, the quota with the usage, or the overflow count; PINW refuses a descriptor with a reserved field,
removes a window that names no page, no stack or no slice, and else sets one while the quota allows its charge. R222, R223: CWB leaves none
of the core's cached lines dirty, CINV leaves none of them, and both give the number written back, or all ones for a range too long; TLBINV
drops every translation that its scope names from every TLB and no other. No byte of device memory changes. -/
def Obligations.CacheAndPins : Prop :=
  PinWindows ∧ CacheMaintenance

namespace Sys2Proof.Machine

/-! Work queues and groups (ch. 13). -/

/-- R250, R261: the packet whose sixteen words are `w` has joined queue `q` as its newest. -/
def Appended (s t : State) (q : Nat) (w : Nat → Word) : Prop :=
  let i := s.cur
  ∃ p : Packet, (∀ j, j < 16 → p.word (8 * j) = w j) ∧ p.tenant = (s.slot i).task.tenant ∧ p.from_ = some i ∧ p.failed = false ∧
    p.bad = [] ∧ (t.queue q).depth = (s.queue q).depth + 1 ∧
    (if (s.queue q).buf.length < 8 ∧ (s.queue q).spill = [] then
      (t.queue q).buf = (s.queue q).buf ++ [p] ∧ (t.queue q).spill = (s.queue q).spill ∧ p.arrived = true
    else (t.queue q).buf = (s.queue q).buf ∧ (t.queue q).spill = (s.queue q).spill ++ [p] ∧ p.arrived = false) ∧
    ∀ x, x ≠ q → t.queue x = s.queue x

/-- R261, R263, R264: ENQ and LAUNCH append the packet they name and answer 0, or answer 6 for a queue that may not be appended to and 2 for
a full one; QFENCE waits for the slot's packets to arrive; QSTAT reads a queue of the own partition. -/
def QueueInstructions : Prop :=
  ∀ (s : State) (d a b : Reg) (w : Nat → Word),
    let i := s.cur
    let sl := s.slot i
    let part := sl.task.part
    sl.task.pure = false →
    let appends (ins : Instr) (srcs : List Reg) (q : Nat) (ok : Prop) : Prop :=
      (¬ ok → Yields ins s srcs d 6) ∧ (ok → (s.queue q).isFull = true → Yields ins s srcs d 2) ∧
      (ok → (s.queue q).isFull = false → (s.queue q).df = true → ∃ t, exec ins s = .next t ∧ Wrote s t i d 0 ∧ (t.slot i).pc = sl.npc ∧
        (t.slot i).st = .ready ∧ t.mm = s.mm ∧ Appended s t q w)
    (s.able [a, b] [d] → DescriptorAt s (s.rv b) 128 w → (s.rv b).toNat % 64 = 0 →
      let q := fld (s.rv a) 11 0
      appends (.enq d a b) [a, b] q
        (fld (s.rv a) 63 12 = 0 ∧ (s.queue q).part = part ∧ (s.queue q).df = true ∧ (s.queue q).en = true)) ∧
    (s.able [a] [d] → DescriptorAt s (s.rv a) 128 w → (s.rv a).toNat % 64 = 0 → appends (.launch d a) [a] (4096 + part) True) ∧
    (s.able [] [] →
      let waits : Prop := ∃ q ∈ s.disp.queues, ∃ p ∈ q.2.spill, p.from_ = some i ∧ p.arrived = false
      (¬ waits → GoesTo .qfence s [] sl.npc) ∧ (waits → exec .qfence s = .next (s.modSlot i fun sl => { sl with st := .stall }))) ∧
    (s.able [a] [d] →
      let n := (s.rv a).toNat
      let q := s.queue (if n = 0x1000 then 4096 + part else n)
      (n ≤ 0x1000 → q.part = part → q.tickets < 2 ^ 13 → q.buf.length < 16 → q.depth < 2 ^ 36 → ∃ v : Word, Yields (.qstat d a) s [a] d v ∧
        v.getLsbD 63 = true ∧ v.getLsbD 62 = q.df ∧ v.getLsbD 61 = q.en ∧ fld v 52 40 = q.tickets ∧ fld v 39 36 = q.buf.length ∧
        fld v 35 0 = q.depth) ∧
      (0x1000 < n ∨ q.part ≠ part → Yields (.qstat d a) s [a] d 0))

/-- R88, R258: BAR of a group that the task is no member of gives 6; it waits for the slot's accesses; the last member to arrive goes on and
releases the others, which have parked; a release that arrives lets its member go on with 0. -/
def GroupBarriers : Prop :=
  ∀ (s : State) (d : Reg) (g : BitVec 2) (k n : Nat),
    let i := s.cur
    let sl := s.slot i
    let gid := fld sl.task.grp (8 * g.toNat + 7) (8 * g.toNat)
    let in_ : Bool := sl.task.grp.getLsbD (32 + g.toNat)
    (s.able [] [d] →
      (in_ = false → Yields (.bar d g) s [] d 6) ∧
      (in_ = true → sl.pend ≠ [] → exec (.bar d g) s = .next (s.modSlot i fun sl => { sl with st := .stall })) ∧
      (∀ p e, in_ = true → sl.pend = [] → s.part? sl.task.part = some p → get? p.groups gid = some e →
        (e.a + 1 = e.m → ∃ t q, exec (.bar d g) s = .next t ∧ Wrote s t i d 0 ∧ (t.slot i).pc = sl.npc ∧ t.mm = s.mm ∧
          t.part? sl.task.part = some q ∧ get? q.groups gid = some { e with a := 0 } ∧
          ∀ j x b, j ≠ i → (s.slot j).park = .bar x (BitVec.ofNat 8 gid) b → (s.slot j).task.part = sl.task.part →
            (s.slot j).barAt = none → (t.slot j).barAt = some (s.dclk +
              if j / 8 = i / 8 then 0 else if j / 16384 = i / 16384 then 64 else 256)) ∧
        (e.a + 1 ≠ e.m → ∃ t q, exec (.bar d g) s = .next t ∧ (t.slot i).st = .parked ∧
          (t.slot i).park = .bar g (BitVec.ofNat 8 gid) (sl.bind d) ∧ (t.slot i).regs = sl.regs ∧ (t.slot i).pc = sl.pc ∧ t.mm = s.mm ∧
          t.part? sl.task.part = some q ∧ get? q.groups gid = some { e with a := e.a + 1 }))) ∧
    (n < 8 → ∀ x y b c, (s.slot (8 * k + n)).park = .bar x y b → (s.slot (8 * k + n)).barAt = some c → c ≤ s.dclk →
      (s.slot (8 * k + n)).st = .parked → (s.slot (8 * k + n)).unstepped = true →
      ∃ t, exec (.barrierCompletionArrival k n) s = .next t ∧ Landed s t (8 * k + n) b 0 ∧ (t.slot (8 * k + n)).st = .ready ∧
        (t.slot (8 * k + n)).pc = (s.slot (8 * k + n)).npc ∧ t.mm = s.mm)

end Sys2Proof.Machine

/-- R261, R263, R264: ENQ and LAUNCH append the packet they name and answer 0, or answer 6 for a queue that may not be appended to and 2 for
a full one; QFENCE waits for the slot's packets to arrive; QSTAT reads a queue of the own partition. R88, R258: BAR of a group that the task
is no member of gives 6; it waits for the slot's accesses; the last member to arrive goes on and releases the others, which have parked; a
release that arrives lets its member go on with 0. -/
def Obligations.QueuesAndBarriers : Prop :=
  QueueInstructions ∧ GroupBarriers

namespace Sys2Proof.Machine

/-- R249 to R252: a tail that the ring can hold becomes the queue's, and one that it cannot is refused with QERR and an event for the host; a
watched tail word is read when its line has been written, and not before; the oldest ring packet enters the head buffer with HEAD one greater; the write of a spilled packet makes it arrive. -/
def QueueHappenings : Prop :=
  ∀ (s : State) (q : Nat),
    let v := s.queue q
    let tailBecomes (ins : Instr) (x : BitVec 32) : Prop :=
      ((x - v.head).toNat ≤ 2 ^ v.rsz → ∃ t, exec ins s = .next t ∧ (t.queue q).tail = x ∧ (t.queue q).head = v.head ∧
        (t.queue q).buf = v.buf ∧ t.mm.bytes = s.mm.bytes ∧ t.slots = s.slots ∧ ∀ y, y ≠ q → t.queue y = s.queue y) ∧
      (2 ^ v.rsz < (x - v.head).toNat → ∃ t, exec ins s = .next t ∧ t.queue q = { v with qerr := true, watch := (t.queue q).watch } ∧
        t.mm.bytes = s.mm.bytes ∧ t.slots = s.slots ∧ t.host.msix = s.host.msix ++ [2])
    q < 4096 → v.part < 16 →
    (v.df = false → v.tw = false → ∀ x, tailBecomes (.queueTailWrite q x) x) ∧
    (v.df = false → v.tw = true → ∀ bs, (s.sysRead v.part v.taila 8).1 = .ok bs →
      (q ∈ s.disp.wrote → tailBecomes (.tailWordSeen q) ((bytesWord bs).setWidth 32)) ∧
      (q ∉ s.disp.wrote → exec (.tailWordSeen q) s = .refused (.notEnabled "TAIL_WORD_SEEN"))) ∧
    (v.df = false → v.buf.length < 8 → v.tail ≠ v.head → ∃ t p, exec (.packetRefill q) s = .next t ∧
      (t.queue q).buf = v.buf ++ [p] ∧ (t.queue q).head = v.head + 1 ∧ (t.queue q).tail = v.tail ∧ p.tenant = v.tenant ∧
      (p.bytes, p.bad, p.failed) = (s.readPacket v.part (v.place v.head.toNat)).1) ∧
    (∀ p rest, v.df = true → v.buf.length < 8 → v.spill = p :: rest → p.arrived = true → ∃ t x, exec (.packetRefill q) s = .next t ∧
      (t.queue q).buf = v.buf ++ [x] ∧ (t.queue q).spill = rest ∧ (t.queue q).head = v.head + 1 ∧ x.owner = p.owner ∧
      x.node = p.node ∧ t.mm.bytes = s.mm.bytes) ∧
    (∀ older p rest, v.spill = older ++ p :: rest → (∀ x ∈ older, x.arrived = true) → p.arrived = false → older.length < 2 ^ v.rsz →
      ∃ t, exec (.spillWritePerformed q) s = .next t ∧ t.queue q = { v with spill := older ++ { p with arrived := true } :: rest } ∧
        t.mm = (s.engDrop (Eng.sys v.part) (v.place (v.head.toNat + older.length)) p.bytes).mm)

/-- R32, R252 to R254: the stacks report their free task slots every 64 core cycles; the distributor takes the oldest packet of the eligible
queue with the smallest pass, whose pass rises by its stride, and starts its task on a free slot, with what the packet gives it. -/
def Dispatching : Prop :=
  (∀ (s : State) (st : Nat), st < 4 → s.dclk % 64 = 0 → ∃ t, exec (.freeSlotReport st) s = .next t ∧
    (∀ p, (s.part? p).isSome = true → t.reported p st = s.freeSlots p st) ∧ t.slots = s.slots ∧ t.mm = s.mm) ∧
  (∀ (s : State) (q : Nat) (p : Packet) (rest : List Packet), s.unplaced = none → s.disp.selAt ≤ s.dclk → s.selectQueue = some q →
    (s.queue q).buf = p :: rest → p.gone = false →
    let v := s.queue q
    ∃ t, exec .dispatch s = .next t ∧ (t.queue q).buf = rest ∧ (t.queue q).pass = v.pass + BitVec.ofNat 40 (2 ^ 20 / v.tickets) ∧
      t.disp.passG = v.pass ∧ t.disp.selAt = s.dclk + 8 ∧ t.disp.next = s.disp.next + 1 ∧
      (∀ i more, p.failed = false → p.bad = [] → s.packetFails v.part p = false → p.n = 1 → s.candidates v.part = i :: more →
        s.sched.choices = [] →
        (t.slot i).st = .ready ∧ (t.slot i).pc = p.word 8 ∧ (t.slot i).lv = (if v.sv then .s else .u) ∧
        (t.slot i).task.part = v.part ∧ (t.slot i).task.task = 0 ∧ (t.slot i).task.ntask = 1 ∧
        (t.slot i).task.tenant = (if q < 4096 then v.tenant else p.tenant) ∧ (t.slot i).task.kfa = (p.word 0x18).extractLsb' 0 16 ∧
        (t.slot i).task.kfb = (p.word 0x18).extractLsb' 16 16 ∧ (t.slot i).task.kfo = (p.word 0x18).extractLsb' 32 16 ∧
        (t.slot i).task.ksa = p.word 0x20 ∧ (t.slot i).task.ksb = p.word 0x28 ∧
        (∀ x, x < 32 → (t.slot i).regs.x.getD x 0 = if x = 1 then p.word 0x10 else 0) ∧ ∀ j, j ≠ i → t.slot j = s.slot j))

end Sys2Proof.Machine

/-- R249 to R252: a tail that the ring can hold becomes the queue's, and one that it cannot is refused with QERR and an event for the host; a
watched tail word is read when its line has been written, and not before; the oldest ring packet enters the head buffer with HEAD one greater; the write of a spilled packet makes it arrive. R32, R252 to R254: the
stacks report their free task slots every 64 core cycles; the distributor takes the oldest packet of the eligible queue with the smallest
pass, whose pass rises by its stride, and starts its task on a free slot, with what the packet gives it. -/
def Obligations.QueueHappeningsAndDispatch : Prop :=
  QueueHappenings ∧ Dispatching

namespace Sys2Proof.Machine

/-! Graphs (ch. 14). -/

/-- R215 to R218, R418: 64 aligned bytes at `va`, whose 8-byte words are `w`, lie in device memory at `pa`: a TLB of the running slot's core
holds a translation that lets the slot read them. As the core finds them (R226, R238) no word is poisoned; no earlier access of the slot is
under way, and their page is in no flip (R239). -/
structure BlockAt (s : State) (va : Word) (pa : Nat) (w : Nat → Word) : Prop where
  core : s.cur < 65536
  idle : (s.slot s.cur).pend = []
  place : va.toNat % 64 = 0 ∧ va.toNat < 2 ^ 56 ∧ va.toNat / 2 ^ 48 ≠ 0xFF
  page : ∃ t, s.tlb? (s.cur / 8) (s.slot s.cur).task.part va = some t ∧ t.leaf.tgt = 0 ∧ t.leaf.r = true ∧
    ((s.slot s.cur).lv = .u → t.leaf.u = true) ∧ pa = t.leaf.pbase + (va.toNat - t.vbase) ∧ pa + 64 ≤ devEnd ∧
    s.viewPoison (some (s.cur / 8)) t.leaf.c pa 64 = false ∧
    ∀ j x, j < 8 → x < 8 → (w j).extractLsb' (8 * x) 8 = (s.viewBytes (some (s.cur / 8)) t.leaf.c pa 64).getD (8 * j + x) 0
  still : s.pageBusy pa = false

/-- The running slot has completed its head with `v` in `d`. -/
def Answered (s t : State) (d : Reg) (v : Word) : Prop := Wrote s t s.cur d v ∧ (t.slot s.cur).pc = (s.slot s.cur).npc ∧
  (t.slot s.cur).st = .ready

/-- The head completes with `v` in `d`, and changes no graph and no byte of memory. -/
def Tells (i : Instr) (s : State) (d : Reg) (v : Word) : Prop :=
  ∃ t, exec i s = .next t ∧ Answered s t d v ∧ t.sk = s.sk ∧ t.mm.bytes = s.mm.bytes ∧ t.disp = s.disp

/-- The head completes with `v` in `d` and makes graph `g` what `f` says. -/
def Makes (i : Instr) (s : State) (d : Reg) (v : Word) (g : Nat) (x : Graph) : Prop :=
  ∃ t, exec i s = .next t ∧ Answered s t d v ∧ t.graph? g = some x ∧ ∀ h, h ≠ g → t.graph? h = s.graph? h

/-- A graph with node `j` changed. -/
def Graph.with (v : Graph) (j : Nat) (n : GNode) : Graph := { v with ns := v.ns.set j n }

/-- R270, R290: every READY node has been submitted, but for those of which Pewter has been asked. -/
def Graph.submitted (v : Graph) : Prop := ∀ m ∈ v.ns, m.st = .ready → m.lookup = true

/-- R275, R282: the held completions of node `j` are discarded. -/
def Graph.unheld (v : Graph) (j : Nat) : Graph :=
  { v with held := v.held.filter fun e => match e with
      | .completion n _ => n ≠ j
      | .token _ => true }

/-- The graph in which a wave has started at node `j`, whose fault code is `c` (R269, R275). -/
def Graph.waved (v : Graph) (j : Nat) (c : BitVec 8) : Graph :=
  { v.with j { v.node j with fcode := c, st := .fault, lookup := false, copy := none, missed := false } with
    waves := v.waves + 1, status := .wave, cursor := BitVec.ofNat 32 j
    wave := some { origin := some j, level := [j], cone := [], listFault := none, rollback := false } }

/-- R280, R281: what the instructions on a live graph answer and do, by the state of the graph and of its node. GTOK gives a node a token:
one that still waits for others counts it, and a graph that is frozen holds it. GEXP raises a waiting node's counts; GCANCEL makes a node
that does not run FAULT with code 0x12 and starts a wave; GRETRY sets a FAULT node and the nodes reachable from it to be re-armed; GSTAT
reads a node's word 0 or the graph's cursor, fault code and status. A header that is no live graph's gives 7, and a node beyond COUNT 6, or
all ones for GSTAT. -/
def GraphInstructions : Prop :=
  ∀ (s : State) (d a b : Reg) (pa g : Nat) (w : Nat → Word) (v : Graph), s.able [a, b] [d] → (s.slot s.cur).task.pure = false →
    BlockAt s (s.rv a) pa w → s.mm.feq = [] →
    let x := s.rv b
    let j := x.toNat
    let n := v.node j
    (s.liveGraph pa = none →
      Tells (.gtok d a b) s d 7 ∧ Tells (.gexp d a b) s d 7 ∧ Tells (.gcancel d a b) s d 7 ∧
      (fld (w 1) 31 24 ≠ 5 → Tells (.gretry d a b) s d 7) ∧
      Tells (.gstat d a b false) s d (BitVec.ofNat 64 (fld (w 3) 63 32 * 2 ^ 32 + fld (w 1) 55 48 * 256 + fld (w 1) 31 24)) ∧
      (fld (w 1) 23 0 ≤ j → Tells (.gstat d a b true) s d allOnes)) ∧
    (s.liveGraph pa = some (g, v) → s.graph? g = some v → v.ns.length = v.count →
      Tells (.gstat d a b false) s d (BitVec.ofNat 64 (v.cursor.toNat * 2 ^ 32 + v.fcode.toNat * 256 + v.status.num)) ∧
      (v.count ≤ j → Tells (.gtok d a b) s d 6 ∧ Tells (.gcancel d a b) s d 6 ∧ Tells (.gretry d a b) s d 6 ∧
        Tells (.gstat d a b true) s d allOnes) ∧
      (j < v.count →
        Tells (.gstat d a b true) s d n.word ∧
        (v.status = .running → n.st = .wait → 1 < n.pending → v.submitted →
          Makes (.gtok d a b) s d 0 g (v.with j { n with pending := n.pending - 1 })) ∧
        (v.status ≠ .running → s.heldAt (stackOfPa pa) < 4096 → Makes (.gtok d a b) s d 0 g { v with held := v.held ++ [.token j] }) ∧
        (v.status = .running → n.st = .ready ∨ n.st = .done ∨ n.st = .reused →
          Makes (.gtok d a b) s d 0 g (v.waved j 0x0D) ∧ Makes (.gcancel d a b) s d 0 g (v.waved j 0x12)) ∧
        (v.status = .running → n.st = .wait ∨ n.st = .retry → Makes (.gcancel d a b) s d 0 g (v.waved j 0x12)) ∧
        (v.status ≠ .running → Tells (.gcancel d a b) s d 1) ∧
        (v.status = .running → n.st = .fault ∨ n.st = .cancel ∨ n.st = .void → Tells (.gcancel d a b) s d 7) ∧
        (n.st ≠ .fault → Tells (.gretry d a b) s d 6) ∧ (n.st = .fault → v.status ≠ .running → Tells (.gretry d a b) s d 1) ∧
        (∀ cone, n.st = .fault → v.status = .running → s.mm.homes = [] →
          (s.reachable (Eng.sys v.part) v (v.count + 1) [j] [j]).1 = some cone →
          Makes (.gretry d a b) s d 0 g { v.with j { n with st := .retry } with status := .retrying, cone := cone })) ∧
      (let m := v.node (fld x 31 0)
       let c := fld x 47 32
       (fld x 63 48 ≠ 0 ∨ v.count ≤ fld x 31 0 ∨ m.st ≠ .wait → Tells (.gexp d a b) s d 6) ∧
       (fld x 63 48 = 0 → fld x 31 0 < v.count → m.st = .wait →
        (v.status ≠ .running → Tells (.gexp d a b) s d 1) ∧
        (v.status = .running → 65535 < m.expected + c ∨ 65535 < m.pending + c → Tells (.gexp d a b) s d 3) ∧
        (v.status = .running → m.expected + c ≤ 65535 → m.pending + c ≤ 65535 → Makes (.gexp d a b) s d 0 g
          (v.with (fld x 31 0) { m with expected := m.expected + c, pending := m.pending + c })))))

/-- The TLBs that core `k` uses hold for partition `p` only what the page tables say. -/
def TlbsTrue (s : State) (k p : Nat) : Prop :=
  ∀ t, t ∈ (s.oct (octetOf k)).tlb ∨ t ∈ (s.die (stackOf k)).tlb → t.part = p →
    ∀ va : Word, t.vbase ≤ va.toNat → va.toNat < t.vbase + t.size → s.walk p va = .leaf t

/-- R274: GLAUNCH refuses a graph that runs or is in a wave, and a header or a graph record that is not as it should be; else the graph is
live and RUNNING with the task's tenant, and every node that expects tokens waits for as many as it expects. -/
def GraphLaunch : Prop :=
  ∀ (s : State) (d a : Reg) (pa : Nat) (w : Nat → Word) (ns : List GNode) (ls : List (List Nat)), s.able [a] [d] →
    (s.slot s.cur).task.pure = false → BlockAt s (s.rv a) pa w → s.mm.feq = [] →
    TlbsTrue s (s.cur / 8) (s.slot s.cur).task.part →
    let part := (s.slot s.cur).task.part
    let walk := (s.walkGraph (s.slotEng s.cur) (w 0) (fld (w 1) 23 0)).1
    let reserved : Prop := 5 < fld (w 1) 31 24 ∨ fld (w 1) 63 56 ≠ 0 ∨ fld (w 0) 5 0 ≠ 0 ∨ fld (w 2) 2 0 ≠ 0
    (∀ g v, s.liveGraph pa = some (g, v) →
      (v.status = .wave → Tells (.glaunch d a) s d 6) ∧ (v.status = .running ∨ v.status = .retrying → Tells (.glaunch d a) s d 1)) ∧
    (s.liveGraph pa = none → fld (w 1) 31 24 = 0 ∨ 4 ≤ fld (w 1) 31 24 →
      (reserved → Tells (.glaunch d a) s d 6) ∧
      (∀ c, ¬ reserved → s.mm.homes = [] → walk = .error c → Tells (.glaunch d a) s d c) ∧
      (¬ reserved → s.mm.homes = [] → walk = .ok (ns, ls) → s.sk.graphs = [] → fld (w 1) 23 0 ≤ 1048576 →
        (∃ t, exec (.glaunch d a) s = .next t ∧ Answered s t d 0) ∧
        (ns ≠ [] → (∀ n ∈ ns, n.expected ≠ 0) → ∃ v, Makes (.glaunch d a) s d 0 s.sk.next v ∧
          v.status = .running ∧ v.part = part ∧ v.tenant = (s.slot s.cur).task.tenant ∧ v.hdr = s.rv a ∧ v.hpa = pa ∧ v.nodes = w 0 ∧
          v.count = fld (w 1) 23 0 ∧ v.cwa = w 2 ∧ v.ctag = (w 3).extractLsb' 0 32 ∧ v.fcode = 0 ∧ v.waves = 0 ∧ v.held = [] ∧
          v.owner = (s.slot s.cur).graphOwner ∧ v.wave = none ∧
          v.ns = ns.map fun n => { n with pending := n.expected, fcode := 0, sent := false, wave := 0, st := .wait })))

end Sys2Proof.Machine

/-- R280, R281: what the instructions on a live graph answer and do, by the state of the graph and of its node. GTOK gives a node a token:
one that still waits for others counts it, and a graph that is frozen holds it. GEXP raises a waiting node's counts; GCANCEL makes a node
that does not run FAULT with code 0x12 and starts a wave; GRETRY sets a FAULT node and the nodes reachable from it to be re-armed; GSTAT
reads a node's word 0 or the graph's cursor, fault code and status. A header that is no live graph's gives 7, and a node beyond COUNT 6, or
all ones for GSTAT. R274: GLAUNCH refuses a graph that runs or is in a wave, and a header or a graph record that is not as it should be;
else the graph is live and RUNNING with the task's tenant, and every node that expects tokens waits for as many as it expects. -/
def Obligations.GraphsAreLaunchedAndRead : Prop :=
  GraphInstructions ∧ GraphLaunch

namespace Sys2Proof.Machine

/-- What a wave that reaches a node makes it (R269). -/
def NodeSt.reached : NodeSt → NodeSt
  | .run => .cancel
  | .wait | .ready | .done | .reused => .void
  | .retry => .fault
  | st => st

end Sys2Proof.Machine

/-- R269, R271, R273, R275, R276, R417: what happens to a live graph. A token is discarded where its graph is not live, else it takes its
step; the end of a node's launch makes the node DONE and sends its tokens, or makes it FAULT and starts a wave, and is held while the graph
is frozen. A wave marks the nodes of its level and goes on to their successors; after its last level a retryable node is set to be re-armed,
and else the graph runs on with the fault code. Re-arming makes the cone's nodes WAIT for the tokens of the cone. -/
def Obligations.GraphHappenings : Prop :=
  ∀ (s : State) (i g : Nat) (v : Graph), s.graph? g = some v → v.ns.length = v.count → s.mm.feq = [] →
    (∃ p, s.part? v.part = some p ∧ p.gang = .running) →
    let becomes (ins : Instr) (x : Graph) : Prop := ∃ t, exec ins s = .next t ∧ t.graph? g = some x ∧ ∀ h, h ≠ g → t.graph? h = s.graph? h
    (∀ tk, get? s.sk.tokens i = some tk →
      (s.liveGraph tk.hpa = none → exec (.tokenDelivery i) s = .next { s with sk := { s.sk with tokens := del s.sk.tokens i } }) ∧
      (s.liveGraph tk.hpa = some (g, v) →
        (v.count ≤ tk.node → exec (.tokenDelivery i) s = .next { s with sk := { s.sk with tokens := del s.sk.tokens i } }) ∧
        (tk.node < v.count → v.status = .running → (v.node tk.node).st = .wait → 1 < (v.node tk.node).pending → v.submitted →
          becomes (.tokenDelivery i) (v.with tk.node { v.node tk.node with pending := (v.node tk.node).pending - 1 })) ∧
        (tk.node < v.count → v.status = .running → (v.node tk.node).st = .done → becomes (.tokenDelivery i) (v.waved tk.node 0x0D)) ∧
        (tk.node < v.count → v.status ≠ .running → s.heldAt (stackOfPa tk.hpa) < 4096 →
          becomes (.tokenDelivery i) { v with held := v.held ++ [.token tk.node] }))) ∧
    (∀ dn, get? s.sk.done i = some dn → dn.graph = g → dn.node < v.count →
      let n := v.node dn.node
      (v.status ≠ .running → s.heldAt (stackOfPa v.hpa) < 4096 →
        becomes (.nodeCompletion i) { v with held := v.held ++ [.completion dn.node dn.st] }) ∧
      (v.status = .running → n.st = .run → dn.st ≠ 0 → becomes (.nodeCompletion i) ((v.waved dn.node dn.st).unheld dn.node)) ∧
      (v.status = .running → n.st = .run → dn.st = 0 → n.missed = false → (s.succList (Eng.sys v.part) v dn.node).1 = .ok [] →
        (∃ m ∈ v.ns, m.st = .wait) → v.submitted →
        becomes (.nodeCompletion i) (v.with dn.node { n with st := .done, sent := true, lookup := false, copy := none }))) ∧
    (∀ wv lists, v.wave = some wv → wv.rollback = false → wv.level.Nodup → (∀ j ∈ wv.level, j < v.count) →
      (s.succLists (Eng.sys v.part) v wv.level).1 = lists.map .ok →
      ((∃ y ∈ lists.flatten, y ∉ wv.cone ++ wv.level) → ∃ (x : Graph) (nx : Wave), becomes (.waveLevel g) x ∧ x.status = v.status ∧
        x.wave = some nx ∧ nx.cone = wv.cone ++ wv.level ∧ nx.origin = wv.origin ∧ nx.listFault = wv.listFault ∧
        nx.level.Pairwise (· < ·) ∧ (∀ y, y ∈ nx.level ↔ y ∈ lists.flatten ∧ y ∉ wv.cone ++ wv.level) ∧
        ∀ j, j < v.count → x.node j = if j ∈ wv.level then
          { v.node j with wave := v.waves, st := (v.node j).st.reached, lookup := false, copy := none, missed := false } else v.node j) ∧
      (∀ o, wv.origin = some o → wv.level = [o] → wv.cone = [] → wv.listFault = none → lists = [[]] → (v.node o).st = .fault →
        let n := { v.node o with wave := v.waves, lookup := false, copy := none, missed := false }
        let retried : Prop := n.retryable = true ∧ 0 < n.retries ∧ n.fcode ≠ 0x12
        (retried → becomes (.waveLevel g) { v.with o { n with retries := n.retries - 1, st := .retry } with
          status := .retrying, wave := none, cone := [o], cursor := 0xFFFFFFFF }) ∧
        (¬ retried → v.held = [] → (∃ m ∈ v.ns, m.st = .wait) → v.submitted →
          becomes (.waveLevel g) { v.with o n with
            status := .running, wave := none, cone := [], cursor := 0xFFFFFFFF, fcode := if v.fcode = 0 then n.fcode else v.fcode }))) ∧
    (∀ j xs, v.status = .retrying → v.cone = [j] → j < v.count → (v.node j).st = .retry → v.held = [] → v.submitted →
      (s.succLists (Eng.sys v.part) v [j]).1 = [.ok xs] →
      let p := (v.node j).pending + if (v.node j).sent then xs.count j else 0
      p ≠ 0 → becomes (.rearm g) { v.with j { v.node j with pending := p, fcode := 0, sent := false, st := .wait } with
        status := .running, cone := [], fcode := ((v.ns.set j GNode.zero).find? fun n => n.st = .fault).elim 0 fun n => n.fcode })

namespace Sys2Proof.Machine

/-! The reuse table (ch. 15). -/

/-- The counts of a tenant of which Pewter keeps none. -/
def PewTenant.zero : PewTenant :=
  { quota := 0, demoted := [], lookups := 0, hits := 0, inserts := 0, invalidated := 0, skipped := 0 }

/-- R296, R297: RUSTAT reads one of the tenant's counts, and all ones beyond them. RUDROP drops every entry of the tenant, or the one that a
key in memory names, or the tenant's demoted set, and yields how many it dropped. -/
def ReuseCountsAndDrops : Prop :=
  ∀ (s : State) (d a : Reg) (w : Nat → Word), s.able [a] [d] → (s.slot s.cur).task.pure = false →
    let i := s.cur
    let t := (s.slot i).task.tenant
    let v := look s.pw.tenants t.toNat PewTenant.zero
    let mine (e : PewEntry) : Bool := e.tenant = t
    let held := (s.dies.map fun x => (x.2.pew.entries.filter mine).length).sum
    let out : Nat → Word
      | 0 => BitVec.ofNat 64 held
      | 1 => BitVec.ofNat 64 (v.quota % 512 + v.quota * 1024 * 2 ^ 16)
      | 2 => BitVec.ofNat 64 v.lookups
      | 3 => BitVec.ofNat 64 v.hits
      | 4 => BitVec.ofNat 64 v.inserts
      | 5 => BitVec.ofNat 64 v.invalidated
      | 6 => BitVec.ofNat 64 v.skipped
      | 7 => BitVec.ofNat 64 v.demoted.length
      | _ => BitVec.allOnes 64
    let drops (m : DropMode) (n : Nat) (gone : Nat → PewEntry → Bool) (dem : List (BitVec 128)) : Prop :=
      ∃ u, exec (.rudrop d a m) s = .next u ∧ Answered s u d (BitVec.ofNat 64 n) ∧ u.mm = s.mm ∧
        (∀ st, (u.die st).pew.entries = (s.die st).pew.entries.filter fun e => !gone st e) ∧
        look u.pw.tenants t.toNat PewTenant.zero = { v with demoted := dem } ∧
        ∀ x, x ≠ t.toNat → get? u.pw.tenants x = get? s.pw.tenants x
    let key : BitVec 128 := w 1 ++ w 0
    Yields (.rustat d a) s [a] d (out (s.rv a).toNat) ∧ drops .all held (fun _ => mine) v.demoted ∧ drops .dem v.demoted.length (fun _ _ => false) [] ∧
    (DescriptorAt s (s.rv a) 16 w →
      drops .key (if (s.die (key.toNat % 4)).pew.entries.any fun e => e.key = key && mine e then 1 else 0)
        (fun st e => st = key.toNat % 4 && e.key = key && mine e) v.demoted)

/-- R287, R288, R290, R295: RULOOK with a valid block asks for the key of its code and argument tiles: it yields 5 when the tenant has no
quota or no entry has the key, and RUKEY then holds the key; it yields 0 and writes the result's digest when an entry has the key with the
block's own result region. A block with a reserved field gives 6. RUPUT gives 6 without the key of a miss of that block; else it watches the
result region and holds its slot, which goes on with 0 when the result is hashed and its entry placed where there is room, or with 7 when
the region has been written since. -/
def ReuseLookupAndInsert : Prop :=
  ∀ (s : State) (d a : Reg) (w : Nat → Word) (l : List Desc) (ds : List (BitVec 128)) (en : PewEntry) (pages : List Nat),
    s.able [a] [d] → (s.slot s.cur).task.pure = false →
    let i := s.cur
    let t := (s.slot i).task
    let b := s.rv a
    let e := s.slotEng i
    let code : BitVec 128 := w 1 ++ w 0
    let reserved : Prop := fld (w 3) 63 48 ≠ 0 ∨ fld (w 5) 63 32 ≠ 0 ∨ ∃ j, 10 ≤ j ∧ j < 16 ∧ w j ≠ 0
    let key := pewKey t.tenant code ((w 3).extractLsb' 0 16) ((w 3).extractLsb' 16 16) ((w 3).extractLsb' 32 16) ds
    let entries := (s.die (key.toNat % 4)).pew.entries
    let wrote (u : State) (off : Nat) (x : BitVec 128) : Prop :=
      ∀ y, y < 16 → u.mm.bytes.byte (lmAddr (i / 8) (b.toNat % 0x20000) + off + y) = x.extractLsb' (8 * y) 8
    let block := DescriptorAt s b 128 w ∧ b.toNat % 64 = 0
    let asks := ¬ reserved ∧ (s.slot i).look = none ∧ (s.descList e (w 2) true).1 = some l ∧ (∀ x ∈ l, x.res = false) ∧ s.isDemoted t.tenant code = false
    (block → reserved → (s.slot i).look = none → ∃ u, exec (.rulook d a) s = .next u ∧ Answered s u d 6 ∧ (u.slot i).rukey = none ∧ u.mm = s.mm) ∧
    (block → asks → (s.pewTenant t.tenant).quota = 0 →
      ∃ u, exec (.rulook d a) s = .next u ∧ Answered s u d 5 ∧ (u.slot i).rukey = none ∧ u.mm.bytes = s.mm.bytes) ∧
    (block → asks → (s.pewTenant t.tenant).quota ≠ 0 → ((s.descList e (w 2) true).2.tileDigests e l).1 = some ds → s.mm.feq = [] →
      ((∀ x ∈ entries, ¬ (x.key = key ∧ x.tenant = t.tenant)) →
        ∃ u, exec (.rulook d a) s = .next u ∧ Answered s u d 5 ∧ (u.slot i).rukey = some (key, b) ∧ wrote u 0x30 key) ∧
      (entries.find? (fun x => x.key = key && x.tenant = t.tenant) = some en → en.rbytes = fld (w 5) 31 0 → en.raddr = w 4 →
        en.part = t.part → ∃ u, exec (.rulook d a) s = .next u ∧ Answered s u d 0 ∧ (u.slot i).rukey = none ∧ wrote u 0x30 key ∧
          wrote u 0x40 en.rdig ∧ (u.pewTenant t.tenant).hits = min (2 ^ 48 - 1) ((s.pewTenant t.tenant).hits + 1))) ∧
    ((s.slot i).rukey = none → Yields (.ruput d a) s [a] d 6) ∧
    (∀ k b', (s.slot i).rukey = some (k, b') →
      (b' ≠ b → ∃ u, exec (.ruput d a) s = .next u ∧ Answered s u d 6 ∧ (u.slot i).rukey = none ∧ u.mm = s.mm) ∧
      (b' = b → block → (s.watchResult e (w 4) (fld (w 5) 31 0)).1 = some pages → ∃ u, exec (.ruput d a) s = .next u ∧
        (u.slot i).st = .stall ∧ (u.slot i).pc = (s.slot i).pc ∧ (u.slot i).hold = .insert s.sched.nextId ((s.slot i).bind d) ∧
        u.mm.bytes = s.mm.bytes ∧ (∀ x ∈ pages, x ∈ u.pw.watch) ∧ get? u.pw.inserts s.sched.nextId = some
          { key := k, tenant := t.tenant, part := t.part, raddr := w 4, rbytes := fld (w 5) 31 0, pages := pages, spoiled := false }))

/-- R292, R295: the insert `id`, which is `k`, is that of a RUPUT which holds slot `i` and is to write `d`. -/
structure Inserting (s : State) (i id : Nat) (d : Dst) (k : PewInsert) : Prop where
  here : get? s.pw.inserts id = some k
  holds : (s.slot i).hold = .insert id d
  alone : ∀ j x, j ≠ i → (s.slot j).hold ≠ .insert id x
  free : (s.slot i).unstepped = true

/-- R289, R292, R295: the insert of a RUPUT whose region has been written since its start is skipped, and the slot goes on with 7; any other
is hashed and placed where there is room, and the slot goes on with 0. -/
def HeldInsertsEnd : Prop :=
  ∀ (s : State) (i id : Nat) (d : Dst) (k : PewInsert) (bs : List Byte), Inserting s i id d k →
    let home := k.key.toNat % 4
    let ends (v : Word) (u : State) : Prop := exec (.pewterInsert id) s = .next u ∧ Landed s u i d v ∧ (u.slot i).st = .ready ∧
      (u.slot i).hold = .none ∧ (u.slot i).pc = (s.slot i).npc ∧ (u.slot i).rukey = none ∧ u.mm.bytes = s.mm.bytes ∧
      get? u.pw.inserts id = none
    (k.spoiled = true → ∃ u, ends 7 u ∧ ∀ st, (u.die st).pew.entries = (s.die st).pew.entries) ∧
    (k.spoiled = false → (s.engReadClean { s.slotEng i with part := k.part } k.raddr k.rbytes).1 = .ok bs →
      (s.pewTenant k.tenant).quota ≠ 0 → (∀ x ∈ (s.die home).pew.entries, x.tenant ≠ k.tenant) →
      ((s.die home).pew.entries.filter fun x => x.key.toNat / 4 % 2 ^ 14 = k.key.toNat / 4 % 2 ^ 14).length < 16 →
      ∃ u n, ends 0 u ∧ (u.die home).pew.entries = (s.die home).pew.entries ++
        [{ id := n, key := k.key, raddr := k.raddr, part := k.part, tenant := k.tenant, rbytes := k.rbytes, rdig := digest16 bs
           last := s.dclk, hits := 0, pages := k.pages }])

/-- R290, R292: a node whose lookup hits an entry with its own result region is REUSED; one that hits an entry with another region begins
its copy; one whose lookup misses is submitted, and its result is inserted later. A pending insert whose region has been written is skipped,
and another is hashed and placed where there is room. -/
def NodeReuse : Prop :=
  ∀ (s : State) (g n i : Nat) (v : Graph) (q : Probe) (en : PewEntry) (k : PewInsert) (bs : List Byte),
    let m := (s.nodeProbe v n).2.engDrop (Eng.sys v.part) (v.recVa n + 0x30) (natBytes 16 q.key.toNat)
    (s.graph? g = some v → v.ns.length = v.count → n < v.count → v.status = .running → (v.node n).lookup = true → (v.node n).copy = none →
      s.mm.feq = [] → (∃ p, s.part? v.part = some p ∧ p.gang = .running) → (s.nodeProbe v n).1 = some q →
      (m.pewProbe q.tenant q.key = some en → en.rbytes = q.bytes → en.raddr = q.dst → en.part = q.part →
        (m.succList (Eng.sys v.part) v n).1 = .ok [] → (∃ x ∈ v.ns, x.st = .wait) → (v.node n).st ≠ .wait → v.submitted →
        ∃ t, exec (.pewterLookupDone g n) s = .next t ∧
          t.graph? g = some (v.with n { v.node n with key := q.key, st := .reused, sent := true, lookup := false })) ∧
      (m.pewProbe q.tenant q.key = some en → en.rbytes = q.bytes → ¬ (en.raddr = q.dst ∧ en.part = q.part) →
        ∃ t c, exec (.pewterLookupDone g n) s = .next t ∧
          t.graph? g = some (v.with n { v.node n with key := q.key, copy := some c }) ∧ c.off = 0 ∧ c.entry = en.id ∧
          c.raddr = en.raddr ∧ c.dst = q.dst ∧ c.bytes = q.bytes) ∧
      (m.pewProbe q.tenant q.key = none → ∃ t x, exec (.pewterLookupDone g n) s = .next t ∧ t.graph? g = some x ∧
        ((x.node n).st = .run ∧ (x.node n).missed = true ∨ (x.node n).st = .fault) ∧ (x.node n).key = q.key ∧
        (x.node n).lookup = false)) ∧
    (get? s.pw.inserts i = some k → (∀ j d, (s.slot j).hold ≠ .insert i d) →
      (k.spoiled = true → exec (.pewterInsert i) s = .next { s with pw := { s.pw with
        inserts := del s.pw.inserts i
        tenants := put s.pw.tenants k.tenant.toNat
          { s.pewTenant k.tenant with skipped := min (2 ^ 48 - 1) ((s.pewTenant k.tenant).skipped + 1) } } }) ∧
      (k.spoiled = false → (s.engReadClean (Eng.sys k.part) k.raddr k.rbytes).1 = .ok bs → (s.pewTenant k.tenant).quota ≠ 0 →
        (s.die (k.key.toNat % 4)).pew.entries = [] → ∃ t x, exec (.pewterInsert i) s = .next t ∧
          t.mm.bytes = s.mm.bytes ∧ get? t.pw.inserts i = none ∧ (t.die (k.key.toNat % 4)).pew.entries =
            [{ id := x, key := k.key, raddr := k.raddr, part := k.part, tenant := k.tenant, rbytes := k.rbytes, rdig := digest16 bs,
               last := s.dclk, hits := 0, pages := k.pages }]))

end Sys2Proof.Machine

/-- R296, R297: RUSTAT reads one of the tenant's counts, and all ones beyond them. RUDROP drops every entry of the tenant, or the one that a
key in memory names, or the tenant's demoted set, and yields how many it dropped. R287, R288, R290, R295: RULOOK with a valid block asks for
the key of its code and argument tiles: it yields 5 when the tenant has no quota or no entry has the key, and RUKEY then holds the key; it
yields 0 and writes the result's digest when an entry has the key with the block's own result region. A block with a reserved field gives 6.
RUPUT gives 6 without the key of a miss of that block; else it watches the result region and holds its slot, which goes on with 0 when the
result is hashed and its entry placed where there is room, or with 7 when the region has been written since. R290, R292: a node whose lookup
hits an entry with its own result region is REUSED; one that hits an entry with another region begins its copy; one whose lookup misses is
submitted, and its result is inserted later. A pending insert whose region has been written is skipped, and another is hashed and placed
where there is room. -/
def Obligations.ReuseTable : Prop :=
  ReuseCountsAndDrops ∧ ReuseLookupAndInsert ∧ HeldInsertsEnd ∧ NodeReuse

namespace Sys2Proof.Machine

/-! Agents, events and global virtual time (ch. 16, ch. 17). -/

/-- The head completes with `v` in `d`, and what Newt keeps of the task's partition becomes `n`; no byte of memory changes. -/
def NewtTells (i : Instr) (s : State) (d : Reg) (v : Word) (n : NewtPart) : Prop :=
  ∃ t q, exec i s = .next t ∧ Answered s t d v ∧ t.mm.bytes = s.mm.bytes ∧ t.part? (s.slot s.cur).task.part = some q ∧ q.newt = n

/-- R301: the words of the record of agent `id` that its fields give; word 9 depends on Newt's choice of a place. -/
def agentField (id : Nat) (g : Agent) : Nat → Word
  | 0 => g.lvt
  | 1 => BitVec.ofNat 64 (g.lastf.toNat * 2 ^ 56 + (if g.flt then 2 ^ 48 else 0) +
      (match g.st with | .idle => 1 | .ready => 2 | .opened => 3 | .rollback => 4) * 2 ^ 40 + g.home * 2 ^ 32 + id)
  | 2 => g.htab
  | 3 => g.sbase
  | 4 => g.sbytes
  | 5 => g.cbase
  | 6 => BitVec.ofNat 64 (g.ccur * 2 ^ 32 + g.ccom)
  | 7 => BitVec.ofNat 64 g.eq
  | 8 => BitVec.ofNat 64 g.ol
  | 10 => g.nproc
  | 11 => BitVec.ofNat 64 (g.nanti * 2 ^ 32 + g.nroll)
  | 12 => BitVec.ofNat 64 (g.tenant.toNat * 2 ^ 48 + g.olcap * 2 ^ 40 + g.eqcap * 2 ^ 32 + g.nseq)
  | 13 => BitVec.ofNat 64 ((g.events.filter fun e => e.st = .processed).length * 2 ^ 32 +
      (g.events.filter fun e => e.st = .unprocessed || e.st = .anti || (match e.st with | .placed _ => true | _ => false)).length)
  | 14 => BitVec.ofNat 64 g.ccap
  | _ => 0

/-- R301, R419: address `x` lies in the record of agent `ag`, in the store of which `n` is kept. -/
def InRecord (n : NewtPart) (ag x : Nat) : Prop := n.store + 256 * ag ≤ x ∧ x < n.store + 256 * ag + 256

/-- R301, R304, R315, R419: what Newt has written in device memory from `s` to `t`: agent `ag`'s record stands in its place as `g` gives it;
where there is an entry of its queue or log, its 64 bytes stand at their address; and no other byte has changed. -/
structure StoreIs (s t : State) (n : NewtPart) (ag : Nat) (g : Agent) (entry : Option (Nat × List Byte)) : Prop where
  record : ∀ j b, j < 32 → j ≠ 9 → b < 8 →
    let x := n.store + 256 * ag + 8 * j + b
    x < devEnd → (∀ e, entry = some e → ¬ (e.1 ≤ x ∧ x < e.1 + 64)) → t.mm.bytes.byte x = (agentField ag g j).extractLsb' (8 * b) 8
  laid : ∀ e, entry = some e → ∀ y, y < 64 → e.1 + y < devEnd → ¬ InRecord n ag (e.1 + y) → t.mm.bytes.byte (e.1 + y) = e.2.getD y 0
  rest : ∀ x, x < devEnd → ¬ InRecord n ag x → (∀ e, entry = some e → ¬ (e.1 ≤ x ∧ x < e.1 + 64)) →
    t.mm.bytes.byte x = s.mm.bytes.byte x

/-- The head completes with `v` in `d`; what Newt keeps of the task's partition becomes `n`, in which agent `ag` is `g`; and the store
follows. -/
def AgentTells (i : Instr) (s : State) (d : Reg) (v : Word) (n : NewtPart) (ag : Nat) (g : Agent) (entry : Option (Nat × List Byte)) : Prop :=
  ∃ t q, exec i s = .next t ∧ Answered s t d v ∧ t.part? (s.slot s.cur).task.part = some q ∧ q.newt = n ∧ StoreIs s t n ag g entry

/-- R317: what AGNEW asks of an image, by a slot at level `lv`. -/
def ImageGood (s : State) (p : Nat) (lv : Level) (w : Nat → Word) : Prop :=
  fld (w 1) 63 40 = 0 ∧ fld (w 1) 31 0 = 0 ∧ (fld (w 1) 39 32 < 4 ∨ fld (w 1) 39 32 = 0xFF) ∧ fld (w 2) 3 0 = 0 ∧ fld (w 3) 11 0 = 0 ∧
  fld (w 4) 11 0 = 0 ∧ (∀ j, 6 ≤ j → j < 12 → w j = 0) ∧ 4 ≤ fld (w 12) 47 40 ∧ fld (w 12) 47 40 ≤ 16 ∧ 4 ≤ fld (w 12) 39 32 ∧
  fld (w 12) 39 32 ≤ 16 ∧ fld (w 12) 31 0 = 0 ∧ w 13 = 0 ∧ fld (w 14) 63 32 = 0 ∧ fld (w 14) 31 0 ≠ 0 ∧
  (∀ j, 15 ≤ j → j < 32 → w j = 0) ∧
  ∀ j, j < (w 4).toNat / 4096 → let va := w 3 + BitVec.ofNat 64 (4096 * j)
    fld va 63 56 = 0 ∧ fld va 63 48 ≠ 0xFF ∧ ∃ t, s.walk p va = .leaf t ∧ t.leaf.w = true ∧ t.leaf.ver = true ∧ t.leaf.tgt = 0 ∧
      (lv = .u → t.leaf.u = true)

/-- R300, R301, R317, R318: AGNEW makes an agent of a good image and yields its id with status 0; it gives 2 when there is no room and 6 for
a bad image. AGSTAT reads a word of an agent's record, and all ones for what does not exist; CHAIN is zero just when the agent has no open
or uncommitted event. -/
def AgentsAreMadeAndRead : Prop :=
  ∀ (s : State) (d a b : Reg) (w : Nat → Word) (v : Part), (s.slot s.cur).task.pure = false →
    let i := s.cur
    let task := (s.slot i).task
    let n := v.newt
    let home := if fld (w 1) 39 32 = 0xFF then s.cur / 8 / 2048 else fld (w 1) 39 32
    let ol := n.free + 64 * 2 ^ fld (w 12) 39 32
    let last := ol + 64 * 2 ^ fld (w 12) 47 40
    let good := ImageGood s task.part (s.slot i).lv w ∧ (BitVec.ofNat 16 (fld (w 12) 63 48) = task.tenant ∨ (s.slot i).lv ≠ .u)
    let new : Agent :=
      { lvt := w 0, lastf := 0, flt := false, st := .idle, home := home, htab := w 2, sbase := w 3, sbytes := w 4, cbase := w 5
        ccur := 0, ccom := 0, eq := n.free, ol := ol, nproc := 0, nanti := 0, nroll := 0
        tenant := BitVec.ofNat 16 (fld (w 12) 63 48), olcap := fld (w 12) 47 40, eqcap := fld (w 12) 39 32, nseq := 0
        ccap := fld (w 14) 31 0, events := [], owed := 0, rb := none }
    s.part? task.part = some v →
    (s.able [a] [d] → DescriptorAt s (s.rv a) 256 w → (s.rv a).toNat % 64 = 0 → TlbsTrue s (s.cur / 8) task.part →
      (¬ good → NewtTells (.agnew d a) s d 6 n) ∧
      (good → n.next = n.cap ∨ n.size - 4096 * n.pool < last → NewtTells (.agnew d a) s d 2 n) ∧
      (good → n.next ≠ n.cap → last ≤ n.size - 4096 * n.pool → AgentTells (.agnew d a) s d (BitVec.ofNat 64 (n.next * 2 ^ 32))
        { n with next := n.next + 1, free := last, agents := put n.agents n.next new } n.next new none)) ∧
    (s.able [a, b] [d] →
      (get? n.agents (s.rv a).toNat = none ∨ 31 < (s.rv b).toNat → Yields (.agstat d a b) s [a, b] d allOnes) ∧
      (∀ g, get? n.agents (s.rv a).toNat = some g → (s.rv b).toNat ≤ 31 →
        ((s.rv b).toNat ≠ 9 → Yields (.agstat d a b) s [a, b] d (agentField (s.rv a).toNat g (s.rv b).toNat)) ∧
        (let waits (e : NEvent) : Prop := e.st = .unprocessed ∨ e.st = .anti ∨ ∃ j, e.st = .placed j
         (s.rv b).toNat = 9 → ((∀ e ∈ g.events, waits e) → Yields (.agstat d a b) s [a, b] d 0) ∧
          ((∃ e ∈ g.events, ¬ waits e) → ∃ v, v ≠ 0 ∧ Yields (.agstat d a b) s [a, b] d v))))

/-- R304, R319, R325: EVSEND of a good image outside an event, at GVT or later, sends a positive of sender 0xFFFFFFFF; in an event, later
than the event, it sends one with the agent's next sequence and logs it. Its colour is the stack's, where it is counted as sent and lowers
the least timestamp. A bad image, or a timestamp too early, gives 6 and a full output log 2. -/
def EventsAreSent : Prop :=
  ∀ (s : State) (d a : Reg) (w : Nat → Word) (v : Part), s.able [a] [d] → (s.slot s.cur).task.pure = false →
    DescriptorAt s (s.rv a) 64 w → (s.rv a).toNat % 64 = 0 → s.part? (s.slot s.cur).task.part = some v →
    let task := (s.slot s.cur).task
    let n := v.newt
    let st := s.cur / 8 / 2048
    let u := look n.ps st NewtPS.zero
    let ts := w 0
    let good : Prop := fld (w 1) 31 24 = 0 ∧ w 2 = 0 ∧ w 3 = 0 ∧ fld (w 1) 23 0 < n.next ∧ ts ≠ BitVec.allOnes 64
    let room := (s.nmsgs.filter fun m => m.2.stack = st).length < 4096
    let counted := if u.colour then { u with sent1 := u.sent1 + 1, redMin := if ts < u.redMin then ts else u.redMin }
      else { u with sent0 := u.sent0 + 1, redMin := if ts < u.redMin then ts else u.redMin }
    let msg (snd seq : Nat) (stime : Word) (ext : Bool) (m : EvMsg) : Prop :=
      m = { ts := ts, sel := BitVec.ofNat 32 (fld (w 1) 63 32), ext := ext, col := u.colour, sign := false, rcv := fld (w 1) 23 0, seq := seq
            snd := snd, stime := stime, pay := m.pay } ∧ m.pay.length = 32 ∧
      ∀ j x, j < 4 → x < 8 → m.pay.getD (8 * j + x) 0 = (w (4 + j)).extractLsb' (8 * x) 8
    let sends (snd seq : Nat) (stime : Word) (ext : Bool) (m : EvMsg) (n' : NewtPart) (mem : State → Prop) : Prop := msg snd seq stime ext m ∧
      ∃ t q, exec (.evsend d a) s = .next t ∧ Answered s t d 0 ∧ mem t ∧ t.part? task.part = some q ∧ q.newt = n' ∧
        t.nmsgs = put s.nmsgs s.sched.nextId { part := task.part, stack := st, msg := m, held := false }
    (¬ good → Yields (.evsend d a) s [a] d 6) ∧
    (good → s.openEvent s.cur = none →
      (ts < n.gvt → Yields (.evsend d a) s [a] d 6) ∧
      (n.gvt ≤ ts → room → ∃ m, sends 0xFFFFFFFF (n.extCount % 2 ^ 32) n.gvt true m
        { n with extCount := n.extCount + 1, ps := put n.ps st counted } (·.mm = s.mm))) ∧
    (∀ e g, good → s.openEvent s.cur = some e → get? n.agents task.agent = some g →
      let used := (g.events.map fun e => e.log.length).sum + g.owed
      (ts ≤ e.msg.ts → Yields (.evsend d a) s [a] d 6) ∧
      (e.msg.ts < ts → 2 ^ g.olcap ≤ used → Yields (.evsend d a) s [a] d 2) ∧
      (e.msg.ts < ts → used < 2 ^ g.olcap → g.nseq < 0xFFFFFFFF → room → ∃ m pl, pl ∉ n.logPlaces task.agent ∧
        (let log (f : NEvent) : NEvent := if f.num = e.num then { f with log := f.log ++ [.send pl m] } else f
         let g' : Agent := { g with nseq := g.nseq + 1, events := g.events.map log }
         sends task.agent g.nseq e.msg.ts false m { n with ps := put n.ps st counted, agents := put n.agents task.agent g' } fun t =>
           StoreIs s t n task.agent g' (some (n.store + g.ol + 64 * pl, m.bytes)))))

/-- R320 to R323, R332, R340: EVDONE ends the open event's task once its counters are zero, and takes PROTECTION outside an event. CTXAPP
and CTXCUT move an agent's context lengths, outside its events or by its own open event, and give 6 or 2 where they may not. IRREV logs 48
bytes for a ring that is on. VTWIN sets W0, and lowers W to it. GVTREQ starts a round, or asks for a further one. -/
def EventInstructions : Prop :=
  ∀ (s : State) (d a b : Reg) (cm : Bool) (w : Nat → Word) (v : Part), (s.slot s.cur).task.pure = false →
    s.part? (s.slot s.cur).task.part = some v →
    let i := s.cur
    let sl := s.slot i
    let task := sl.task
    let n := v.newt
    let id := (s.rv a).toNat
    let x := (s.rv b).toNat
    let idle := sl.cnt = { ld := 0, st := 0, cp := 0, tl := 0 } ∧ sl.vbusy = 0
    let at_ (k : Nat) : Word := BitVec.ofNat 64 (k * 2 ^ 32)
    (task.evt = none → ∃ r : Trap, r.code = .protection ∧ r.ops = 7 ∧ exec .evdone s = .next (s.takeTrap i r)) ∧
    (task.evt ≠ none → idle → ∃ t, exec .evdone s = .next t ∧ (t.slot i).st = .drain ∧ (t.slot i).exit = .halt ∧
      (t.slot i).regs = sl.regs ∧ t.mm = s.mm) ∧
    (task.evt ≠ none → ¬ idle → ∃ t, exec .evdone s = .next t ∧ (t.slot i).st = .waiting ∧ (t.slot i).regs = sl.regs ∧ t.mm = s.mm) ∧
    (s.able [a, b] [d] → get? n.agents id = none →
      Yields (.ctxapp d a b) s [a, b] d 6 ∧ Yields (.ctxcut d a b cm) s [a, b] d 6) ∧
    (∀ g low, s.able [a, b] [d] → get? n.agents id = some g →
      (s.openEvent i = none ∧ (∀ e ∈ g.events, e.st = .anti) ∧ low = 0) ∨
        (∃ e, s.openEvent i = some e ∧ id = task.agent ∧ low = e.ccur0 ∧ cm = false) →
      (g.ccap < g.ccur + x → Yields (.ctxapp d a b) s [a, b] d (at_ g.ccur ||| 2)) ∧
      (let h := { g with ccur := g.ccur + x }
       g.ccur + x ≤ g.ccap → AgentTells (.ctxapp d a b) s d (at_ g.ccur) { n with agents := put n.agents id h } id h none) ∧
      (x < g.ccom ∨ g.ccur < x ∨ x < low → Yields (.ctxcut d a b cm) s [a, b] d (at_ g.ccur ||| 6)) ∧
      (g.ccom ≤ x → x ≤ g.ccur → low ≤ x →
        (let h := { g with ccom := x }
         cm = true → AgentTells (.ctxcut d a b true) s d (at_ g.ccur) { n with agents := put n.agents id h } id h none) ∧
        (let h := { g with ccur := x }
         cm = false → AgentTells (.ctxcut d a b false) s d (at_ x) { n with agents := put n.agents id h } id h none))) ∧
    (s.able [a, b] [d] → s.openEvent i = none → Yields (.irrev d a b) s [a, b] d 6) ∧
    (∀ e g, s.able [a, b] [d] → DescriptorAt s (s.rv a) 48 w → s.openEvent i = some e → get? n.agents task.agent = some g →
      let on : Prop := x ≤ 255 ∧ ∃ r, get? n.rings x = some r ∧ r.en = true
      let used := (g.events.map fun e => e.log.length).sum + g.owed
      (¬ on → Yields (.irrev d a b) s [a, b] d 6) ∧ (on → 2 ^ g.olcap ≤ used → Yields (.irrev d a b) s [a, b] d 2) ∧
      (on → used < 2 ^ g.olcap → ∃ (pay : List Byte) (pl : Nat), pay.length = 48 ∧
        (∀ j y, j < 6 → y < 8 → pay.getD (8 * j + y) 0 = (w j).extractLsb' (8 * y) 8) ∧ pl ∉ n.logPlaces task.agent ∧
        (let idx := (e.log.filter fun l => match l with | .irrev .. => true | _ => false).length
         let entry : LogEntry := .irrev pl e.msg.ts idx x task.agent pay
         let h := { g with events := g.events.map fun f => if f.num = e.num then { f with log := f.log ++ [entry] } else f }
         AgentTells (.irrev d a b) s d 0 { n with agents := put n.agents task.agent h } task.agent h
           (some (n.store + g.ol + 64 * pl, entry.bytes))))) ∧
    (s.able [a] [d] → sl.lv ≠ .u → NewtTells (.vtwin d a) s d n.w0 { n with w0 := s.rv a, w := if s.rv a < n.w then s.rv a else n.w }) ∧
    (sl.unstepped = true → ∃ t q, exec .gvtreq s = .next t ∧ (t.slot i).pc = sl.npc ∧ t.mm = s.mm ∧ t.part? task.part = some q ∧
      (n.act = true ∨ n.pend = true → q.newt = { n with pend := true }) ∧
      (n.act = false → n.pend = false → q.newt.act = true ∧ q.newt.pend = false ∧ q.newt.timerAt = s.dclk + n.period))

end Sys2Proof.Machine

/-- R300, R301, R317, R318: AGNEW makes an agent of a good image and yields its id with status 0; it gives 2 when there is no room and 6 for
a bad image. AGSTAT reads a word of an agent's record, and all ones for what does not exist; CHAIN is zero just when the agent has no open
or uncommitted event. R304, R319, R325: EVSEND of a good image outside an event, at GVT or later, sends a positive of sender 0xFFFFFFFF; in
an event, later than the event, it sends one with the agent's next sequence and logs it. Its colour is the stack's, where it is counted as
sent and lowers the least timestamp. A bad image, or a timestamp too early, gives 6 and a full output log 2. R320 to R323, R332, R340:
EVDONE ends the open event's task once its counters are zero, and takes PROTECTION outside an event. CTXAPP and CTXCUT move an agent's
context lengths, outside its events or by its own open event, and give 6 or 2 where they may not. IRREV logs 48 bytes for a ring that is on.
VTWIN sets W0, and lowers W to it. GVTREQ starts a round, or asks for a further one. -/
def Obligations.EventInstructionsOfAgents : Prop :=
  AgentsAreMadeAndRead ∧ EventsAreSent ∧ EventInstructions

namespace Sys2Proof.Machine

/-- From `s` to `t` only Newt's record of partition `p` has changed: it is `n`. -/
structure NewtOnly (s t : State) (p : Nat) (n : NewtPart) : Prop where
  rest : t = { s with parts := t.parts }
  others : ∀ q, q ≠ p → t.part? q = s.part? q
  here : ∃ v, s.part? p = some v ∧ t.part? p = some { v with newt := n }

/-- The happening is possible and changes only Newt's record of partition `p`, to `n`. -/
def NewtTurns (i : Instr) (s : State) (p : Nat) (n : NewtPart) : Prop := ∃ t, exec i s = .next t ∧ NewtOnly s t p n

/-- R299: the order of events, by timestamp, sender and sequence. -/
def EvMsg.before (x y : EvMsg) : Prop :=
  x.ts < y.ts ∨ x.ts = y.ts ∧ (x.snd < y.snd ∨ x.snd = y.snd ∧ x.seq < y.seq)

/-- R325: the unit `u` has received a message of colour `c`. -/
def NewtPS.received (u : NewtPS) (c : Bool) : NewtPS :=
  if c then { u with recv1 := u.recv1 + 1 } else { u with recv0 := u.recv0 + 1 }

/-- R299, R303, R312, R313, R324, R325: an event message that arrives at an agent which is not rolling back, and orders before no event that
has run, stands unprocessed in the queue; one that a waiting anti-message matches annihilates with it; one for a full queue is held. An
anti-message removes the unprocessed event that it matches, and waits where it matches none. An arrival is counted as received. A held
message enters once there is room. A positive before an event that has run rolls the agent back, and rollback returns the events after the
boundary to the queue. -/
def MessagesArrive : Prop :=
  ∀ (s : State) (i : Nat) (m : NMsg) (v : Part) (g : Agent), get? s.nmsgs i = some m → s.part? m.part = some v → v.gang = .running →
    get? v.newt.agents m.msg.rcv = some g → g.rb = none →
    let a := m.msg.rcv
    let ins : Instr := if m.msg.sign then .antiMessageArrival i else .eventArrival i
    let same (e : NEvent) : Prop := e.msg.ts = m.msg.ts ∧ e.msg.snd = m.msg.snd ∧ e.msg.seq = m.msg.seq
    let agent (t : State) (x : Agent) : Prop := ∃ q, t.part? m.part = some q ∧ get? q.newt.agents a = some x
    let counted (t : State) : Prop := get? t.nmsgs i = none ∧ ∃ q, t.part? m.part = some q ∧
      look q.newt.ps g.home NewtPS.zero = (look v.newt.ps g.home NewtPS.zero).received m.msg.col
    let queued (t : State) (x : Agent) (e : NEvent) : Prop := e.msg = m.msg ∧ e.place ∉ g.events.map (·.place) ∧
      StoreIs s t v.newt a x (some (v.newt.store + g.eq + 64 * e.place, m.msg.bytes))
    let room := g.events.length < 2 ^ g.eqcap
    (m.held = false → m.msg.sign = false → (∀ e ∈ g.events, ¬ same e) →
      (∀ e ∈ g.events, e.st = .unprocessed ∨ e.st = .anti ∨ (e.st = .processed ∧ e.msg.before m.msg)) → room →
      ∃ t x e, exec ins s = .next t ∧ counted t ∧ agent t x ∧ queued t x e ∧ e.st = .unprocessed ∧ e.copies = [] ∧ e.log = [] ∧
        (∀ f, f ∈ x.events ↔ f = e ∨ f ∈ g.events) ∧ x.lvt = g.lvt ∧ x.ccur = g.ccur ∧
        ∀ l r, x.events = l ++ e :: r → (l ++ r = g.events) ∧ ∀ f, l.getLast? = some f → f.msg.before m.msg) ∧
    (∀ e, m.held = false → m.msg.sign = false → e ∈ g.events → e.st = .anti → same e → (g.events.map (·.num)).Nodup →
      (∀ f ∈ g.events, same f → f.st = .anti → f = e) →
      let x : Agent := { g with events := g.events.filter fun f => f.num ≠ e.num }
      ∃ t, exec ins s = .next t ∧ counted t ∧ agent t x ∧ StoreIs s t v.newt a x none) ∧
    (m.held = false → (∀ e ∈ g.events, ¬ same e) → ¬ room →
      ∃ t q, exec ins s = .next t ∧ agent t g ∧ get? t.nmsgs i = some { m with held := true } ∧ t.part? m.part = some q ∧ t.mm = s.mm ∧
        look q.newt.ps m.stack NewtPS.zero = (look v.newt.ps m.stack NewtPS.zero).received m.msg.col) ∧
    (∀ e, m.held = false → m.msg.sign = true → e ∈ g.events → e.st = .unprocessed → same e → (∀ f ∈ g.events, same f → f = e) →
      (g.events.map (·.num)).Nodup → ∃ t x, exec ins s = .next t ∧ counted t ∧ agent t x ∧
        x.events = g.events.filter (fun f => f.num ≠ e.num) ∧ x.nanti = g.nanti ∧ x.lvt = g.lvt ∧ StoreIs s t v.newt a x none) ∧
    (m.held = false → m.msg.sign = true → (∀ e ∈ g.events, ¬ same e) → room →
      ∃ t x e, exec ins s = .next t ∧ counted t ∧ agent t x ∧ queued t x e ∧ e.st = .anti ∧
        (∀ f, f ∈ x.events ↔ f = e ∨ f ∈ g.events) ∧ x.st = g.st) ∧
    (m.held = true → m.msg.sign = false → (∀ e ∈ g.events, ¬ same e ∧ e.st = .unprocessed) → room →
      ∃ t x e, exec (.heldMessageRelease i) s = .next t ∧ get? t.nmsgs i = none ∧ agent t x ∧ queued t x e ∧ e.st = .unprocessed ∧
        ∀ f, f ∈ x.events ↔ f = e ∨ f ∈ g.events) ∧
    (∀ e, m.held = false → m.msg.sign = false → g.events = [e] → e.st = .processed → m.msg.before e.msg → e.copies = [] → e.log = [] →
      s.sk.graphs = [] → s.disp.launches = [] → 1 < 2 ^ g.eqcap →
      ∃ t x, exec ins s = .next t ∧ agent t x ∧ x.rb = none ∧ x.nroll = min 0xFFFFFFFF (g.nroll + 1) ∧ x.lvt = e.lvt0 ∧ x.ccur = e.ccur0 ∧
        x.nproc = g.nproc - 1 ∧ x.events.map (·.msg) = [m.msg, e.msg] ∧ ∀ f ∈ x.events, f.st = .unprocessed)

/-- R310, R312: once the slot of the open event is idle, a rollback restores what the undone event overwrote, the agent's LVT and context
length, and returns the event to the queue. -/
def RollbackRestores : Prop :=
  ∀ (s : State) (p a : Nat) (v : Part) (g : Agent) (r : Rollback) (e : NEvent) (c : Granule),
    s.part? p = some v → v.gang = .running → get? v.newt.agents a = some g → g.rb = some r → g.events = [e] →
    (e.st = .processed ∨ ∃ j, e.st = .opened j ∧ (s.slot j).st = .idle) → e.copies = [c] → e.log = [] → r.remove = [] →
    ¬ (e.msg.ts < r.ts ∨ e.msg.ts = r.ts ∧ (e.msg.snd < r.snd ∨ e.msg.snd = r.snd ∧ e.msg.seq < r.seq)) → c.old.length = 4096 →
    c.pa % 4096 = 0 → c.pa + 4096 ≤ devEnd → s.sk.graphs = [] → s.disp.launches = [] →
    ∃ t q x, exec (.rollbackContinue p a) s = .next t ∧ t.part? p = some q ∧ get? q.newt.agents a = some x ∧ x.rb = none ∧
      x.lvt = e.lvt0 ∧ x.ccur = e.ccur0 ∧ x.nproc = (if e.st = .processed then g.nproc - 1 else g.nproc) ∧
      (∃ f, x.events = [f] ∧ f.msg = e.msg ∧ f.st = .unprocessed ∧ f.copies = [] ∧ f.log = []) ∧
      ∀ y, y < devEnd → ¬ InRecord v.newt a y → t.mm.bytes.byte y =
        if c.taken = true ∧ c.pa ≤ y ∧ y < c.pa + 4096 then c.old.getD (y - c.pa) 0 else s.mm.bytes.byte y

/-- R303, R306, R307: an agent's earliest unprocessed event, in the window, is placed in the intake of the handler slot that holds fewest;
it opens on the idle slot, where a task begins at the handler's PC with the event's address in x1, and the agent is OPEN. -/
def EventsArePlacedAndOpened : Prop :=
  ∀ (s : State) (p a k n : Nat) (v : Part) (g : Agent) (e : NEvent), n < 8 → s.part? p = some v → v.gang = .running →
    get? v.newt.agents a = some g → g.rb = none → g.events = [e] →
    let i := 8 * k + n
    (g.st = .ready → e.st = .unprocessed → e.msg.ts.toNat ≤ min (v.newt.gvt.toNat + v.newt.w.toNat) (2 ^ 64 - 1) →
      i ∈ s.intakeSlots p g.home → (∀ j ∈ s.intakeSlots p g.home,
        (s.slot i).intake.length < (s.slot j).intake.length ∨ (s.slot i).intake.length = (s.slot j).intake.length ∧ i ≤ j) →
      ∃ t q, exec (.eventPlace p a) s = .next t ∧ t.slot i = { s.slot i with intake := (s.slot i).intake ++ [e.num] } ∧
        (∀ j, j ≠ i → t.slot j = s.slot j) ∧ t.part? p = some q ∧
        (let h := { g with events := [{ e with st := .placed i }] }
         get? q.newt.agents a = some h ∧ StoreIs s t v.newt a h none)) ∧
    (∀ rest pc, (s.slot i).st = .idle → (s.slot i).intake = e.num :: rest → (s.oct (k / 8)).part = some p → e.st = .placed i →
      v.newt.agents = [(a, g)] → e.copies = [] → 0 < v.newt.pool → (s.findHandler p g.tenant g.htab e.msg.sel).1 = some pc →
      ∃ t q, exec (.eventOpen k n) s = .next t ∧ (t.slot i).st = .ready ∧ (t.slot i).pc = pc ∧ (t.slot i).lv = .u ∧
        (t.slot i).task.evt = some e.num ∧ (t.slot i).task.agent = a ∧ (t.slot i).task.tenant = g.tenant ∧
        (t.slot i).regs.x.getD 1 0 = BitVec.ofNat 64 (0x00FFFF000001FE00 + 64 * n) ∧ t.part? p = some q ∧
        get? q.newt.agents a = some { g with st := .opened, events := [{ e with st := .opened i, lvt0 := g.lvt, ccur0 := g.ccur }] })

end Sys2Proof.Machine

/-- R299, R303, R312, R313, R324, R325: an event message that arrives at an agent which is not rolling back, and orders before no event that
has run, stands unprocessed in the queue; one that a waiting anti-message matches annihilates with it; one for a full queue is held. An
anti-message removes the unprocessed event that it matches, and waits where it matches none. An arrival is counted as received. A held
message enters once there is room. A positive before an event that has run rolls the agent back, and rollback returns the events after the
boundary to the queue. R310, R312: once the slot of the open event is idle, a rollback restores what the undone event overwrote, the agent's
LVT and context length, and returns the event to the queue. R303, R306, R307: an agent's earliest unprocessed event, in the window, is
placed in the intake of the handler slot that holds fewest; it opens on the idle slot, where a task begins at the handler's PC with the
event's address in x1, and the agent is OPEN. -/
def Obligations.EventsGoBackAndForth : Prop :=
  MessagesArrive ∧ RollbackRestores ∧ EventsArePlacedAndOpened

namespace Sys2Proof.Machine

/-- R326: `m` is the least of the timestamps that stand at stack `st`, or all ones where there is none. -/
def LeastAt (s : State) (p st : Nat) (n : NewtPart) (m : Word) : Prop :=
  let stands (x : Word) : Prop := x = (look n.ps st NewtPS.zero).redMin ∨
    (∃ a ∈ n.agents, a.2.home = st ∧ ((∃ e ∈ a.2.events, e.st ≠ .processed ∧ x = e.msg.ts) ∨ ∃ r, a.2.rb = some r ∧ x = r.ts)) ∨
    ∃ w ∈ s.nmsgs, w.2.part = p ∧ w.2.stack = st ∧ w.2.held = true ∧ x = w.2.msg.ts
  stands m ∧ ∀ x, stands x → m ≤ x

/-- R329: partition `q` of this module runs its rounds with `p`. -/
def RunsWith (s : State) (p : Nat) (v : Part) (q : Nat) : Prop :=
  q = p ∨ (s.host.module.toNat, q) ∈ v.newt.domain ∧ (s.part? q).isSome = true

/-- R327, R329: what a pass of the round that the partitions `l` run together sums: the reports of their stacks. -/
def passReports (s : State) (l : List Nat) : List (Int × Word) :=
  l.flatMap fun q => (List.range 4).map fun st =>
    (((s.part? q).map fun w => (look w.newt.ps st NewtPS.zero).report).getD none).getD (0, BitVec.allOnes 64)

/-- R328: `m` is the largest of the words of `l`, or 0 where there is none. -/
def LargestOf (l : List Word) (m : Word) : Prop := (m = 0 ∨ m ∈ l) ∧ ∀ x ∈ l, x ≤ m

/-- R328: what a round that closes with the minimum `m` lets stack `st` commit: the events below it that its agents have processed. -/
def IsDone (n : NewtPart) (st : Nat) (m : Word) (num : Nat) : Prop :=
  ∃ a ∈ n.agents, a.2.home = st ∧ ∃ e ∈ a.2.events, e.st = .processed ∧ e.msg.ts < m ∧ e.num = num

/-- R325 to R329, R332: a round of global virtual time. The timer starts one at every partition of the domain, whose other modules are sent
START (log 34), or asks for one while a round runs; at the cut a stack takes the other colour and forgets its least timestamp; it reports every 64 core cycles the difference of its
counts of the colour that the round retires and its local minimum. A pass over the partitions that run the round, under the lowest of them,
is taken once every stack has reported: one that does not balance is discarded; one that does raises GVT to the least minimum, or where
there is no event to the largest LVT, ends the round, and lets each stack commit below the minimum what has been processed by then. -/
def RoundsOfVirtualTime : Prop :=
  ∀ (s : State) (p st : Nat) (v : Part), s.part? p = some v → v.gang = .running →
    let n := v.newt
    let u := look n.ps st NewtPS.zero
    (n.period ≠ 0 → n.timerAt ≤ s.dclk → n.act = true → n.pend = false → NewtTurns (.gvtTimer p) s p { n with pend := true }) ∧
    (n.period ≠ 0 → n.timerAt ≤ s.dclk → n.act = false → n.pend = false → ∃ t, exec (.gvtTimer p) s = .next t ∧
      t = { s with parts := t.parts, net := (s.sendFar p [s.laneWord p 1]).net } ∧ ∀ q, (¬ RunsWith s p v q → t.part? q = s.part? q) ∧ ∀ w, RunsWith s p v q → s.part? q = some w → ∃ n' : NewtPart,
        t.part? q = some { w with newt := n' } ∧
        n' = { w.newt with act := true, pend := false, timerAt := s.dclk + w.newt.period, ps := n'.ps } ∧
        ∀ j, j < 4 → look n'.ps j NewtPS.zero = { look w.newt.ps j NewtPS.zero with cut := false, report := none }) ∧
    (n.act = true → st < 4 →
      (let cut : NewtPS := { u with colour := !u.colour, redMin := BitVec.allOnes 64, cut := true, cutAt := s.dclk, report := none }
       u.cut = false → NewtTurns (.gvtCut p st) s p { n with ps := put n.ps st cut }) ∧
      (let diff : Int := if u.colour then (u.sent0 : Int) - u.recv0 else (u.sent1 : Int) - u.recv1
       u.cut = true → u.report = none → u.cutAt < s.dclk → (s.dclk - u.cutAt) % 64 = 0 →
        ∃ m, LeastAt s p st n m ∧
          NewtTurns (.gvtReport p st) s p { n with ps := put n.ps st { u with cutAt := s.dclk, report := some (diff, m) } })) ∧
    (∀ l : List Nat, l.Pairwise (· < ·) → (∀ q, q ∈ l ↔ RunsWith s p v q ∧ ∃ w, s.part? q = some w ∧ w.newt.act = true) →
      l.head? = some p → (∀ q ∈ l, ∀ w, s.part? q = some w → w.gang = .running ∧
        ∀ j, j < 4 → (look w.newt.ps j NewtPS.zero).report ≠ none) →
      (∃ t, exec (.gvtPass p) s = .next t) ∧
      ((∀ d ∈ n.domain, d.1 = s.host.module.toNat) → n.root = s.host.module.toNat →
        let total := ((passReports s l).map (·.1)).sum
        (total ≠ 0 → ∃ t, exec (.gvtPass p) s = .next t ∧ t = { s with parts := t.parts } ∧
          ∀ q, (q ∉ l → t.part? q = s.part? q) ∧ ∀ w, q ∈ l → s.part? q = some w →
            t.part? q = some { w with newt := { w.newt with ps := mapVals (fun _ u => { u with report := none }) w.newt.ps } }) ∧
        (∀ m far, total = 0 → m ∈ (passReports s l).map (·.2) → (∀ r ∈ passReports s l, m ≤ r.2) →
          LargestOf (l.flatMap fun q => ((s.part? q).elim [] fun w => w.newt.agents).map fun a => a.2.lvt) far →
          ∃ t, exec (.gvtPass p) s = .next t ∧ t.slots = s.slots ∧ ∀ q, (q ∉ l → t.part? q = s.part? q) ∧
            ∀ w, q ∈ l → s.part? q = some w → ∃ n' : NewtPart, t.part? q = some { w with newt := n' } ∧
              (let g := if m = BitVec.allOnes 64 then far else m
               n' = { w.newt with
                act := false, round := w.newt.round + 1, gvt := if w.newt.gvt < g then g else w.newt.gvt, ps := n'.ps, agents := n'.agents
                commitM := (List.range 4).map fun j => (j, w.newt.doneBelow j m) }) ∧
              (∀ j, j < 4 → look n'.ps j NewtPS.zero =
                let x := look w.newt.ps j NewtPS.zero
                if x.colour then { x with cut := false, report := none, sent0 := 0, recv0 := 0 }
                else { x with cut := false, report := none, sent1 := 0, recv1 := 0 }) ∧
              ∀ a x, get? w.newt.agents a = some x → ∃ y, get? n'.agents a = some y ∧
                (y = x ∨ x.st = .idle ∧ y = { x with st := .ready }))))

/-- R328, R333, R335 to R337: at commit the events of the stack's agents that were processed below the round's minimum when it closed leave
their queues, and the others stay; a committed record goes to its ring. A ring with room, by the consumer index it last read
or, where that leaves none, by a fresh one, writes its oldest record and counts it; a full one stalls and tells the host, and reads its
consumer index again 256 core cycles later. -/
def CommitAndDelivery : Prop :=
  ∀ (s : State) (p st r : Nat) (v : Part), s.part? p = some v → v.gang = .running →
    let n := v.newt
    (∀ m j, j ∈ n.doneBelow st m ↔ IsDone n st m j) ∧
    (∀ nums, get? n.commitM st = some nums →
      ∃ t q, exec (.commit p st) s = .next t ∧ t.slots = s.slots ∧ t.part? p = some q ∧ q.newt.commitM = del n.commitM st ∧
        (∀ y, y < devEnd → (∀ a g, get? n.agents a = some g → ¬ InRecord n a y) → t.mm.bytes.byte y = s.mm.bytes.byte y) ∧
        ((n.agents.map (·.1)).Nodup → ∀ a g, get? n.agents a = some g → (g.events.map (·.num)).Nodup →
          ∃ x, get? q.newt.agents a = some x ∧ x.lvt = g.lvt ∧ x.nproc = g.nproc ∧
            x.events = g.events.filter fun e => !(g.home = st && e.st = .processed && nums.contains e.num))) ∧
    (∀ ring key x rest, get? n.rings r = some ring → ring.recs = (key, x) :: rest → ring.en = true → n.commitM = [] →
      ring.stall = false →
      let full (g : Ring) : Prop := (g.p - g.cidx).toNat = 2 ^ g.rsz
      let delivers (g : Ring) : Prop := ∃ t q, exec (.ringDelivery p r) s = .next t ∧ t.part? p = some q ∧
        get? q.newt.rings r = some { g with p := g.p + 1, ndel := g.ndel + 1, recs := rest }
      let now := (s.readCidx p ring).1
      (∃ t, exec (.ringDelivery p r) s = .next t) ∧
      (s.mm.feq = [] → (¬ full ring → delivers ring) ∧ (full ring → ¬ full now → delivers now) ∧
        (full ring → full now → ∃ t q, exec (.ringDelivery p r) s = .next t ∧ t.part? p = some q ∧ get? q.newt.rings r = some
          { now with stall := true, nstall := min 0x7FFFFFFF (ring.nstall + 1), pollAt := s.dclk + 256 } ∧
          t.host.msix = s.host.msix ++ [3]))) ∧
    (∀ ring, get? n.rings r = some ring → ring.stall = true → ring.pollAt ≤ s.dclk →
      let now := (s.readCidx p ring).1
      (∃ t, exec (.ringCidxPoll p r) s = .next t) ∧
      (s.mm.feq = [] → ∃ t q, exec (.ringCidxPoll p r) s = .next t ∧ t.part? p = some q ∧ get? q.newt.rings r = some
        (if (now.p - now.cidx).toNat = 2 ^ now.rsz then { now with pollAt := s.dclk + 256 } else { now with stall := false })))

end Sys2Proof.Machine

/-- R325 to R329, R332: a round of global virtual time. The timer starts one at every partition of the domain, or asks for one while a round
runs, and the other modules of the domain are sent START (log 34); at the cut a stack takes the other colour and forgets its least
timestamp; it reports every 64 core cycles the difference of its counts of the colour that the round retires and its local minimum. A pass
over the partitions that run the round, under the lowest of them, is taken once every stack has reported: one that does not balance is
discarded; one that does raises GVT to the least minimum, or where there is no event to the largest LVT, ends the round, and lets each stack
commit below the minimum what has been processed by then. R328, R333, R335 to R337: at commit the events of the stack's agents that were
processed below the round's minimum when it closed leave their queues, and the others stay; a committed record goes to its ring. A ring with room, by the consumer index it last read or, where
that leaves none, by a fresh one, writes its oldest record and counts it; a full one stalls and tells the host, and reads its consumer index
again 256 core cycles later. -/
def Obligations.VirtualTimeAndCommit : Prop :=
  RoundsOfVirtualTime ∧ CommitAndDelivery

namespace Sys2Proof.Machine

/-! Links, streams and collectives (ch. 18). -/

/-- R347: the endpoint that a 32-bit endpoint word names. -/
def endpointIn (e : Nat) : Endpoint :=
  { loc := e.testBit 21, mod := e / 2 ^ 15 % 64, port := e / 2 ^ 13 % 4, core := e % 8192 }

/-- R347: endpoint word `i` of set `j` of a stream descriptor. -/
def endpointWord (w : Nat → Word) (j i : Nat) : Nat := (w (2 + (4 * j + i) / 2)).toNat / 2 ^ (32 * (i % 2)) % 2 ^ 32

/-- R347: the sets of a stream descriptor. -/
def streamSets (w : Nat → Word) : List (List Endpoint) :=
  (List.range (fld (w 0) 13 12 + 1)).map fun j =>
    ((List.range 4).filter fun i => (endpointWord w j i).testBit 31).map fun i => endpointIn (endpointWord w j i)

/-- R347: what a stream descriptor must be. -/
structure StreamGood (w : Nat → Word) : Prop where
  zero : fld (w 0) 63 14 = 0 ∧ w 1 = 0 ∧ ∀ j, 10 ≤ j → j < 16 → w j = 0
  used : ∀ j i, j ≤ fld (w 0) 13 12 → i < 4 → endpointWord w j i / 2 ^ 22 % 512 = 0 ∧ ((endpointWord w j i).testBit 31 = true →
    (endpointIn (endpointWord w j i)).port ≠ 3 ∧
    ((endpointIn (endpointWord w j i)).loc = true → (endpointIn (endpointWord w j i)).mod = 0))
  unused : ∀ j i, fld (w 0) 13 12 < j → j < 4 → i < 4 → endpointWord w j i = 0
  sets : ∀ l ∈ streamSets w, l ≠ [] ∧ ((∃ e ∈ l, e.port = 2) → l.length = 1)

/-- R84, R346, R347, R350, R353 to R355, R364: STREAMSET installs the stream of a good descriptor and binds it to its port, refuses a bad
one with 6 and a stream that another core holds with 1; with x0 it removes the port's stream. Log 68: a stream bound to y30 whose sets are
not each one y30 intake is a bad one. MARK puts a marker behind the words of the port's outlet. Both need port rights. NSTAT reads a
stream's record, a link's or the use of the early-arrival area, and all ones for what does not exist. -/
def StreamInstructions : Prop :=
  ∀ (s : State) (d a : Reg) (p : BitVec 2) (w : Nat → Word), (s.slot s.cur).task.pure = false →
    let i := s.cur
    let k := i / 8
    let die := s.die (k / 2048)
    let part := (s.slot i).task.part
    let rights : Prop := p = 3 ∨ (s.slot i).portRights i = true
    let out := s.outletOf k p.toNat
    let n := fld (w 0) 11 0
    let x := (s.rv a).toNat
    let old := get? die.net.streams n
    (¬ rights → (s.portCheck i [a] [d] = .ok → ∃ r : Trap, r.code = .portRights ∧ exec (.streamset d a p) s = .next (s.takeTrap i r)) ∧
      (s.portCheck i [] [d] = .ok → ∃ r : Trap, r.code = .portRights ∧ exec (.mark d p) s = .next (s.takeTrap i r))) ∧
    (rights → s.able [a] [d] → a = .x 0 →
      (get? (s.core k).net.bound p.toNat = none → Yields (.streamset d a p) s [a] d 6) ∧
      (∀ m, get? (s.core k).net.bound p.toNat = some m → out = [] → ∃ t, exec (.streamset d a p) s = .next t ∧ Answered s t d 0 ∧
        t.mm = s.mm ∧ get? (t.die (k / 2048)).net.streams m = none ∧ get? (t.core k).net.bound p.toNat = none)) ∧
    (rights → s.able [a] [d] → a ≠ .x 0 → DescriptorAt s (s.rv a) 128 w → x % 64 = 0 →
      let reach := ∀ l ∈ streamSets w, ∀ e ∈ l, s.isOwnEp e = true → (s.oct (e.core / 8)).part = some part
      let taken := (∃ e, old = some e ∧ (e.coll = true ∨ e.core ≠ k)) ∨
        (p ≠ 3 ∧ ∃ m, get? (s.core k).net.bound p.toNat = some m ∧ m ≠ n)
      let port := if p = 3 then (old.filter fun e => e.core = k && !e.coll).bind (·.port) else some p.toNat
      let ring := port = some 2 → ∀ l ∈ streamSets w, l.length = 1 ∧ ∀ e ∈ l, e.port = 2
      (¬ StreamGood w ∨ ¬ reach ∨ ¬ ring → Yields (.streamset d a p) s [a] d 6) ∧
      (StreamGood w → reach → ring → taken → Yields (.streamset d a p) s [a] d 1) ∧
      (StreamGood w → reach → ring → ¬ taken → (p ≠ 3 → out = []) → (∀ q, old.bind (·.port) = some q → q < 3 ∧ s.outletOf k q = []) →
        ∃ t, exec (.streamset d a p) s = .next t ∧ Answered s t d 0 ∧ t.mm = s.mm ∧
        (p ≠ 3 → get? (t.core k).net.bound p.toNat = some n) ∧ (p = 3 → (t.core k).net.bound = (s.core k).net.bound) ∧
        get? (t.die (k / 2048)).net.streams n = some
          { part := part, core := k, port := port, sets := streamSets w, j := 0, coll := false
            disc := (old.map (·.disc)).getD 0, words := (old.map (·.words)).getD 0 })) ∧
    (rights → s.able [] [d] → p.toNat < 3 →
      (get? (s.core k).net.bound p.toNat = none → Yields (.mark d p) s [] d 6) ∧
      (get? (s.core k).net.bound p.toNat ≠ none → out.length < 8 → plainReg d = true → ∃ t, exec (.mark d p) s = .next t ∧ Answered s t d 0 ∧
        t.mm = s.mm ∧ t.outletOf k p.toNat = out ++ [.marker])) ∧
    (s.able [a] [d] →
      (x < 0x1000 → get? die.net.streams x = none → Yields (.nstat d a) s [a] d 0) ∧
      (∀ e, x < 0x1000 → get? die.net.streams x = some e →
        (e.part ≠ part → Yields (.nstat d a) s [a] d allOnes) ∧ (e.part = part → e.coll = true → Yields (.nstat d a) s [a] d (BitVec.ofNat 64 (2 ^ 57 + e.words.toNat))) ∧
        (e.part = part → e.coll = false → Yields (.nstat d a) s [a] d (BitVec.ofNat 64 (2 ^ 63 + (if s.streamHeld x e then 2 ^ 62 else 0) +
          e.j * 2 ^ 60 + (e.sets.length - 1) * 2 ^ 58 + e.disc * 2 ^ 32 + e.words.toNat)))) ∧
      (∀ f, 0x1000 ≤ x → x < 0x1010 → look s.net.ports (x - 0x1000) FPort.fresh = f →
        Yields (.nstat d a) s [a] d (BitVec.ofNat 64 ((if f.up then 2 ^ 63 else 0) + f.lanes * 2 ^ 59 + f.rpl * 2 ^ 32 + f.flits.toNat))) ∧
      ((0x1010 ≤ x ∧ x ≠ 0x2000) → Yields (.nstat d a) s [a] d allOnes) ∧
      (x = 0x2000 → Yields (.nstat d a) s [a] d (BitVec.ofNat 64 (s.earlyKib (k / 2048)))))

/-- R356, R361, R363: COLL of a core's communication slot puts the descriptor in the core's intake, counts it and keeps a mailbox place; it
gives 6 on another slot, 2 when the intake is full and 1 when the counter or the mailbox is. -/
def CollectivesArePosted : Prop :=
  ∀ (s : State) (d a : Reg) (w : Nat → Word), s.able [a] [d] → (s.slot s.cur).task.pure = false →
    let i := s.cur
    let sl := s.slot i
    let net := (s.core (i / 8)).net
    let g := fld (w 0) 39 32
    let full := 15 ≤ sl.cnt.cp ∨ 16 ≤ sl.mbox.length + sl.mboxRsv
    (i % 8 ≠ 7 → Yields (.coll d a) s [a] d 6) ∧
    (i % 8 = 7 → DescriptorAt s (s.rv a) 64 w → (s.rv a).toNat % 64 = 0 →
      (4 ≤ net.coll.length → Yields (.coll d a) s [a] d 2) ∧ (net.coll.length < 4 → full → Yields (.coll d a) s [a] d 1) ∧
      (net.coll.length < 4 → ¬ full → s.groupLaunch sl.task.part g = none ∨ (fld (w 1) 31 0 ≠ 0 ∧
          (s.memberCores (s.roundParts sl.task.part) g ≠ [i / 8] ∨ s.farMembers sl.task.part = true)) →
        ∃ t c, exec (.coll d a) s = .next t ∧ Answered s t d 0 ∧ t.mm = s.mm ∧ (t.core (i / 8)).net.coll = net.coll ++ [c] ∧
          c.slot = i ∧ (∀ j, j < 8 → c.desc.getD j 0 = w j) ∧ c.seq = s.collCount (i / 8) sl.task.part g ∧
          c.launch = s.groupLaunch sl.task.part g ∧ c.issued = s.dclk ∧ c.dead = false ∧
          (t.slot i).cnt = { sl.cnt with cp := sl.cnt.cp + 1 } ∧ (t.slot i).mboxRsv = sl.mboxRsv + 1))

end Sys2Proof.Machine

/-- R84, R346, R347, R350, R353 to R355, R364: STREAMSET installs the stream of a good descriptor and binds it to its port, refuses a bad
one with 6 and a stream that another core holds with 1; with x0 it removes the port's stream. Log 68: a stream bound to y30 whose sets are
not each one y30 intake is a bad one. MARK puts a marker behind the words of the port's outlet. Both need port rights. NSTAT reads a
stream's record, a link's or the use of the early-arrival area, and all ones for what does not exist. R356, R361, R363: COLL of a core's
communication slot puts the descriptor in the core's intake, counts it and keeps a mailbox place; it gives 6 on another slot, 2 when the
intake is full and 1 when the counter or the mailbox is. -/
def Obligations.NetworkInstructions : Prop :=
  StreamInstructions ∧ CollectivesArePosted

namespace Sys2Proof.Machine

/-- R342, R348 to R350: the markers at the front of a port's outlet step the set; then up to three words leave as a flit, with a header for
each endpoint on this module, once there are three or no word follows the last at once, and every endpoint has room. When the flit arrives,
the words stand behind those of each endpoint's intake, in order, or wait for the port that leads to the endpoint's module. -/
def StreamsDeliver : Prop :=
  ∀ (s : State) (k i : Nat) (p : BitVec 2) (n m : Nat) (e : StreamEntry) (ws : List Word) (rest : List OutItem) (f : Flit),
    (get? (s.core k).net.bound p.toNat = some n → get? (s.die (k / 2048)).net.streams n = some e → p.toNat < 3 →
      (∃ v, s.part? e.part = some v ∧ v.gang = .running) →
      s.outletOf k p.toNat = List.replicate m .marker ++ ws.map .word ++ rest → ws.length ≤ 3 →
      (ws.length = 3 ∨ ∀ w, rest.head? ≠ some (.word w)) → (ws = [] → rest.head? ≠ some .marker) →
      let j := (e.j + m) % max 1 e.sets.length
      let eps := e.sets.getD j []
      let go := ws ≠ [] ∧ (ws.length = 3 ∨ (s.core k).net.outAt.getD p.toNat 0 + 1 ≤ s.dclk) ∧ s.endpointsTake e.part n ws.length eps = true
      let leaves (t : State) (out : List OutItem) : Prop := exec (.streamFlitSend k p) s = .next t ∧ t.outletOf k p.toNat = out ∧
        t.mm = s.mm ∧ get? (t.die (k / 2048)).net.streams n = some { e with j := j }
      (go → ∃ t x, leaves t rest ∧ get? t.net.flits s.sched.nextId = some x ∧ x.part = e.part ∧ x.core = k ∧ x.stack = k / 2048 ∧ x.stream = n ∧
        x.words = ws ∧ x.ejected = false ∧ s.dclk ≤ x.due ∧ x.far = (eps.filter fun y => !s.isOwnEp y).map (·.mod) ∧
        x.heads = (eps.filter fun y => s.isOwnEp y).map fun y =>
          BitVec.ofNat 64 (n * 2 ^ 4 + y.core * 2 ^ 16 + y.port * 2 ^ 29 + ws.length * 2 ^ 32)) ∧
      (¬ go → 0 < m → ∃ t, leaves t (ws.map .word ++ rest) ∧ t.net.flits = s.net.flits)) ∧
    (get? s.net.flits i = some f → f.ejected = false → f.due ≤ s.dclk → (∃ v, s.part? f.part = some v ∧ v.gang = .running) →
      (∀ g ∈ s.net.flits, g.2.part = f.part → g.2.stack = f.stack → g.2.stream = f.stream → i ≤ g.1) →
      (∀ q ∈ f.far, ∃ r, s.routePort q f.stream = some r) →
      ∃ t, exec (.streamFlitArrival i) s = .next t ∧ get? t.net.flits i = none ∧ t.mm = s.mm ∧
        (∀ h, f.heads = [h] → f.far = [] → fld h 30 29 < 3 →
          let c := fld h 28 16
          let q := fld h 30 29
          ((s.oct (c / 8)).part = some f.part → t.intakeOf c q = s.intakeOf c q ++ f.words) ∧
          ((s.oct (c / 8)).part ≠ some f.part → t.intakeOf c q = s.intakeOf c q)) ∧
        (∀ q r, f.heads = [] → f.far = [q] → s.routePort q f.stream = some r → ∀ g, look s.net.ports r FPort.fresh = g →
          look t.net.ports r FPort.fresh = { g with queue := g.queue ++
            [{ cls := 0, stream := f.stream, dmod := q, smod := s.host.module.toNat, pay := f.words }] }))

/-- R343 to R345: a link accepts a flit whose CRC is right and whose number is the next: it takes the credits that the flit returns, owes
one for the flit's class and forgets its failures. It asks for any other again, once, and after 8 replays that failed goes on at half its
width, with a replay of which 8 more may fail, or is down after one lane, and tells the host. A peer that asks for a replay gets the flits
from its number on. The CRC's start value is log 38's; that an accepted flit is kept for the module, with no slot and no core changed by it,
is log 38's choice; that what follows a flit which is asked for again is passed over, and how failures count after a retrain, is log 56's. -/
def LinksReceive : Prop :=
  ∀ (s : State) (n : Nat) (flit : BitVec 1024) (q : BitVec 16), n < 16 →
    let f := look s.net.ports n FPort.fresh
    let word (j : Nat) : Word := flit.extractLsb' (64 * j) 64
    let bytes := (List.range 120).map fun j => (flit.extractLsb' (8 * j) 8 : Byte)
    let intact := word 15 = crc64 bytes
    let next := fld (word 0) 47 32 = f.rxSeq.toNat
    let cls := fld (word 0) 3 0
    let port (t : State) (g : FPort) : Prop := look t.net.ports n FPort.fresh = g ∧ t.mm = s.mm ∧ t.slots = s.slots ∧ t.cores = s.cores
    f.up = true →
    (∀ x, ∃ t, exec (.linkFlitReceive n x) s = .next t) ∧
    (intact → next → fld (word 0) 21 16 = s.host.module.toNat → cls ≠ 2 →
      ∃ t, exec (.linkFlitReceive n (.flit flit)) s = .next t ∧ t.net.linkIn = s.net.linkIn ++ [(n, flit)] ∧
        port t { f with rxSeq := f.rxSeq + 1, fails := 0, asked := false
                        cred := Vector.ofFn fun c => f.cred[c] + fld (word 0) (51 + 4 * c.val) (48 + 4 * c.val)
                        owed := f.owed.setIfInBounds cls (f.owed.getD cls 0 + 1) }) ∧
    (intact → ¬ next → f.asked = true → exec (.linkFlitReceive n (.flit flit)) s = .next s) ∧
    (¬ intact ∨ (¬ next ∧ f.asked = false) →
      let g := { f with rpl := min 65535 (f.rpl + 1), asked := true }
      (f.fails < 8 → ∃ t, exec (.linkFlitReceive n (.flit flit)) s = .next t ∧ port t { g with fails := f.fails + 1 } ∧ t.host = s.host ∧
        t.net.linkAsk = s.net.linkAsk ++ [(n, f.rxSeq)]) ∧
      (8 ≤ f.fails → f.lanes ≠ 1 → ∃ t, exec (.linkFlitReceive n (.flit flit)) s = .next t ∧
        port t { g with lanes := f.lanes / 2, fails := 1 } ∧ t.host.msix = s.host.msix ++ [4] ∧
        t.net.linkAsk = s.net.linkAsk ++ [(n, f.rxSeq)]) ∧
      (8 ≤ f.fails → f.lanes = 1 → ∃ t, exec (.linkFlitReceive n (.flit flit)) s = .next t ∧
        port t { g with up := false, lanes := 0, fails := 0 } ∧ t.host.msix = s.host.msix ++ [4])) ∧
    let again := (f.sent.dropWhile fun y => decide (y.extractLsb' 32 16 ≠ q)).map fun y => (n, y)
    exec (.linkFlitReceive n (.replay q)) s = .next { s with net := { s.net with linkOut := s.net.linkOut ++ again } }

/-- R357 to R361: the sequencer takes the members' descriptors of a group's oldest collective: it refuses them all with 6 where one is bad
or they differ, and with 1 where a stream is held; else the streams are held while it runs. A chunk of one word that arrives is written into
the member's RECV. A member with nothing left to be written completes: its message is posted and cp falls, and after the last one the
streams are free. -/
def CollectivesRun : Prop :=
  ∀ (s : State) (p g : Nat) (v : Part) (first : CollPost), s.part? p = some v → v.gang = .running → g < 256 →
    ((∀ x, s.pageBusy x = false) → ∀ x, s.collReady p g = some x → ∃ t, exec (.collStart (256 * p + g)) s = .next t) ∧
    (∀ ms mismatch inUse, (∀ x, s.pageBusy x = false) → s.collReady p g = some (inUse, ms, mismatch) → ms.head? = some first → (∀ c ∈ ms, c.group = g) →
      s.farMembers p = false →
      ∃ t c, exec (.collStart (256 * p + g)) s = .next t ∧ t.mm.bytes = s.mm.bytes ∧ (∃ id, get? t.net.colls id = some c) ∧ c.part = p ∧
        c.group = g ∧ c.members.map (·.post) = ms.map some ∧
        (∀ m ∈ c.members, m.wrote = 0 ∧ m.done = false ∧ m.mod = s.host.module.toNat) ∧
        (∀ q ∈ ms, q ∉ (t.core (q.slot / 8)).net.coll) ∧
        (inUse = false ∨ mismatch = true ∨ (∃ q ∈ ms, q.bad ms.length = true ∨ q.agrees first = false) →
          (∀ m ∈ c.members, m.status = 6) ∧ c.held = none) ∧
        (inUse = true → mismatch = false → (∀ q ∈ ms, q.bad ms.length = false ∧ q.agrees first = true) → 1 < ms.length →
          first.count ≠ 0 →
          let taken := ∃ q ∈ ms, ∃ j, (j = first.stream ∨ j = first.stream + 1) ∧
            get? (s.die (stackOf (q.slot / 8))).net.streams j ≠ none
          (taken → (∀ m ∈ c.members, m.status = 1) ∧ c.held = none) ∧
          (¬ taken → c.held = some first.stream ∧ (∀ m ∈ c.members, m.status = 0 ∨ m.status = 6) ∧
            ∀ q ∈ ms, ∃ e, get? (t.die (stackOf (q.slot / 8))).net.streams first.stream = some e ∧ e.coll = true))) ∧
    (∀ i x co m post l pa, get? s.net.chunks i = some x → get? s.net.colls x.coll = some co → co.part = p → co.members[x.dst]? = some m →
      m.post = some post → OwnWord s (post.slot / 8) x.va pa → x.parts = [l] → l.length = 8 → (∀ b ∈ l, b.2 = false) → s.mm.feq = [] →
      s.pageBusy pa = false →
      ∃ t co', exec (.collChunkArrival i) s = .next t ∧ get? t.net.chunks i = none ∧ get? t.net.colls x.coll = some co' ∧
        co'.members = co.members.set x.dst { m with wrote := m.wrote + 8 } ∧
        (∀ y, t.mm.bytes.byte y = if pa ≤ y ∧ y < pa + 8 then (l.getD (y - pa) (0, false)).1 else s.mm.bytes.byte y) ∧
        ∀ y, y ∈ t.mm.full ↔ y = pa ∨ y ∈ s.mm.full) ∧
    (∀ i r co m post, get? s.net.colls i = some co → co.part = p → co.members[r]? = some m → m.post = some post → m.done = false →
      (∀ x ∈ s.net.chunks, x.2.coll = i → x.2.dst ≠ r ∧ r ∉ x.2.srcs) → (post.w 0).getLsbD 13 = false → post.w 5 = 0 →
      post.dead = false → (s.slot post.slot).st = .ready → (s.slot post.slot).park = .none →
      let sl := s.slot post.slot
      ∃ t, exec (.collComplete i r) s = .next t ∧ t.mm = s.mm ∧ (t.slot post.slot).regs = sl.regs ∧
        (t.slot post.slot).cnt = { sl.cnt with cp := sl.cnt.cp - 1 } ∧ (t.slot post.slot).mbox = sl.mbox ++
          [{ w0 := BitVec.ofNat 64 (0x20 + m.status.toNat * 2 ^ 8 + fld (post.w 4) 31 0 * 2 ^ 32), w1 := BitVec.ofNat 64 m.wrote }] ∧
        ((∀ j y, co.members[j]? = some y → j ≠ r → y.done = true) → get? t.net.colls i = none) ∧
        ((∃ j y, co.members[j]? = some y ∧ j ≠ r ∧ y.done = false) →
          get? t.net.colls i = some { co with members := co.members.set r { m with done := true } }))

end Sys2Proof.Machine

/-- R342, R348 to R350: the markers at the front of a port's outlet step the set; then up to three words leave as a flit, with a header for
each endpoint on this module, once there are three or no word follows the last at once, and every endpoint has room. When the flit arrives,
the words stand behind those of each endpoint's intake, in order, or wait for the port that leads to the endpoint's module. R343 to R345: a
link accepts a flit whose CRC is right and whose number is the next: it takes the credits that the flit returns, owes one for the flit's
class and forgets its failures. It asks for any other again, once, and after 8 replays that failed goes on at half its width, with a replay
of which 8 more may fail, or is down after one lane, and tells the host. A peer that asks for a replay gets the flits from its number on.
The CRC's start value is log 38's; that an accepted flit is kept for the module, with no slot and no core changed by it, is log 38's choice;
that what follows a flit which is asked for again is passed over, and how failures count after a retrain, is log 56's. R357 to R361: the sequencer takes the
members' descriptors of a group's oldest collective: it refuses them all with 6 where one is bad or they differ, and with 1 where a stream
is held; else the streams are held while it runs. A chunk of one word that arrives is written into the member's RECV. A member with nothing
left to be written completes: its message is posted and cp falls, and after the last one the streams are free. -/
def Obligations.NetworkHappenings : Prop :=
  StreamsDeliver ∧ LinksReceive ∧ CollectivesRun

namespace Sys2Proof.Machine

/-! Gang switches, deadlocks, replay and the trap record (ch. 19). -/

/-- R381: GANGSW arms the partition's switch for a stop time and a resume time, and a stop time 0 disarms it; with no switch to disarm, or a
resume time that is not after the stop time, it gives 6, and where a switch is armed or the partition is being stopped, 1. -/
def GangSwitchInstruction : Prop :=
  ∀ (s : State) (d a b : Reg) (v : Part), s.able [a, b] [d] → (s.slot s.cur).task.pure = false → (s.slot s.cur).lv ≠ .u →
    let p := (s.slot s.cur).task.part
    let t := s.rv a
    let r := s.rv b
    let arms (x : Option (Word × Word)) (back : List Nat) : Prop := ∃ u, exec (.gangsw d a b) s = .next u ∧ Answered s u d 0 ∧ u.mm = s.mm ∧
      u.part? p = some { v with armed := x, back := back } ∧ ∀ q, q ≠ p → u.part? q = s.part? q
    s.part? p = some v →
    (t = 0 → v.armed = none → Yields (.gangsw d a b) s [a, b] d 6) ∧ (∀ x, t = 0 → v.armed = some x → arms none v.back) ∧
    (t ≠ 0 → v.armed ≠ none ∨ v.gang ≠ .running → Yields (.gangsw d a b) s [a, b] d 1) ∧
    (t ≠ 0 → v.armed = none → v.gang = .running →
      (r ≠ 0 → r.toNat ≤ t.toNat → Yields (.gangsw d a b) s [a, b] d 6) ∧ (r = 0 ∨ t.toNat < r.toNat → arms (some (t, r)) []))

/-- R374, R48, R63: at the first core cycle divisible by 8 at or after the armed time the partition stops: its slots have no turn from then
on, but for one whose RULOOK has issued. Once every operation that it has started is complete (log 29: its octets are free from then on), it
is saved: each slot that holds a task STOPPED with all it holds and its line dropped, with every register, in the partition's own record
(log 32), and nothing is left on its cores, which have their reset values (log 54). Memory outside the save area keeps its bytes, where no
record of a log is still to be written. -/
def GangStop : Prop :=
  ∀ (s : State) (p : Nat) (v : Part), s.part? p = some v →
    (∀ i, v.gang ≠ .running → (s.oct (i / 64)).part = some p → (s.slot i).look = none → s.mayTurn i = false) ∧
    (∀ t r, v.gang = .running → v.armed = some (t, r) → s.dclk % 8 = 0 → t.toNat ≤ s.dclk → s.sched.begun = false →
      ∃ u, exec (.gangStop p) s = .next u ∧ u.slots = s.slots ∧ u.cores = s.cores ∧ u.octets = s.octets ∧ u.mm = s.mm ∧
        u.part? p = some { v with armed := none, gang := .stopping r, stoppedAt := s.dclk, given := false }) ∧
    (∀ r, v.gang = .stopping r → (∀ o ∈ v.octets, s.octQuiet o = true) →
      ∃ u w, exec (.gangStop p) s = .next u ∧ u.part? p = some w ∧ w.gang = .stopped r ∧ w.stoppedAt = v.stoppedAt ∧
        (∀ i sl, i / 64 ∈ v.octets → get? s.slots i = some sl → ∃ im, get? w.images (i / 8) = some im ∧
          get? im.slots (i % 8) = some (if sl.st = .idle ∨ sl.st = .stopped then sl
            else { sl with st := .stopped, saved := sl.st, line := none, from_ := 0, via := none })) ∧
        (∀ k, k / 8 ∈ v.octets → ∃ im, get? w.images k = some im ∧ im.c.y = (s.core k).y ∧ im.c.mat = (s.core k).mat ∧
          im.c.net = (s.core k).net ∧ im.c.brole = (s.core k).brole) ∧
        (∀ k, k / 8 ∈ v.octets → u.core k = CoreState.reset) ∧ (∀ o ∈ v.octets, (u.oct o).part = none) ∧
        (∀ i, i / 64 ∈ v.octets → get? u.slots i = none) ∧ (∀ i, i / 64 ∉ v.octets → u.slot i = s.slot i) ∧
        ((∀ l, s.stashHolders l = []) → (∀ o ∈ v.octets, o < 1024) → (∀ k, k / 8 ∈ v.octets → (s.core k).rp.buf = []) → ∀ x, isLm x = false →
          x < v.save ∨ v.save + imageSize * v.cores.length ≤ x → u.mm.bytes.byte x = s.mm.bytes.byte x))

/-- R375: the partition resumes at the first core cycle divisible by 8 at or after its resume time, or after the host's command, with an octet
that another partition has been given since once the host has given it back (log 29): every saved slot is in the state it was saved in, the stopped core cycles count toward no wait, and every core has its registers and local memory. -/
def GangResume : Prop :=
  ∀ (s : State) (p : Nat) (v : Part) (r : Word), s.part? p = some v → v.gang = .stopped r → v.octets.Nodup →
    (r = 0 ∧ v.given = true ∨ r ≠ 0 ∧ r.toNat ≤ s.dclk) → s.dclk % 8 = 0 → s.sched.begun = false → s.host.standby = false →
    s.host.clocksStopped = false → s.host.trip = false →
    (∀ o ∈ v.octets, (s.oct o).part = none ∧ (s.die (o / 256)).on = true ∧ (o ∈ v.away → o ∈ v.back)) →
    AMap.wf v.images = true → (∀ x ∈ v.images, x.1 < 8192 ∧ x.2.c.rp.mode = .off ∧ x.2.c.wakeQ = [] ∧ AMap.wf x.2.slots = true ∧
      (∀ y ∈ x.2.slots, y.1 < 8) ∧ x.2.mem.wf = true ∧ (∀ c ∈ x.2.mem, c.1 < 0x20000)) → (∀ o ∈ v.octets, ∀ j, j < 8 →
      get? v.images (8 * o + j) ≠ none) → (∀ l ∈ s.disp.launches, l.2.cancelled = false) →
    let n := s.dclk - v.stoppedAt
    let since (sl : Slot) : Nat :=
      if sl.parkedAt < v.stoppedAt then sl.parkedAt + n else if sl.st = .stopped then max sl.parkedAt s.dclk else sl.parkedAt
    ∃ u w, exec (.gangResume p) s = .next u ∧ u.part? p = some w ∧ w.gang = .running ∧ w.images = [] ∧
      (∀ k im j sl, get? v.images k = some im → get? im.slots j = some sl → u.slot (8 * k + j) =
        if sl.st = .stopped then { sl with st := sl.saved, saved := .idle, parkedAt := since sl } else { sl with parkedAt := since sl }) ∧
      (∀ k im, get? v.images k = some im → (u.core k).y = im.c.y ∧ (u.core k).mat = im.c.mat ∧ (u.core k).net = im.c.net ∧
        (u.core k).brole = im.c.brole ∧ ∀ x, x < 0x20000 → u.mm.bytes.byte (lmAddr k x) = im.mem.byte x) ∧
      (∀ o x, v.octs = [(o, x)] → (u.oct o).part = x.part ∧ (u.oct o).wins = x.wins) ∧
      ∀ x, isLm x = false → u.mm.bytes.byte x = s.mm.bytes.byte x

end Sys2Proof.Machine

/-- R381: GANGSW arms the partition's switch for a stop time and a resume time, and a stop time 0 disarms it; with no switch to disarm, or a
resume time that is not after the stop time, it gives 6, and where a switch is armed or the partition is being stopped, 1. R374, R48, R63:
at the first core cycle divisible by 8 at or after the armed time the partition stops: its slots have no turn from then on, but for one
whose RULOOK has issued. Once every operation that it has started is complete (log 29: its octets are free from then on), it is saved: each
slot that holds a task STOPPED with all it holds and its line dropped, with every register, in the partition's own record (log 32), and
nothing is left on its cores, which have their reset values (log 54). Memory outside the save area keeps its bytes, where no record of a log
is still to be written. R375: the partition resumes at the first core cycle divisible by 8 at or after its resume time, or after the host's
command, with an octet that another partition has been given since once the host has given it back (log 29): every saved slot is in the
state it was saved in, the stopped core cycles count toward no wait, and every core has its registers and local memory. -/
def Obligations.GangSwitch : Prop :=
  GangSwitchInstruction ∧ GangStop ∧ GangResume

/-- R379, R382: DLCHK starts a check of the partition, or joins the one that runs, and its slot waits in STALL. The check's second scan
comes 256 core cycles after the first: every slot of the deadlocked set is to take DEADLOCK with its BLK value, and every slot that checks
goes on, with the size of the set in DLCNT. -/
def Obligations.DeadlockChecks : Prop :=
  ∀ (s : State) (p : Nat) (v : Part),
    ((s.slot s.cur).task.pure = false → (s.slot s.cur).task.part = p → s.part? p = some v →
      ∃ t, exec .dlchk s = .next t ∧ t.slot s.cur = { s.slot s.cur with st := .stall, hold := .scan } ∧ t.mm = s.mm ∧
        t.cores = s.cores ∧ (∀ j, j ≠ s.cur → t.slot j = s.slot j) ∧
        (v.scan = none → t.part? p = some { v with scan := some { at_ := s.dclk, joined := [s.cur] } }) ∧
        (∀ c, v.scan = some c → t.part? p = some { v with scan := some { c with joined := c.joined ++ [s.cur] } })) ∧
    (∀ c, s.part? p = some v → v.gang = .running → v.scan = some c → c.at_ + 256 ≤ s.dclk → s.slotNums.Nodup →
      let l := s.deadlocked p c.at_
      (∀ i ∈ l, (s.slot i).exit ≠ .cancelled ∧ (s.slot i).hold ≠ .scan) → (∀ i ∈ c.joined, (s.slot i).unstepped = true) →
      ∃ t, exec (.dlchkScan p) s = .next t ∧ t.part? p = some { v with scan := none } ∧ t.mm = s.mm ∧ t.cores = s.cores ∧
        (∀ i ∈ l, t.slot i = { s.slot i with late := (s.slot i).late ++ [.deadlock (s.slot i).blk] }) ∧
        (∀ i ∈ c.joined, (s.slot i).hold = .scan → t.slot i = { (s.slot i).goneTo (s.slot i).npc (s.slot i).regs with
          ctl := { (s.slot i).ctl with dlcnt := BitVec.ofNat 32 l.length } }) ∧
        ∀ i, i ∉ l → i ∉ c.joined → t.slot i = s.slot i)

/-- R379: the deadlocked set is the largest set of candidates each of which can be released only by members of the set. -/
def Obligations.DeadlockedSetIsTheLargest : Prop :=
  ∀ (s : State) (p c : Nat),
    let candidate (i : Nat) (rs : List Nat) : Prop :=
      i ∈ s.slotNums ∧ (s.slot i).task.part = p ∧ (s.slot i).parkedAt ≤ c ∧ s.releasers p i = some rs
    (∀ i ∈ s.deadlocked p c, ∃ rs, candidate i rs ∧ ∀ j ∈ rs, j ∈ s.deadlocked p c) ∧
    ∀ l : List Nat, (∀ i ∈ l, ∃ rs, candidate i rs ∧ ∀ j ∈ rs, j ∈ l) → ∀ i ∈ l, i ∈ s.deadlocked p c

/-- R384: FAULTGET reads a word of the slot's trap record, and all ones for an index beyond 7. -/
def Obligations.FaultgetReadsTheTrapRecord : Prop :=
  ∀ (s : State) (d a : Reg), s.able [a] [d] →
    (∀ n, n < 8 → s.rv a = BitVec.ofNat 64 n → Yields (.faultget d a) s [a] d ((s.slot s.cur).trap.getD n 0)) ∧
    (8 ≤ (s.rv a).toNat → Yields (.faultget d a) s [a] d (BitVec.allOnes 64))

namespace Sys2Proof.Machine

/-- R383, R378: RPLOG refuses a descriptor with a reserved bit, a core of another partition or mode 3 with 6, and a replay on a core that
holds a task with 1; mode 0 ends the core's log and writes STATUS, mode 1 arms a recording, and mode 2 starts a replay from the checkpoint
image whose bytes lie at IMAGE (log 32), at the next core cycle that stands in its frame of 32 as the checkpoint's does (log 30); where none
lies there no replay runs. -/
def ReplayLogInstruction : Prop :=
  ∀ (s : State) (d a : Reg) (w : Nat → Word), s.able [a] [d] → (s.slot s.cur).task.pure = false → (s.slot s.cur).lv ≠ .u →
    (s.slot s.cur).st = .ready → DescriptorAt s (s.rv a) 64 w → (s.rv a).toNat % 64 = 0 → s.mm.feq = [] →
    let k := fld (w 0) 28 16
    let p := (s.slot s.cur).task.part
    let mode := fld (w 0) 1 0
    let bad : Prop := fld (w 0) 63 29 ≠ 0 ∨ fld (w 0) 15 2 ≠ 0 ∨ w 5 ≠ 0 ∨ w 6 ≠ 0 ∨ w 7 ≠ 0 ∨ (s.oct (k / 8)).part ≠ some p ∨ mode = 3
    let held : Prop := ∃ j, j < 8 ∧ (s.slot (8 * k + j)).st ≠ .idle
    let log (m : LogMode) (base c : Nat) : ReplayCore :=
      { mode := m, lbase := w 1, lbytes := (w 2).toNat, image := w 3, status := w 4, part := p, count := 0, base := base, after := base
        count0 := c, buf := [] }
    (bad → Yields (.rplog d a) s [a] d 6) ∧ (¬ bad → mode = 2 → held → Yields (.rplog d a) s [a] d 1) ∧
    (¬ bad → mode = 0 → ∃ t, exec (.rplog d a) s = .next t ∧ Answered s t d 0 ∧ (t.core k).rp.mode = .off ∧
      ∀ pa, OwnWord s k (w 4) pa → (s.core k).rp.buf = [] → ∀ x, t.mm.bytes.byte x =
        if pa ≤ x ∧ x < pa + 8 then (BitVec.ofNat 64 ((s.core k).rp.count * 256 + 4)).extractLsb' (8 * (x - pa)) 8 else s.mm.bytes.byte x) ∧
    (¬ bad → mode = 1 → (s.core k).rp.mode = .off → ∃ t, exec (.rplog d a) s = .next t ∧ Answered s t d 0 ∧ t.mm = s.mm ∧
      (t.core k).rp = log .armed 0 0) ∧
    let found := (s.modCore k fun c => { c with rp := log .replay 0 0 }).findImage k
    (¬ bad → mode = 2 → ¬ held → (s.core k).rp.mode = .off → found.1 = none →
      ∃ t, exec (.rplog d a) s = .next t ∧ Answered s t d 0 ∧ (t.core k).rp.mode = .off) ∧
    (∀ im, ¬ bad → mode = 2 → ¬ held → (s.core k).rp.mode = .off → found.1 = some im →
      let c := s.dclk + 1
      ∃ t, exec (.rplog d a) s = .next t ∧ Answered s t d 0 ∧ (t.core k).y = im.c.y ∧
        (t.core k).rp = log .replay (c + (im.resume % 32 + 32 - c % 32) % 32) im.resume ∧
        ∀ j sl, j < 8 → get? im.slots j = some sl →
          t.slot (8 * k + j) = if sl.st = .stopped then { sl with st := sl.saved, saved := .idle } else sl)

/-- R377, R378: a replaying core applies the next record of its log at its offset: a port word, a word of local memory with its full/empty
bit, or nothing but the turn of a stalled head. At the end of the log the replay stops: every slot is STOPPED, and the core's image is
written back to the checkpoint. -/
def ReplayAppliesItsLog : Prop :=
  ∀ (s : State) (k : Nat) (r : ReplayCore), (s.core k).rp = r → r.mode = .replay → r.base ≤ s.dclk → r.after ≤ s.dclk →
    ((∀ x, s.recordAt k r.count = some x → x.off ≤ s.dclk - r.base) → ∃ t, exec (.replayReceive k) s = .next t) ∧
    (s.mm.feq = [] → k < 8192 → s.mm.bytes.wf = true → AMap.wf s.slots = true →
    (∀ x : LogRec, s.recordAt k r.count = some x → x.off ≤ s.dclk - r.base →
      let goes (q : State → Prop) : Prop := ∃ t, exec (.replayReceive k) s = .next t ∧ (t.core k).rp = { r with count := r.count + 1 } ∧
        (∀ i, i / 8 ≠ k → t.slot i = s.slot i) ∧ (∀ j, j ≠ k → t.core j = s.core j) ∧ q t
      (x.r.kind = 2 → x.r.slot < 3 → goes fun t => t.mm.bytes.byte = s.mm.bytes.byte ∧
        t.intakeOf k x.r.slot = s.intakeOf k x.r.slot ++ [x.r.data]) ∧
      (x.r.kind = 5 →
        let w := lmAddr k (8 * (x.r.src.toNat % 2 ^ 14))
        goes fun t => t.core k = { s.core k with rp := { r with count := r.count + 1 } } ∧ (∀ y, t.mm.bytes.byte y =
          if w ≤ y ∧ y < w + 8 then x.r.data.extractLsb' (8 * (y - w)) 8 else s.mm.bytes.byte y) ∧
          ∀ y, y ∈ t.mm.full ↔ if y = w then x.r.src.getLsbD 14 = true else y ∈ s.mm.full) ∧
      (x.r.kind = 10 → goes fun t => t.mm.bytes.byte = s.mm.bytes.byte ∧ t.slot = s.slot)) ∧
    (∀ v, s.recordAt k r.count = none → s.part? r.part = some v →
      ∃ t w im, exec (.replayReceive k) s = .next t ∧ (t.core k).rp.mode = .off ∧ t.part? r.part = some w ∧
        get? w.ckpts s.sched.nfree = some im ∧ im.core = k ∧ im.resume = s.dclk - r.base + r.count0 ∧ im.c.y = (s.core k).y ∧
        ∀ j, j < 8 → get? im.slots j = some (t.slot (8 * k + j)) ∧ ((s.slot (8 * k + j)).st ≠ .idle → (t.slot (8 * k + j)).st = .stopped) ∧
          (t.slot (8 * k + j)).regs = (s.slot (8 * k + j)).regs))

end Sys2Proof.Machine

/-- R383, R378: RPLOG refuses a descriptor with a reserved bit, a core of another partition or mode 3 with 6, and a replay on a core that
holds a task with 1; mode 0 ends the core's log and writes STATUS, mode 1 arms a recording, and mode 2 starts a replay from the checkpoint
image whose bytes lie at IMAGE (log 32), at the next core cycle that stands in its frame of 32 as the checkpoint's does (log 30); where none
lies there no replay runs. R377, R378: a replaying core applies the next record of its log
at its offset: a port word, a word of local memory with its full/empty bit, or nothing but the turn of a stalled head. At the end of the log
the replay stops: every slot is STOPPED, and the core's image is written back to the checkpoint. -/
def Obligations.Replay : Prop :=
  ReplayLogInstruction ∧ ReplayAppliesItsLog

namespace Sys2Proof.Machine

/-! The host link, Cybel, power and resets (ch. 20). -/

/-- R397: BIASF: a page that is not device memory, or that the host has locked, gives 6; a page that has the bias completes at once with the
old bias; any other starts its flip and the slot waits in STALL. -/
def BiasFlipsFromTheDevice : Prop :=
  ∀ (s : State) (d a : Reg) (host : Bool) (e : Tlb), s.able [a] [d] → (s.slot s.cur).task.pure = false → (s.slot s.cur).lv ≠ .u →
    let i := s.cur
    let sl := s.slot i
    let va := s.rv a
    va.toNat < 2 ^ 56 → va.toNat / 2 ^ 48 ≠ 0xFF → s.tlb? (i / 8) sl.task.part va = some e → e.leaf.w = true → e.leaf.sealed_ = false →
    let pg := (e.leaf.pbase + (va.toNat - e.vbase)) / 65536
    let b := s.page pg
    (e.leaf.tgt ≠ 0 → Yields (.biasf d a host) s [a] d 6) ∧ (e.leaf.tgt = 0 → b.locked = true → Yields (.biasf d a host) s [a] d 6) ∧
    (e.leaf.tgt = 0 → b.locked = false → sl.pend = [] → b.flips = [] →
      (b.st = (if host then .host else .device) → ∃ t, exec (.biasf d a host) s = .next t ∧ Answered s t d (if host then 256 else 0) ∧
        t.mm = s.mm ∧ t.page pg = b) ∧
      (b.st = (if host then .device else .host) → ∃ t, exec (.biasf d a host) s = .next t ∧
        t.slot i = { sl with st := .stall, hold := .reply (sl.bind d) } ∧
        (t.page pg).st = (if host then .toHost else .toDevice) ∧ (t.page pg).flips = [{ slot := some i, host := host }]))

/-- R239, R397: the drain of a flip ends: the page has its new bias, and the BIASF that asked for it goes on with the old bias and OK. -/
def BiasDrainsEnd : Prop :=
  ∀ (s : State) (pg i : Nat) (host : Bool) (b : BiasPage) (d : Dst), s.page pg = b → b.flips = [{ slot := some i, host := host }] →
    b.st = (if host then .toHost else .toDevice) → s.host.pendingBias = none → (s.slot i).hold = .reply d → (s.slot i).unstepped = true →
    ∃ t, exec (.biasFlipDrainComplete pg) s = .next t ∧ Landed s t i d (if host then 0 else 256) ∧ (t.slot i).st = .ready ∧
      (t.slot i).pc = (s.slot i).npc ∧ t.page pg = { b with st := if host then .host else .device, flips := [] } ∧ t.mm = s.mm

/-- R398: HOSTSIG: a vector that is not mapped gives 6, and a full ring 2; else the value, with SELF, PART and the vector, is in place P of
the partition's ring in host memory, the producer index is P + 1, and the vector's interrupt is raised. -/
def HostsigSignalsTheHost : Prop :=
  ∀ (s : State) (d a b : Reg) (p : Part), s.able [a, b] [d] → (s.slot s.cur).task.pure = false →
    s.part? (s.slot s.cur).task.part = some p → (s.slot s.cur).pend = [] → (∀ l, s.stashHolders l = []) →
    let v := s.rv a
    let g := p.sig
    let full : Prop := (g.p - (s.rdWord (hostBase + g.cidx)).setWidth 32).toNat = 2 ^ g.k
    let place := hostBase + g.base + 16 * (g.p.toNat % 2 ^ g.k)
    let idx := hostBase + g.pidx
    let w1 := BitVec.ofNat 64 (s.cur % 65536 + (s.slot s.cur).task.part % 16 * 2 ^ 16 + v.toNat * 2 ^ 20)
    ((16 ≤ v.toNat ∨ g.vectors[v.toNat]? = none) → Yields (.hostsig d a b) s [a, b] d 6) ∧
    (∀ m, v.toNat < 16 → g.vectors[v.toNat]? = some m → full → Yields (.hostsig d a b) s [a, b] d 2) ∧
    (∀ m, v.toNat < 16 → g.vectors[v.toNat]? = some m → ¬ full → idx + 8 ≤ place ∨ place + 16 ≤ idx →
      ∃ t, exec (.hostsig d a b) s = .next t ∧ Answered s t d 0 ∧ t.host = { s.host with msix := s.host.msix ++ [m] } ∧
        t.part? (s.slot s.cur).task.part = some { p with sig := { g with p := g.p + 1 } } ∧
        ∀ x, t.mm.bytes.byte x = if place ≤ x ∧ x < place + 8 then (s.rv b).extractLsb' (8 * (x - place)) 8
          else if place + 8 ≤ x ∧ x < place + 16 then w1.extractLsb' (8 * (x - (place + 8))) 8
          else if idx ≤ x ∧ x < idx + 8 then ((g.p + 1).setWidth 64).extractLsb' (8 * (x - idx)) 8 else s.mm.bytes.byte x)

end Sys2Proof.Machine

/-- R397: BIASF: a page that is not device memory, or that the host has locked, gives 6; a page that has the bias completes at once with the
old bias; any other starts its flip and the slot waits in STALL. R239, R397: the drain of a flip ends: the page has its new bias, and the
BIASF that asked for it goes on with the old bias and OK. R398: HOSTSIG: a vector that is not mapped gives 6, and a full ring 2; else the
value, with SELF, PART and the vector, is in place P of the partition's ring in host memory, the producer index is P + 1, and the vector's
interrupt is raised. -/
def Obligations.DeviceSideHostInstructions : Prop :=
  BiasFlipsFromTheDevice ∧ BiasDrainsEnd ∧ HostsigSignalsTheHost

namespace Sys2Proof.Machine

/-- R239, R386, R387, R249: host accesses to device memory read and write its bytes, a CAS exchanges them where they are as expected, the
host writes its own memory, and BAR0 gives the module status and takes a queue's tail, which it refuses where it is too far. -/
def HostAccesses : Prop :=
  ∀ (s : State) (a n q : Nat) (bs : List Byte) (cxl : Bool) (cmp new : Nat) (v : Word), (∀ l, s.stashHolders l = []) →
    let stores (t : State) (at_ : Nat) (l : List Byte) : Prop :=
      ∀ x, t.mm.bytes.byte x = if at_ ≤ x ∧ x < at_ + l.length then l.getD (x - at_) 0 else s.mm.bytes.byte x
    let old := (List.range n).map fun j => s.mm.bytes.byte (a + j)
    let may (m : Nat) : Prop := 0 < m ∧ a + m ≤ devEnd ∧ ∀ x, a ≤ x → x < a + m → s.pageBusy x = false
    let e := s.queue q
    (may n → ∃ t, exec (.hostAccess (.load a n cxl)) s = .next t ∧ t.host = { s.host with rdata := old } ∧
      t.mm.bytes = s.mm.bytes ∧ t.mm.poison = s.mm.poison ∧ t.slots = s.slots) ∧
    (may bs.length → ∃ t, exec (.hostAccess (.store a bs cxl)) s = .next t ∧ stores t a bs ∧ t.slots = s.slots) ∧
    (may n → n = 4 ∨ n = 8 ∨ n = 16 → a % n = 0 → ∃ t, exec (.hostAccess (.cas a n cmp new)) s = .next t ∧ t.host.rdata = old ∧
      (bytesNat old = cmp % 2 ^ (8 * n) → stores t a (natBytes n new)) ∧ (bytesNat old ≠ cmp % 2 ^ (8 * n) → t.mm.bytes = s.mm.bytes)) ∧
    (∃ t, exec (.hostAccess (.own a bs)) s = .next t ∧ stores t (hostBase + a) bs ∧ t.slots = s.slots) ∧
    (∃ t, exec (.hostAccess (.barLoad 0x1000)) s = .next t ∧
      let w := bytesNat t.host.rdata
      (s.host.standby = false → w % 16 = s.host.op.toNat) ∧ w.testBit 8 = s.host.trip ∧ w.testBit 9 = s.host.ready) ∧
    (q < 4096 → e.part < 16 → e.df = false → e.tw = false →
      let t32 : BitVec 32 := v.setWidth 32
      ((t32 - e.head).toNat ≤ 2 ^ e.rsz → ∃ t, exec (.hostAccess (.barStore (0x1000000 + 0x1000 * q) v)) s = .next t ∧
        (t.queue q).tail = t32 ∧ (t.queue q).qerr = e.qerr) ∧
      (2 ^ e.rsz < (t32 - e.head).toNat → ∃ t, exec (.hostAccess (.barStore (0x1000000 + 0x1000 * q) v)) s = .next t ∧
        t.queue q = { e with qerr := true } ∧ t.host.msix = s.host.msix ++ [2]))

/-- R157: an uncorrectable error poisons the 8-byte word that it strikes, and changes nothing else: a word of device memory, which is the
home's where a core holds its line dirty; a word of a plain bank; and, of a bank in the cache role or a mapped stash bank, the word of the line
that the bank holds there, for every reader (log 73). A way that holds no line has no word to strike. -/
def UncorrectableErrorsPoison : Prop :=
  ∀ (s : State) (a off : Nat), off < 0x20000 → let w := a / 8 * 8
    let strikes (p : Nat) : Prop := ∃ t, exec (.uncorrectableError a) s = .next t ∧
      t = { s with mm := { s.mm with poison := t.mm.poison } } ∧ ∀ x, x ∈ t.mm.poison ↔ x = p ∨ x ∈ s.mm.poison
    (a < devEnd → get? s.mm.homes (w / 128 * 128) = none → strikes w) ∧
    (∀ l, a < devEnd → get? s.mm.homes (w / 128 * 128) = some l → l.length = 128 → ∃ t m, exec (.uncorrectableError a) s = .next t ∧
      t = { s with mm := { s.mm with homes := put s.mm.homes (w / 128 * 128) m } } ∧ m.length = 128 ∧ ∀ j, j < 128 →
        m.getD j (0, false) = if w % 128 ≤ j ∧ j < w % 128 + 8 then ((l.getD j (0, false)).1, true) else l.getD j (0, false)) ∧
    ∀ k, k < 8192 → a = lmAddr k off →
      let b := off / 0x1000
      let here (l : CLine) : Prop := l.bank = b ∧ l.pa / 128 % 32 = off % 0x1000 / 128
      let role := s.role k b
      (role = 0 ∨ role = 3 → strikes w) ∧
      (role = 1 → (∀ l ∈ (s.core k).cache, ¬ here l) → exec (.uncorrectableError a) s = .next s) ∧
      (∀ l, role = 1 → l ∈ (s.core k).cache → here l → (∀ m ∈ (s.core k).cache, here m → m = l) → strikes (l.pa + w % 128)) ∧
      (role = 2 → get? (s.core k).stash b = none → strikes w) ∧
      (∀ v, role = 2 → get? (s.core k).stash b = some v →
        (get? v.lines (off % 0x1000 / 128) = none → strikes w) ∧
        ∀ l, get? v.lines (off % 0x1000 / 128) = some l → strikes (l.1 + w % 128))

/-- R389: the module with the response to a command that carries no words: the status stands in the mailbox, and vector 0 is raised. -/
def State.answered (s : State) (n : Nat) : State :=
  { s with host := { s.host with
    box := answerBox s.host.box [BitVec.ofNat 64 n], served := s.host.served + 1, msix := s.host.msix ++ [0] } }

/-- R389, R395: the controller takes the command with this code: it is READY and serves no other, and the host has put the code into the mailbox
and rung its doorbell, byte 0xFF8. -/
def State.takes (s : State) (code : Nat) : Prop :=
  s.host.ready = true ∧ s.host.pendingBias = none ∧ s.host.clocksStopped = false ∧ fld (look s.host.box 0 0) 15 0 = code ∧
  fld (look s.host.box 511 0) 7 0 = 1

/-- R387, R389: the mailbox, region 0 to 0xFFF of BAR0, holds what the host writes there, and a response takes the place of the request's 256
bytes and clears the doorbell. That a command's other operands are the happening's, and not read from the request, is log 43's. -/
def TheMailboxHoldsRequestsAndResponses : Prop :=
  (∀ (s : State) (j : Nat) (v : Word), j < 512 →
    exec (.hostAccess (.barStore (8 * j) v)) s = .next { s with host := { s.host with box := put s.host.box j v } } ∧
    ∃ t, exec (.hostAccess (.barLoad (8 * j))) s = .next t ∧ t = { s with host := { s.host with rdata := t.host.rdata } } ∧
      t.host.rdata.length = 8 ∧ ∀ b, b < 8 → t.host.rdata.getD b 0 = (look s.host.box j 0).extractLsb' (8 * b) 8) ∧
  ∀ (box : AMap Word) (n : Word) (j b : Nat), b < 8 → (look (answerBox box [n]) j 0).extractLsb' (8 * b) 8 =
    if j = 0 then n.extractLsb' (8 * b) 8 else if j < 32 ∨ j = 511 ∧ b = 0 then 0 else (look box j 0).extractLsb' (8 * b) 8

/-- R388, R389, R391: the command has answered OK, with an entry in the attestation log. -/
def Attested (s t : State) (e : AttEntry) : Prop :=
  t.host.box = answerBox s.host.box [0] ∧ t.host.served = s.host.served + 1 ∧ t.host.msix = s.host.msix ++ [5, 0] ∧ t.host.attLog = s.host.attLog ++ [e]

/-- Core `k` holds nothing: its registers and slots are as after reset, and its local memory is zero. -/
structure CoreClear (t : State) (k : Nat) : Prop where
  core : t.core k = CoreState.reset
  slots : ∀ i, i / 8 = k → t.slot i = Slot.idle (resetDuty (i % 8))
  memory : ∀ x, x < 0x20000 → t.mm.bytes.byte (lmAddr k x) = 0

/-- R239, R390: BIAS refuses pages that are not device memory; a page that has the bias is locked or unlocked at once, and any other is
flipped, after whose drain the command responds and the page is held as the command says. -/
def BiasCommands : Prop :=
  ∀ (s : State) (pg : Nat) (host lock : Bool) (b : BiasPage), s.page pg = b →
    (s.takes 0x07 → (∀ n, devEnd < 65536 * (pg + n) → exec (.bias pg n host lock) s = .next (s.answered 6)) ∧
      (65536 * (pg + 1) ≤ devEnd → b.flips = [] →
        (b.st = (if host then .host else .device) → ∃ t, exec (.bias pg 1 host lock) s = .next t ∧ t.page pg = { b with locked := lock } ∧
          t.host = (s.answered 0).host ∧ t.mm = s.mm) ∧
        (b.st = (if host then .device else .host) → ∃ t, exec (.bias pg 1 host lock) s = .next t ∧
          (t.page pg).st = (if host then .toHost else .toDevice) ∧ (t.page pg).flips = [{ slot := none, host := host }] ∧
          t.host = { s.host with pendingBias := some { pages := [pg], host := host, lock := lock } }))) ∧
    (b.flips = [{ slot := none, host := host }] → b.st = (if host then .toHost else .toDevice) →
      s.host.pendingBias = some { pages := [pg], host := host, lock := lock } → ∃ t, exec (.biasFlipDrainComplete pg) s = .next t ∧
        t.page pg = { b with st := if host then .host else .device, flips := [], locked := lock } ∧ t.mm = s.mm ∧
        t.host = { (s.answered 0).host with pendingBias := none })

end Sys2Proof.Machine

/-- R239, R386, R387, R249: host accesses to device memory read and write its bytes, a CAS exchanges them where they are as expected, the
host writes its own memory, and BAR0 gives the module status and takes a queue's tail, which it refuses where it is too far. R157: an
uncorrectable error poisons the 8-byte word that it strikes, and changes nothing else: a word of device memory, which is the home's where a
core holds its line dirty; a word of a plain bank; and, of a bank in the cache role or a mapped stash bank, the word of the line that the
bank holds there, for every reader (log 73). R387, R389: the mailbox holds what the host writes there, and a response takes the place of the
request's 256 bytes and clears the doorbell; that a command's other operands are the happening's is log 43's. R239, R390: BIAS refuses
pages that are not device memory; a page that has the bias is locked or unlocked at once, and any other is flipped, after whose drain the
command responds and the page is held as the command says. -/
def Obligations.HostReachesMemory : Prop :=
  HostAccesses ∧ UncorrectableErrorsPoison ∧ TheMailboxHoldsRequestsAndResponses ∧ BiasCommands

/-- R389, R31, R391: PART_CREATE refuses a number in use, an octet that is held, quotas beyond the module's, a reserved interrupt vector and
a Newt store that is too small; else the partition holds its octets, every core of them zeroed, and its device queue takes packets.
PART_DESTROY refuses a partition with a task; else its octets and queues are free. Both log an entry. A zeroed core has its reset DUTY codes,
issue table and RSEED (log 54); a PART_CREATE in standby or with sizes that a queue cannot have, and a PART_DESTROY that names no partition,
are refused (log 44); and an octet that a stopped partition lists is noted as given away (log 29). -/
def Obligations.PartitionsAreMadeAndDestroyed : Prop :=
  ∀ (s : State) (a : PartSpec) (p : Nat), (∀ o ∈ a.octets, o < 1024) →
    let sizes : Prop := 0 < a.tickets ∧ a.tickets ≤ 4096 ∧ 3 ≤ a.rsz ∧ a.rsz ≤ 20 ∧ fld a.ring 5 0 = 0
    let refused : Prop := s.part? a.num ≠ none ∨ (∃ o ∈ a.octets, (s.oct o).part ≠ none) ∨
      1536 < (s.parts.map fun p => p.2.quota).sum + a.quota ∨ (∃ v ∈ a.vectors, v < 16) ∨ a.storeSize < a.cap * 256 + a.pool ∨
      s.host.standby = true ∨ ¬ sizes
    let fits : Prop := a.num < 16 ∧ a.octets.Nodup ∧ (∀ o ∈ a.octets, (s.die (o / 256)).on = true) ∧ a.vectors.length ≤ 16 ∧
      (∀ v ∈ a.vectors, v ≤ 2047) ∧ 4 ≤ a.sigK ∧ a.sigK ≤ 16 ∧ a.cap ≤ 2 ^ 24
    (s.takes 0x01 → refused → exec (.partCreate a) s = .next (s.answered 6)) ∧
    (s.takes 0x01 → ¬ refused → fits → ∃ t v, exec (.partCreate a) s = .next t ∧ Attested s t (.create a.num) ∧ t.part? a.num = some v ∧
      v.octets = a.octets ∧ v.ptbase = a.ptbase &&& 0x00FFFFFFFFFF0000 ∧ v.tvec = 0 ∧ v.tdeleg = 0 ∧ v.quota = a.quota ∧ v.pins = [] ∧ v.groups = [] ∧
      v.armed = none ∧ v.gang = .running ∧ v.newt.agents = [] ∧ v.newt.gvt = 0 ∧ v.newt.period = a.period.getD 9600 ∧ v.sig =
        { base := a.sigBase, k := a.sigK, pidx := a.sigPidx, cidx := a.sigCidx, p := 0, vectors := a.vectors } ∧
      (∀ o ∈ a.octets, (t.oct o).part = some a.num ∧ ∀ k, k / 8 = o → CoreClear t k) ∧ (∀ o, o ∉ a.octets → t.oct o = s.oct o) ∧
      (t.queue (4096 + a.num)).part = a.num ∧ (t.queue (4096 + a.num)).en = true ∧ (t.queue (4096 + a.num)).ring = a.ring ∧
      (∀ q, q ≠ a.num → (s.part? q = none → t.part? q = none) ∧ ∀ w, s.part? q = some w → ∃ l, t.part? q = some { w with away := l } ∧
        (w.gang = .running → l = w.away) ∧ (w.gang ≠ .running → ∀ o, o ∈ l ↔ o ∈ w.away ∨ o ∈ a.octets ∧ o ∈ w.octets)) ∧
      ∀ x, isLm x = false → t.mm.bytes.byte x = s.mm.bytes.byte x) ∧
    (s.takes 0x02 → s.part? p = none → exec (.partDestroy p) s = .next (s.answered 6)) ∧
    (∀ v, s.takes 0x02 → s.part? p = some v → (∀ o ∈ v.octets, o < 1024) →
      let busy : Prop := ∃ i, i / 64 ∈ v.octets ∧ (s.oct (i / 64)).part = some p ∧ (s.slot i).st ≠ .idle
      (busy → exec (.partDestroy p) s = .next (s.answered 6)) ∧
      (¬ busy → ∃ t, exec (.partDestroy p) s = .next t ∧ Attested s t (.destroy p) ∧ t.part? p = none ∧
        (∀ q, q ≠ p → t.part? q = s.part? q) ∧ (∀ o ∈ v.octets, (s.oct o).part = some p → (t.oct o).part = none ∧
          ∀ k, k / 8 = o → CoreClear t k) ∧ (∀ e ∈ t.disp.queues, e.2.part ≠ p) ∧ (∀ g ∈ t.sk.graphs, g.2.part ≠ p) ∧
        ∀ x, isLm x = false → t.mm.bytes.byte x = s.mm.bytes.byte x))

namespace Sys2Proof.Machine

/-- R248, R334, R289, R212: QUEUE_CONFIG refuses a queue of another partition that is not empty, and a tail word that cannot be reached;
else the queue has what the command carries, and reads its tail word where that is watched, or is removed. RING_CONFIG sets a delivery ring.
QUOTA refuses quotas beyond 256 in all, else sets a tenant's Pewter quota, to which every instance cuts the tenant's entries, and its keep
limit. Sizes that a queue cannot have are refused, a queue is removed only where it is empty, and one that moves to another partition starts
afresh (log 44). -/
def QueuesRingsAndQuotas : Prop :=
  ∀ (s : State) (q p r : Nat) (a : QueueSpec) (g : RingSpec) (t : BitVec 16) (n keep : Nat),
    let sizes : Prop := a.part < 16 ∧ 0 < a.tickets ∧ a.tickets ≤ 4096 ∧ 3 ≤ a.rsz ∧ a.rsz ≤ 20 ∧ fld a.ring 5 0 = 0 ∧
      (a.df = false → fld a.heada 2 0 = 0 ∧ fld a.taila 2 0 = 0)
    let v := s.queue q
    let others := ((s.pw.tenants.filter fun e => e.1 ≠ t.toNat).map fun e => e.2.quota).sum
    let new : Queue := { (if v.part = a.part then v else Queue.unset) with
      part := a.part, tenant := a.tenant, tickets := a.tickets, en := a.en, sv := a.sv, df := a.df, tw := a.tw, ring := a.ring
      rsz := a.rsz, heada := a.heada, taila := a.taila }
    (s.takes 0x03 → q < 4096 → v.depth ≠ 0 → exec (.queueConfig q none) s = .next (s.answered 6) ∧
      (v.part < 16 → v.part ≠ a.part → exec (.queueConfig q (some a)) s = .next (s.answered 6))) ∧
    (s.takes 0x03 → q < 4096 → (a.tw = true ∧ a.df = false ∧ s.tailOk a = false) ∨ ¬ sizes →
      exec (.queueConfig q (some a)) s = .next (s.answered 6)) ∧
    (s.takes 0x03 → q < 4096 → v.depth = 0 → ∃ u, exec (.queueConfig q none) s = .next u ∧ u.host = (s.answered 0).host ∧
      u.queue q = Queue.unset ∧ ∀ x, x ≠ q → u.queue x = s.queue x) ∧
    (s.takes 0x03 → q < 4096 → v.part = a.part ∨ v.depth = 0 → sizes →
      (a.tw = false ∨ a.df = true → exec (.queueConfig q (some a)) s = .next ((s.setQueue q { new with watch := none }).answered 0)) ∧
      (a.tw = true → a.df = false → s.tailOk a = true → ∃ u l pa, exec (.queueConfig q (some a)) s = .next u ∧ u =
        { (s.setQueue q { new with watch := some pa }).answered 0 with disp := { s.disp with queues := u.disp.queues, wrote := l } } ∧
        u.queue q = { new with watch := some pa } ∧ (∀ x, x ≠ q → u.queue x = s.queue x) ∧ ∀ x, x ∈ l ↔ x = q ∨ x ∈ s.disp.wrote)) ∧
    (∀ m, s.takes 0x04 → (s.part? p).map (·.newt) = some m → r < 256 → g.home < 4 → 4 ≤ g.rsz → g.rsz ≤ 20 → ∃ u m' x,
      exec (.ringConfig p r g) s = .next u ∧ u.host = (s.answered 0).host ∧ (u.part? p).map (·.newt) = some m' ∧ get? m'.rings r = some x ∧
      x.en = g.en ∧ x.home = g.home ∧ x.base = g.base ∧ x.rsz = g.rsz ∧ x.pidxa = g.pidxa ∧ x.cidxa = g.cidxa ∧ x.statwa = g.statwa ∧
      x.stall = false ∧ m' = { m with rings := m'.rings } ∧ ∀ y, y ≠ r → get? m'.rings y = get? m.rings y) ∧
    (s.takes 0x05 → 256 < others + n → exec (.quota t n keep) s = .next (s.answered 6)) ∧
    (s.takes 0x05 → others + n ≤ 256 → keep ≤ 15 → ∃ u e, exec (.quota t n keep) s = .next u ∧ u.host = (s.answered 0).host ∧
      get? u.pw.tenants t.toNat = some e ∧ e.quota = n ∧ e.lookups = 0 ∧ e.hits = 0 ∧ e.inserts = 0 ∧ e.invalidated = 0 ∧ e.skipped = 0 ∧
      get? u.keepLimit t.toNat = some keep ∧ ∀ st,
        ((u.die st).pew.entries.filter fun x => x.tenant = t).length ≤ 1024 * n ∧
        (u.die st).pew.entries.filter (fun x => x.tenant ≠ t) = (s.die st).pew.entries.filter fun x => x.tenant ≠ t)

/-- R381, R391, R345, R329: GANG arms a switch as GANGSW does, and lets a partition that waits for a command resume; it keeps the octets that
it gives back. WINDOW is refused once the windows are locked. MODULE_CONFIG is refused while a partition exists or where a port is out of
range, and else sets the module's number and routes. GVT_DOMAIN is refused where the partition holds an agent, or where this module or the
root is no member. A command that names no partition is refused (log 44), and so is GANG for an octet that is not the partition's (log 29). -/
def GangWindowAndDomainCommands : Prop :=
  ∀ (s : State) (p : Nat) (t r : Word) (back : List Nat) (rs : List (Nat × Nat)) (lock : Bool) (num root : Nat)
    (routes : List (Nat × List Nat)) (ms : List (Nat × Nat)),
    let own := s.host.module.toNat
    (s.part? p = none → (s.takes 0x06 → exec (.gang p t r back) s = .next (s.answered 6)) ∧
      (s.takes 0x0E → exec (.gvtDomain p ms root) s = .next (s.answered 6))) ∧
    (∀ v, s.takes 0x06 → s.part? p = some v →
      ((∃ o ∈ back, o ∉ v.octets) → exec (.gang p t r back) s = .next (s.answered 6)) ∧
      (v.gang = .running → v.armed = none → t ≠ 0 → r = 0 ∨ t.toNat < r.toNat → (∀ o ∈ back, o ∈ v.octets) →
        ∃ l, (∀ o, o ∈ l ↔ o ∈ back) ∧
          exec (.gang p t r back) s = .next ({ s with parts := put s.parts p { v with armed := some (t, r), back := l } }.answered 0)) ∧
      (∀ x, v.gang = .stopped x → t = 0 → (∀ o ∈ back, o ∈ v.octets) → ∃ l, (∀ o, o ∈ l ↔ o ∈ back ∨ o ∈ v.back) ∧
        exec (.gang p t r back) s = .next ({ s with parts := put s.parts p { v with given := true, back := l } }.answered 0))) ∧
    (∀ v, s.takes 0x0E → s.part? p = some v →
      (v.newt.next ≠ 0 ∨ (∀ m ∈ ms, m.1 ≠ own) ∨ (∀ m ∈ ms, m.1 ≠ root) → exec (.gvtDomain p ms root) s = .next (s.answered 6)) ∧
      (v.newt.next = 0 → ms.length ≤ 64 → (∃ m ∈ ms, m.1 = own) → (∃ m ∈ ms, m.1 = root) → exec (.gvtDomain p ms root) s =
        .next ({ s with parts := put s.parts p { v with newt := { v.newt with domain := ms, root := root } } }.answered 0))) ∧
    (s.takes 0x0C → s.host.winLocked = true → exec (.window rs lock) s = .next (s.answered 6)) ∧
    (s.takes 0x0C → s.host.winLocked = false → exec (.window rs lock) s =
      .next ({ s with host := { s.host with windows := rs, winLocked := lock } }.answered 0)) ∧
    (s.takes 0x0D → s.parts ≠ [] ∨ (∃ x ∈ routes, ∃ n ∈ x.2, 16 ≤ n) → exec (.moduleConfig num routes) s = .next (s.answered 6)) ∧
    (s.takes 0x0D → s.parts = [] → num < 64 → (∀ x ∈ routes, x.1 < 64 ∧ x.2.length ≤ 16 ∧ ∀ n ∈ x.2, n < 16) → (routes.map (·.1)).Nodup →
      ∃ u, exec (.moduleConfig num routes) s = .next u ∧ u.host.module.toNat = num ∧ u.host.box = answerBox s.host.box [0] ∧
        ∀ m l, get? u.host.routes m = some l ↔ (m, l) ∈ routes)

end Sys2Proof.Machine

/-- R248, R334, R289, R212: QUEUE_CONFIG refuses a queue of another partition that is not empty, and a tail word that cannot be reached;
else the queue has what the command carries, and reads its tail word where that is watched, or is removed. RING_CONFIG sets a delivery ring.
QUOTA refuses quotas beyond 256 in all, else sets a tenant's Pewter quota, to which every instance cuts the tenant's entries, and its keep
limit. R381, R391, R345, R329: GANG arms a switch as GANGSW does, and lets a partition that waits for a command resume; it keeps the octets
that it gives back. WINDOW is refused once the windows are locked. MODULE_CONFIG is refused while a partition exists or where a port is out
of range, and else sets the module's number and routes. GVT_DOMAIN is refused where the partition holds an agent, or where this module or
the root is no member. The model's choices: sizes that a queue cannot have are refused, a queue is removed only where it is empty, one that
moves to another partition starts afresh, and a command that names no partition is refused (log 44); GANG is refused for an octet that is
not the partition's (log 29). -/
def Obligations.ConfigurationCommands : Prop :=
  QueuesRingsAndQuotas ∧ GangWindowAndDomainCommands

/-- R391: ATTEST is refused once the key's signatures are used up; else the index is advanced and the response begins with the nonce and the
measurement of the firmware that runs. FW_STAGE refuses an image outside locked windows, one that does not verify and one older than the
rollback counter, and else keeps it in flash for the next cold reset and logs it. That the nonce and the measurement stand in the response's
words 1 to 4 and 5 to 8, and that FW_STAGE raises vector 5 once, is log 40's choice. -/
def Obligations.FirmwareCommands : Prop :=
  ∀ (s : State) (nonce : BitVec 256) (addr len : Nat),
    let h := s.host
    let img := s.rdBytes (hostBase + addr) len
    let outside : Prop := h.winLocked = true ∧ ∀ w ∈ h.windows, ¬ (w.1 ≤ addr ∧ addr + len ≤ w.1 + w.2)
    let bad : Prop := outside ∨ Config.verifies img = false ∨ Config.imageVersion img < h.rollback
    (s.takes 0x09 → 2 ^ 20 ≤ h.sigIndex → exec (.attest nonce) s = .next (s.answered 6)) ∧
    (s.takes 0x09 → h.sigIndex < 2 ^ 20 → ∃ t, exec (.attest nonce) s = .next t ∧ t.host.sigIndex = h.sigIndex + 1 ∧
      look t.host.box 0 0 = 0 ∧ t.host.msix = h.msix ++ [0] ∧ t.mm = s.mm ∧
      (∀ j, j < 4 → look t.host.box (1 + j) 0 = nonce.extractLsb' (64 * j) 64) ∧
      ∀ j, j < 4 → look t.host.box (5 + j) 0 = h.running.meas.extractLsb' (64 * j) 64) ∧
    (s.takes 0x0A → bad → exec (.fwStage addr len) s = .next (s.answered 6)) ∧
    (s.takes 0x0A → ¬ bad → ∃ t, exec (.fwStage addr len) s = .next t ∧ Attested s t (.stage (Config.imageVersion img)) ∧ t.mm = s.mm ∧
      t.host.flash = { version := Config.imageVersion img, meas := Config.measurement img, signed := true } ∧ t.host.running = h.running)

/-- R393, R394: a change of operating point stops every clock at a core cycle divisible by 8, and no slot has a turn until they restart at
the new point, in standby too, which it ends; a die at its trip point stops issue too and tells the host, and only a POWER command ends that,
which is BUSY while a die is still too hot: that is Config's choice of the moment (log 45, log 8). A stack that a partition holds is not
powered off; one that is powered off or on holds nothing (log 45; its cores have their reset values, log 54). Standby is refused while a
partition is not stopped, and ends with the compute dies zeroed. -/
def Obligations.PowerCommands : Prop :=
  ∀ (s : State) (op : BitVec 3) (st die : Nat),
    let h := s.host
    let atStop : Prop := s.dclk % 8 = 0 ∧ s.sched.begun = false
    let rests : Prop := h.standby = true ∨ (h.trip = true ∧ s.sched.begun = false ∧ s.unitsQuiet = true)
    let cleared (t : State) (d : Nat) : Prop := ∀ k, k < 8192 → k / 2048 = d → CoreClear t k
    let running : Prop := ∃ e ∈ s.parts, ∀ r, e.2.gang ≠ .stopped r
    (s.takes 0x08 → atStop ∨ rests →
      (h.trip = false ∨ s.sched.choices.headD 0 = 0 → ∃ t, exec (.powerOperatingPoint op) s = .next t ∧
        t.host = { h with standby := false, opNext := op, clocksStopped := true } ∧
        (h.standby = false → t.slots = s.slots ∧ t.cores = s.cores ∧ t.mm = s.mm) ∧
        (h.standby = true → (∀ d, d < 4 → cleared t d) ∧ ∀ x, isLm x = false → t.mm.bytes.byte x = s.mm.bytes.byte x)) ∧
      (h.trip = true → s.sched.choices.headD 0 ≠ 0 → ∃ t, exec (.powerOperatingPoint op) s = .next t ∧ t.host = (s.answered 1).host ∧
        t.slots = s.slots)) ∧
    (h.clocksStopped = true ∨ h.standby = true ∨ h.trip = true → s.nextTurn = none) ∧
    (h.clocksStopped = true → exec .clockRestart s = .next ({ s with host := { h with
      op := h.opNext, clocksStopped := false, trip := false, hot := [] } }.answered 0)) ∧
    (atStop → ∃ t, exec (.thermalTrip die) s = .next t ∧ t.host.trip = true ∧ t.host.op = h.op ∧ t.host.msix = h.msix ++ [1] ∧
      t = { s with host := t.host }) ∧
    (s.takes 0x08 → st < 4 →
      ((∃ o x, get? s.octets o = some x ∧ o / 256 = st ∧ x.part ≠ none) → exec (.powerStackOff st) s = .next (s.answered 6)) ∧
      ((∀ e ∈ s.octets, e.1 / 256 = st → e.2.part = none) → ∃ t, exec (.powerStackOff st) s = .next t ∧ t.host = (s.answered 0).host ∧
        (t.die st).on = false ∧ cleared t st ∧ ∀ x, isLm x = false → t.mm.bytes.byte x = s.mm.bytes.byte x) ∧
      ((s.die st).on = true → exec (.powerStackOn st) s = .next (s.answered 0)) ∧
      ((s.die st).on = false → ∃ t, exec (.powerStackOn st) s = .next t ∧ t.host = (s.answered 0).host ∧ (t.die st).on = true ∧ cleared t st ∧
        ∀ k, k < 8192 → k / 2048 = st → ∀ x, x < 0x20000 → lmAddr k x ∉ t.mm.full)) ∧
    (s.takes 0x08 → (running → exec .powerStandby s = .next (s.answered 6)) ∧
      (¬ running → exec .powerStandby s = .next ({ s with host := { h with standby := true } }.answered 0)) ∧
      (h.standby = true → ∃ t, exec .powerStandbyExit s = .next t ∧ t.host = { (s.answered 0).host with standby := false } ∧
        (∀ d, d < 4 → cleared t d) ∧ ∀ x, isLm x = false → t.mm.bytes.byte x = s.mm.bytes.byte x))

/-- R391, R395: a module reset and an FLR clear every partition, queue, agent, pin, Pewter entry and ring and keep device memory, the
firmware and the attestation log; READY is as it was. A cold reset also loses device memory, which then reads as 0 (log 46, log 2), and
starts the image in flash, unless its signature does not verify or its version is below the rollback counter: then READY stays 0. Lost power
does the same and, the model's reading, loses the log (log 46). After each the module is at OP0 and DCLK is 0. -/
def Obligations.ResetsClearTheModule : Prop :=
  ∀ s : State,
    let h := s.host
    let clear (t : State) : Prop := t.parts = [] ∧ t.slots = [] ∧ t.cores = [] ∧ t.octets = [] ∧ t.disp.queues = [] ∧ t.sk.graphs = [] ∧ t.dies = [] ∧
      t.nmsgs = [] ∧ t.dclk = 0 ∧ t.host.op = 0 ∧ t.host.trip = false ∧ t.host.standby = false ∧ t.host.clocksStopped = false ∧
      t.mm.full = [] ∧ ∀ x, isLm x = true → t.mm.bytes.byte x = 0
    let module (i : Instr) : Prop := ∃ t, exec i s = .next t ∧ clear t ∧ t.host.ready = h.ready ∧ t.host.running = h.running ∧ t.host.flash = h.flash ∧
      t.host.attLog = h.attLog ∧ t.host.sigIndex = h.sigIndex ∧ ∀ x, isLm x = false → t.mm.bytes.byte x = s.mm.bytes.byte x
    let cold (i : Instr) (log : List AttEntry) : Prop := ∃ t, exec i s = .next t ∧ clear t ∧ t.host.sigIndex = h.sigIndex ∧ t.host.flash = h.flash ∧
      (∀ x, x < devEnd → t.mm.bytes.byte x = 0) ∧
      (h.flash.signed = true ∧ h.rollback ≤ h.flash.version → t.host.ready = true ∧ t.host.running = h.flash ∧ t.host.attLog = log ++ [.start h.flash.version]) ∧
      (h.flash.signed = false ∨ h.flash.version < h.rollback → t.host.ready = false ∧ t.host.running = h.running ∧ t.host.attLog = log)
    (s.takes 0x0B → module .resetModule ∧ cold .resetCold h.attLog) ∧ module .flr ∧ cold .powerLoss []

/-! Encodings (ch. 3). -/

/-- R50 to R58: for every well-formed instruction with an encoding, the decoder reads the words that the encoder writes as that instruction,
with every operand at every value the encoding admits; a happening has no words. -/
def Obligations.DecodingUndoesEncoding : Prop :=
  ∀ i : Instr, (hasEncoding i = true → wellFormed i = true → ∃ e, encode i = some e ∧ decode e = .ok i) ∧
    (hasEncoding i = false → encode i = none)

/-- R56, R58, R59: an instruction has one encoding: whatever words the decoder accepts, with no bit in a tail that the head's length does
not give it, are the words that the encoder writes for the instruction it reads, and that instruction is well formed. -/
def Obligations.EveryAcceptedWordIsTheEncoding : Prop :=
  ∀ (e : Enc) (i : Instr), (e.fTl.toNat < 1 → e.t1 = 0) → (e.fTl.toNat < 2 → e.t2 = 0) → (e.fTl.toNat < 3 → e.t3 = 0) →
    decode e = .ok i → hasEncoding i = true ∧ wellFormed i = true ∧ encode i = some e

/-- The words that the chapters give as examples of their encodings decode to the instructions they stand for. -/
def Obligations.ExampleWordsDecode : Prop :=
  decode ⟨0x8100, 0x0C42, 0xFFE2, 0⟩ = .ok (.bc (.x 3) (.x 4) (-1) 2 .lt) ∧ decode ⟨0x5005, 0x1870, 0, 0⟩ = .ok (.fcvt (.x 5) (.x 6) (.x 7)) ∧
  decode ⟨0x94D0, 0x1203, 0, 0⟩ = .ok (.vfma .w16 0 1 2 0 none .bf16) ∧
  decode ⟨0xDD40, 0x1878, 0x1400, 0x0010⟩ = .ok (.stx (.x 6) (.x 7) (.x 5) 16 .w .none) ∧
  decode ⟨0xE200, 0x2002, 0x007F, 0⟩ = .ok (.tmma (.x 8) (.x 0) 0 127 true 0) ∧
  decode ⟨0xA580, 0x2450, 0x0020, 0⟩ = .ok (.tokacc (.x 9) (.x 5) 32) ∧ decode ⟨0xA600, 0x2402, 0x0020, 0⟩ = .ok (.pft (.x 9) 32 .keep) ∧
  decode ⟨0xEB44, 0x2860, 0x2013, 0⟩ = .ok (.acas2 (.x 4) (.x 10) (.x 6) (.x 8) 0 .s .ar .none) ∧
  decode ⟨0x6C05, 0x1870, 0, 0⟩ = .ok (.enq (.x 5) (.x 6) (.x 7)) ∧ decode ⟨0x6EC6, 0x2091, 0, 0⟩ = .ok (.gstat (.x 6) (.x 8) (.x 9) true) ∧
  decode ⟨0x7084, 0x0001, 0, 0⟩ = .ok (.rudrop (.x 4) (.x 0) .all) ∧ decode ⟨0x7344, 0x1871, 0, 0⟩ = .ok (.ctxcut (.x 4) (.x 6) (.x 7) true) ∧
  decode ⟨0x7605, 0x2401, 0, 0⟩ = .ok (.streamset (.x 5) (.x 9) 1) ∧ decode ⟨0x7805, 0x1870, 0, 0⟩ = .ok (.gangsw (.x 5) (.x 6) (.x 7)) ∧
  decode ⟨0x7A04, 0x2401, 0, 0⟩ = .ok (.biasf (.x 4) (.x 9) true)

namespace Sys2Proof.Machine

/-! The step of the module (ch. 2, 3, 4). -/

/-- Slot `i` has this turn of the core cycle, and nothing comes before its head: it is ready, or tries a head again that could not issue. -/
structure Issues (s : State) (i : Nat) : Prop where
  begun : s.sched.begun = true
  turn : s.nextTurn = some i
  ready : (s.slot i).st = .ready ∨ (s.slot i).st = .stall
  free : (s.slot i).hold = .none ∧ (s.slot i).late = [] ∧ (s.slot i).found = none ∧ (s.slot i).latch = none ∧ (s.slot i).look = none ∧
    (s.slot i).step = none
  quiet : (s.slot i).ctl.uictl.getLsbD 0 = false
  live : s.replays (i / 8) = false

/-- R58, R59: the trap of a head that is no instruction. -/
def rejectCode : Reject → TrapCode
  | .illegalOp => .illegalOp
  | .illegalLen => .illegalLen

end Sys2Proof.Machine

/-- R41 to R43, R61, R79: a step in which a slot issues runs the instruction that the head at its PC decodes to: the step answers what
`exec` answers for it, and goes on with the core cycle's other turns; R239: where the head has met a page that is in a flip, the slot waits
in STALL with nothing done. A head that is no instruction takes its trap, at the address from which its line was entered or of the branch in
the line that led to it (R73). -/
def Obligations.AStepRunsTheDecodedInstruction : Prop :=
  ∀ (s : State) (i : Nat) (l : List Byte), Issues s i → (s.slot i).line = some l → lineCheck l = none →
    let sl := s.slot i
    let h := lineHeads l
    let k := fld sl.pc 5 0
    let npc := if k < h then sl.pc + 1 else BitVec.ofNat 64 ((sl.pc.toNat / 64 + 1) * 64 + 1)
    let from_ := { s.setSlot i { sl with npc := npc, st := .ready, req := none } with
      cur := i, sched := { s.sched with inTurn := true, turned := i / 8 :: s.sched.turned } }
    0 < k → k ≤ h →
    (∀ ins t, decode (lineEnc l k) = .ok ins → exec ins from_ = .next t → t.sched.flipHit = false →
      (∀ c ∈ t.cores, c.2.rp.mode ≠ .recording) → step s = .next { t with
        dclk := s.dclk, sched := { t.sched with begun := true, turned := i / 8 :: s.sched.turned, inTurn := false } }) ∧
    (∀ ins t, decode (lineEnc l k) = .ok ins → exec ins from_ = .next t → ∃ u, step s = .next u ∧
      u.sched.turned = i / 8 :: s.sched.turned ∧ (t.sched.flipHit = false → u.slots = t.slots ∧ u.mm = t.mm) ∧
      (t.sched.flipHit = true → u.slots = (s.setSlot i { sl with st := .stall }).slots ∧ u.mm = s.mm)) ∧
    (∀ ins r, decode (lineEnc l k) = .ok ins → exec ins from_ = .refused r → step s = .refused r) ∧
    (∀ j, decode (lineEnc l k) = .error j → s.sched.flipHit = false → ∃ u, step s = .next u ∧
      u.sched.turned = i / 8 :: s.sched.turned ∧
      u.slots = (s.takeTrap i { code := rejectCode j, pc := sl.pc, addr := sl.via.getD sl.from_, ops := encOps (lineEnc l k), epc := sl.pc
                                task := sl.task.task }).slots)

/-- R45 to R49: a slot that holds no line enters that of its PC: where the core holds the line at the PC's place, the slot copies its 64
bytes from memory; where it does not, the slot waits in STALL for the line to be filled. It waits first for its own outstanding accesses to
it (R231). That a hit reads the bytes as they are now, and takes POISON where an error has met them since, is log 76's choice. -/
def Obligations.SlotsEnterTheirLines : Prop :=
  ∀ (s : State) (i : Nat) (e : Tlb), (s.slot i).line = none →
    let sl := s.slot i
    let k := i / 8
    let va : Word := BitVec.ofNat 64 (sl.pc.toNat / 64 * 64)
    va.toNat < 2 ^ 56 → va.toNat / 2 ^ 48 ≠ 0xFF → s.tlb? k sl.task.part va = some e → e.leaf.tgt = 0 → e.leaf.x = true →
    (sl.lv = .u → e.leaf.u = true) →
    let pa := e.leaf.pbase + (va.toNat - e.vbase)
    let earlier : Prop := ∃ a ∈ sl.pend, ∃ x ∈ a.parts, x.pa < pa + 64 ∧ pa < x.pa + x.n
    (e.leaf.c = true ∨ get? s.mm.homes (pa / 128 * 128) = none) →
    (earlier → s.enterLine i = (s.setSlot i { sl with st := .stall }, false)) ∧
    (¬ earlier →
      (pa ∈ (s.core k).lineBuf → s.poisoned pa 64 = false → ∃ t, s.enterLine i = (t, true) ∧ t.mm = s.mm ∧
        t.slot i = { sl with line := some ((List.range 64).map fun j => s.mm.bytes.byte (pa + j)) } ∧ ∀ j, j ≠ i → t.slot j = s.slot j) ∧
      (pa ∉ (s.core k).lineBuf → s.enterLine i =
        (s.setSlot i { sl with st := .stall, req := some (.line pa e.leaf.c true) }, false)) ∧
      (pa ∈ (s.core k).lineBuf → s.poisoned pa 64 = true → s.enterLine i = (s.takeTrap i
        { code := .poison, pc := sl.pc, addr := va, epc := sl.pc, task := sl.task.task }, false)))

/-- R61, R62, R3: every step keeps the order of the core cycles: no core has two turns in one core cycle, a turn is that of a slot whose
number is the core cycle's modulo 8 (or a replaying core's, by its own clock), no slot of a partition that is stopped or stopping has one
but for a RULOOK that has issued, and DCLK stands still, or goes on by 1 as a new core cycle begins, or is 0 after a reset. -/
def Obligations.StepsKeepTheTurnsAndTheClock : Prop :=
  ∀ s t : State, step s = .next t →
    (s.turnsOk → t.turnsOk) ∧
    (t.dclk = s.dclk ∨ (t.dclk = s.dclk + 1 ∧ t.sched.begun = false ∧ t.sched.turned = []) ∨
      (t.dclk = 0 ∧ ∃ i rest, s.sched.agenda = .happen i :: rest ∧ resetsModule i = true)) ∧
    ∀ k, t.sched.turned = k :: s.sched.turned → ∃ i, i / 8 = k ∧ k ∉ s.sched.turned ∧ (i % 8 = s.dclk % 8 ∨ s.replays k = true) ∧
      (s.slot i).st ≠ .idle ∧ (s.octRuns (k / 8) = true ∨ (s.slot i).look ≠ none)

/-- R395, R65, R67, R83: the module after reset: READY, at OP0, DCLK 0, with no partition, queue or graph; every slot holds no task; the
issue table gives each slot its turn, slots 4 to 6 are of the auto duty, the ports are empty and memory is in its canonical form. The values
that the spec does not give are the model's (log 2, log 3). -/
def Obligations.ResetLeavesTheModuleReady : Prop :=
  let s := State.reset
  s.turnsOk ∧ s.mm.bytes.wf = true ∧ s.dclk = 0 ∧ s.parts = [] ∧ s.disp.queues = [] ∧ s.sk.graphs = [] ∧ s.host.ready = true ∧ s.host.op = 0 ∧
  s.host.trip = false ∧ (∀ i, (s.slot i).st = .idle ∧ (s.slot i).regs = Regs.zero ∧ (s.slot i).cnt = Counters.zero) ∧
  (∀ k, (∀ j, j < 32 → (s.core k).tblA.getD j 0 = BitVec.ofNat 8 (16 * (j % 8) + j % 8)) ∧ (s.core k).brole = 0 ∧ (s.core k).ah = false ∧
    (s.core k).rseed = 1 ∧ ∀ p, p < 3 → s.intakeOf k p = [] ∧ s.outletOf k p = []) ∧
  (∀ d, (s.die d).on = true) ∧ ∀ i, i % 8 ≠ 7 → (s.slot i).dutyCode = if i % 8 < 4 then 0 else 2
end

