-- ==== Sys2Proof/Laws/Decode.lean ====
section
/-!
SUPPORT. The fields of the words that the encoder writes, and what the decoder needs to read them: the parts of the round trip.
-/

namespace Sys2Proof

variable (tl : BitVec 2) (op : BitVec 8) (d a b c : BitVec 6) (f va vb m : BitVec 4) (i10 : BitVec 10) (off : BitVec 11) (hd : BitVec 5)
  (t1 t2 t3 : BitVec 16)

/-! The head. -/

@[simp] theorem fTl_enc0 : (enc0 tl op d).fTl = tl := by simp [enc0, Enc.fTl]
@[simp] theorem fOp_enc0 : (enc0 tl op d).fOp = op := by simp [enc0, Enc.fOp]
@[simp] theorem fD_enc0 : (enc0 tl op d).fD = d := by simp [enc0, Enc.fD]
@[simp] theorem fTl_enc1 : (enc1 tl op d t1).fTl = tl := by simp [enc1, Enc.fTl]
@[simp] theorem fOp_enc1 : (enc1 tl op d t1).fOp = op := by simp [enc1, Enc.fOp]
@[simp] theorem fD_enc1 : (enc1 tl op d t1).fD = d := by simp [enc1, Enc.fD]
@[simp] theorem fTl_enc2 : (enc2 tl op d t1 t2).fTl = tl := by simp [enc2, Enc.fTl]
@[simp] theorem fOp_enc2 : (enc2 tl op d t1 t2).fOp = op := by simp [enc2, Enc.fOp]
@[simp] theorem fD_enc2 : (enc2 tl op d t1 t2).fD = d := by simp [enc2, Enc.fD]
@[simp] theorem fTl_enc3 : (enc3 tl op d t1 t2 t3).fTl = tl := by simp [enc3, Enc.fTl]
@[simp] theorem fOp_enc3 : (enc3 tl op d t1 t2 t3).fOp = op := by simp [enc3, Enc.fOp]
@[simp] theorem fD_enc3 : (enc3 tl op d t1 t2 t3).fD = d := by simp [enc3, Enc.fD]

/-! The tails. -/

@[simp] theorem fA_enc1_tR : (enc1 tl op d (tR a b f)).fA = a := by simp [enc1, Enc.fA, tR]
@[simp] theorem fB_enc1_tR : (enc1 tl op d (tR a b f)).fB = b := by simp [enc1, Enc.fB, tR]
@[simp] theorem fF_enc1_tR : (enc1 tl op d (tR a b f)).fF = f := by simp [enc1, Enc.fF, tR]
@[simp] theorem fA_enc1_tI : (enc1 tl op d (tI a i10)).fA = a := by simp [enc1, Enc.fA, tI]
@[simp] theorem fImm10_enc1_tI : (enc1 tl op d (tI a i10)).fImm10 = i10 := by simp [enc1, Enc.fImm10, tI]
@[simp] theorem fOff1_enc1_tJ : (enc1 tl op d (tJ off hd)).fOff1 = off := by simp [enc1, Enc.fOff1, tJ]
@[simp] theorem fHd1_enc1_tJ : (enc1 tl op d (tJ off hd)).fHd1 = hd := by simp [enc1, Enc.fHd1, tJ]
@[simp] theorem fVA_enc1_tV : (enc1 tl op d (tV va vb m f)).fVA = va := by simp [enc1, Enc.fVA, tV]
@[simp] theorem fVB_enc1_tV : (enc1 tl op d (tV va vb m f)).fVB = vb := by simp [enc1, Enc.fVB, tV]
@[simp] theorem fM_enc1_tV : (enc1 tl op d (tV va vb m f)).fM = m := by simp [enc1, Enc.fM, tV]
@[simp] theorem fVF_enc1_tV : (enc1 tl op d (tV va vb m f)).fVF = f := by simp [enc1, Enc.fVF, tV]
@[simp] theorem fA_enc2_tR : (enc2 tl op d (tR a b f) t2).fA = a := by simp [enc2, Enc.fA, tR]
@[simp] theorem fB_enc2_tR : (enc2 tl op d (tR a b f) t2).fB = b := by simp [enc2, Enc.fB, tR]
@[simp] theorem fF_enc2_tR : (enc2 tl op d (tR a b f) t2).fF = f := by simp [enc2, Enc.fF, tR]
@[simp] theorem fA_enc2_tI : (enc2 tl op d (tI a i10) t2).fA = a := by simp [enc2, Enc.fA, tI]
@[simp] theorem fImm10_enc2_tI : (enc2 tl op d (tI a i10) t2).fImm10 = i10 := by simp [enc2, Enc.fImm10, tI]
@[simp] theorem fOff1_enc2_tJ : (enc2 tl op d (tJ off hd) t2).fOff1 = off := by simp [enc2, Enc.fOff1, tJ]
@[simp] theorem fHd1_enc2_tJ : (enc2 tl op d (tJ off hd) t2).fHd1 = hd := by simp [enc2, Enc.fHd1, tJ]
@[simp] theorem fVA_enc2_tV : (enc2 tl op d (tV va vb m f) t2).fVA = va := by simp [enc2, Enc.fVA, tV]
@[simp] theorem fVB_enc2_tV : (enc2 tl op d (tV va vb m f) t2).fVB = vb := by simp [enc2, Enc.fVB, tV]
@[simp] theorem fM_enc2_tV : (enc2 tl op d (tV va vb m f) t2).fM = m := by simp [enc2, Enc.fM, tV]
@[simp] theorem fVF_enc2_tV : (enc2 tl op d (tV va vb m f) t2).fVF = f := by simp [enc2, Enc.fVF, tV]
@[simp] theorem fA_enc3_tR : (enc3 tl op d (tR a b f) t2 t3).fA = a := by simp [enc3, Enc.fA, tR]
@[simp] theorem fB_enc3_tR : (enc3 tl op d (tR a b f) t2 t3).fB = b := by simp [enc3, Enc.fB, tR]
@[simp] theorem fF_enc3_tR : (enc3 tl op d (tR a b f) t2 t3).fF = f := by simp [enc3, Enc.fF, tR]
@[simp] theorem fA_enc3_tI : (enc3 tl op d (tI a i10) t2 t3).fA = a := by simp [enc3, Enc.fA, tI]
@[simp] theorem fImm10_enc3_tI : (enc3 tl op d (tI a i10) t2 t3).fImm10 = i10 := by simp [enc3, Enc.fImm10, tI]
@[simp] theorem fOff1_enc3_tJ : (enc3 tl op d (tJ off hd) t2 t3).fOff1 = off := by simp [enc3, Enc.fOff1, tJ]
@[simp] theorem fHd1_enc3_tJ : (enc3 tl op d (tJ off hd) t2 t3).fHd1 = hd := by simp [enc3, Enc.fHd1, tJ]
@[simp] theorem fVA_enc3_tV : (enc3 tl op d (tV va vb m f) t2 t3).fVA = va := by simp [enc3, Enc.fVA, tV]
@[simp] theorem fVB_enc3_tV : (enc3 tl op d (tV va vb m f) t2 t3).fVB = vb := by simp [enc3, Enc.fVB, tV]
@[simp] theorem fM_enc3_tV : (enc3 tl op d (tV va vb m f) t2 t3).fM = m := by simp [enc3, Enc.fM, tV]
@[simp] theorem fVF_enc3_tV : (enc3 tl op d (tV va vb m f) t2 t3).fVF = f := by simp [enc3, Enc.fVF, tV]
@[simp] theorem fOff2_enc2_tJ2 : (enc2 tl op d t1 (tJ off hd)).fOff2 = off := by simp [enc2, Enc.fOff2, tJ]
@[simp] theorem fHd2_enc2_tJ2 : (enc2 tl op d t1 (tJ off hd)).fHd2 = hd := by simp [enc2, Enc.fHd2, tJ]
@[simp] theorem fC_enc2_tI2 : (enc2 tl op d t1 (tI c i10)).fC = c := by simp [enc2, Enc.fC, tI]
@[simp] theorem fX_enc2_tI2 : (enc2 tl op d t1 (tI c i10)).fX = i10 := by simp [enc2, Enc.fX, tI]
@[simp] theorem fOff2_enc3_tJ2 : (enc3 tl op d t1 (tJ off hd) t3).fOff2 = off := by simp [enc3, Enc.fOff2, tJ]
@[simp] theorem fHd2_enc3_tJ2 : (enc3 tl op d t1 (tJ off hd) t3).fHd2 = hd := by simp [enc3, Enc.fHd2, tJ]
@[simp] theorem fC_enc3_tI2 : (enc3 tl op d t1 (tI c i10) t3).fC = c := by simp [enc3, Enc.fC, tI]
@[simp] theorem fX_enc3_tI2 : (enc3 tl op d t1 (tI c i10) t3).fX = i10 := by simp [enc3, Enc.fX, tI]

/-! Coded operands. -/

/-- R58, R59: how the decoder reads words whose opcode, length and fields are known. -/
theorem decode_of {e : Enc} {i : Instr} {op : BitVec 8} {n : BitVec 2} (ho : e.fOp = op) (hl : e.fTl = n) (ht : tailLength op = some n)
    (hp : parse op e = some i) (hw : wellFormed i = true) : decode e = .ok i := by
  simp [decode, ho, hl, ht, hp, hw]

end Sys2Proof
end

