-- ==== Sys2Proof/Laws/Map.lean ====
section
/-!
SUPPORT. Lemmas about sparse tables and about memory in its canonical form.
-/

namespace Sys2Proof.Machine

@[simp] theorem look_put_same {α : Type} (m : AMap α) (k : Nat) (v d : α) : look (put m k v) k d = v := by
  induction m with
  | nil => simp [put, look]
  | cons e t ih =>
    obtain ⟨j, w⟩ := e
    unfold put
    split
    · simp [look]
    · split
      · simp [look]
      · have h : j ≠ k := by omega
        simp [look, h, ih]

theorem look_put_other {α : Type} (m : AMap α) (k j : Nat) (v d : α) (h : j ≠ k) : look (put m k v) j d = look m j d := by
  induction m with
  | nil => simp [put, look, h.symm]
  | cons e t ih =>
    obtain ⟨i, w⟩ := e
    unfold put
    split
    · have : k ≠ j := h.symm
      simp [look, this]
    · split
      · rename_i h1 h2
        subst h2
        have : k ≠ j := h.symm
        simp [look, this]
      · by_cases hij : i = j
        · simp [look, hij]
        · simp [look, hij, ih]

theorem look_put {α : Type} (m : AMap α) (k j : Nat) (v d : α) : look (put m k v) j d = if j = k then v else look m j d := by
  by_cases h : j = k
  · subst h; simp
  · simp [h, look_put_other]

@[simp] theorem get?_put_same {α : Type} (m : AMap α) (k : Nat) (v : α) : get? (put m k v) k = some v := by
  induction m with
  | nil => simp [put, get?]
  | cons e t ih =>
    obtain ⟨j, w⟩ := e
    unfold put
    split
    · simp [get?]
    · split
      · simp [get?]
      · have h : j ≠ k := by omega
        simp [get?, h, ih]

@[simp] theorem put_put {α : Type} (m : AMap α) (k : Nat) (v w : α) : put (put m k v) k w = put m k w := by
  induction m with
  | nil => simp [put]
  | cons e t ih =>
    obtain ⟨j, u⟩ := e
    by_cases h1 : k < j
    · simp [put, h1]
    · by_cases h2 : k = j
      · simp [put, h2]
      · simp [put, h1, h2, ih]

theorem get?_put_other {α : Type} (m : AMap α) (k j : Nat) (v : α) (h : j ≠ k) : get? (put m k v) j = get? m j := by
  induction m with
  | nil => simp [put, get?, h.symm]
  | cons e t ih =>
    obtain ⟨i, w⟩ := e
    unfold put
    split
    · have : k ≠ j := h.symm
      simp [get?, this]
    · split
      · rename_i h1 h2
        subst h2
        have : k ≠ j := h.symm
        simp [get?, this]
      · by_cases hij : i = j
        · simp [get?, hij]
        · simp [get?, hij, ih]

theorem look_mapVals {α : Type} (f : Nat → α → α) (m : AMap α) (k : Nat) (d : α) :
    look (mapVals f m) k d = match get? m k with
      | some v => f k v
      | none => d := by
  unfold mapVals
  induction m with
  | nil => rfl
  | cons e t ih =>
    obtain ⟨j, w⟩ := e
    by_cases h : j = k
    · subst h; simp [look, get?]
    · simp [look, get?, h, ih]

theorem look_eq_get? {α : Type} (m : AMap α) (k : Nat) (d : α) : look m k d = (get? m k).getD d := by
  induction m with
  | nil => rfl
  | cons e t ih =>
    obtain ⟨j, w⟩ := e
    by_cases h : j = k
    · simp [look, get?, h]
    · simp [look, get?, h, ih]

theorem get?_mapVals {α : Type} (f : Nat → α → α) (m : AMap α) (k : Nat) : get? (mapVals f m) k = (get? m k).map (f k) := by
  unfold mapVals
  induction m with
  | nil => rfl
  | cons e t ih =>
    obtain ⟨j, w⟩ := e
    by_cases h : j = k
    · subst h; simp [get?]
    · simp [get?, h, ih]

end Sys2Proof.Machine
end

