-- ==== Sys2Proof/Laws/State.lean ====
section
/-!
SUPPORT. What each update of the state changes: one lemma for each field and update, so that no proof unfolds a record update.
-/

namespace Sys2Proof.Machine

variable (s : State) (i j k p : Nat)

/-! `setSlot`. -/

@[simp] theorem setSlot_dclk (v : Slot) : (s.setSlot i v).dclk = s.dclk := rfl
@[simp] theorem setSlot_cur (v : Slot) : (s.setSlot i v).cur = s.cur := rfl
@[simp] theorem setSlot_sched (v : Slot) : (s.setSlot i v).sched = s.sched := rfl
@[simp] theorem setSlot_mm (v : Slot) : (s.setSlot i v).mm = s.mm := rfl
@[simp] theorem setSlot_cores (v : Slot) : (s.setSlot i v).cores = s.cores := rfl
@[simp] theorem setSlot_octets (v : Slot) : (s.setSlot i v).octets = s.octets := rfl
@[simp] theorem setSlot_dies (v : Slot) : (s.setSlot i v).dies = s.dies := rfl
@[simp] theorem setSlot_parts (v : Slot) : (s.setSlot i v).parts = s.parts := rfl
@[simp] theorem setSlot_disp (v : Slot) : (s.setSlot i v).disp = s.disp := rfl
@[simp] theorem setSlot_sk (v : Slot) : (s.setSlot i v).sk = s.sk := rfl
@[simp] theorem setSlot_pw (v : Slot) : (s.setSlot i v).pw = s.pw := rfl
@[simp] theorem setSlot_nmsgs (v : Slot) : (s.setSlot i v).nmsgs = s.nmsgs := rfl
@[simp] theorem setSlot_net (v : Slot) : (s.setSlot i v).net = s.net := rfl
@[simp] theorem setSlot_keepLimit (v : Slot) : (s.setSlot i v).keepLimit = s.keepLimit := rfl
@[simp] theorem setSlot_bias (v : Slot) : (s.setSlot i v).bias = s.bias := rfl
@[simp] theorem setSlot_host (v : Slot) : (s.setSlot i v).host = s.host := rfl

/-! `setCore`. -/

@[simp] theorem setCore_dclk (v : CoreState) : (s.setCore k v).dclk = s.dclk := rfl
@[simp] theorem setCore_cur (v : CoreState) : (s.setCore k v).cur = s.cur := rfl
@[simp] theorem setCore_sched (v : CoreState) : (s.setCore k v).sched = s.sched := rfl
@[simp] theorem setCore_mm (v : CoreState) : (s.setCore k v).mm = s.mm := rfl
@[simp] theorem setCore_slots (v : CoreState) : (s.setCore k v).slots = s.slots := rfl
@[simp] theorem setCore_octets (v : CoreState) : (s.setCore k v).octets = s.octets := rfl
@[simp] theorem setCore_dies (v : CoreState) : (s.setCore k v).dies = s.dies := rfl
@[simp] theorem setCore_parts (v : CoreState) : (s.setCore k v).parts = s.parts := rfl
@[simp] theorem setCore_disp (v : CoreState) : (s.setCore k v).disp = s.disp := rfl
@[simp] theorem setCore_sk (v : CoreState) : (s.setCore k v).sk = s.sk := rfl
@[simp] theorem setCore_pw (v : CoreState) : (s.setCore k v).pw = s.pw := rfl
@[simp] theorem setCore_nmsgs (v : CoreState) : (s.setCore k v).nmsgs = s.nmsgs := rfl
@[simp] theorem setCore_net (v : CoreState) : (s.setCore k v).net = s.net := rfl
@[simp] theorem setCore_keepLimit (v : CoreState) : (s.setCore k v).keepLimit = s.keepLimit := rfl
@[simp] theorem setCore_bias (v : CoreState) : (s.setCore k v).bias = s.bias := rfl
@[simp] theorem setCore_host (v : CoreState) : (s.setCore k v).host = s.host := rfl

/-! `setOct`. -/

@[simp] theorem setOct_dclk (v : Octet) : (s.setOct k v).dclk = s.dclk := rfl
@[simp] theorem setOct_cur (v : Octet) : (s.setOct k v).cur = s.cur := rfl
@[simp] theorem setOct_sched (v : Octet) : (s.setOct k v).sched = s.sched := rfl
@[simp] theorem setOct_mm (v : Octet) : (s.setOct k v).mm = s.mm := rfl
@[simp] theorem setOct_slots (v : Octet) : (s.setOct k v).slots = s.slots := rfl
@[simp] theorem setOct_cores (v : Octet) : (s.setOct k v).cores = s.cores := rfl
@[simp] theorem setOct_dies (v : Octet) : (s.setOct k v).dies = s.dies := rfl
@[simp] theorem setOct_parts (v : Octet) : (s.setOct k v).parts = s.parts := rfl
@[simp] theorem setOct_disp (v : Octet) : (s.setOct k v).disp = s.disp := rfl
@[simp] theorem setOct_sk (v : Octet) : (s.setOct k v).sk = s.sk := rfl
@[simp] theorem setOct_pw (v : Octet) : (s.setOct k v).pw = s.pw := rfl
@[simp] theorem setOct_nmsgs (v : Octet) : (s.setOct k v).nmsgs = s.nmsgs := rfl
@[simp] theorem setOct_net (v : Octet) : (s.setOct k v).net = s.net := rfl
@[simp] theorem setOct_keepLimit (v : Octet) : (s.setOct k v).keepLimit = s.keepLimit := rfl
@[simp] theorem setOct_bias (v : Octet) : (s.setOct k v).bias = s.bias := rfl
@[simp] theorem setOct_host (v : Octet) : (s.setOct k v).host = s.host := rfl

/-! `setDie`. -/

@[simp] theorem setDie_dclk (v : Stack) : (s.setDie k v).dclk = s.dclk := rfl
@[simp] theorem setDie_cur (v : Stack) : (s.setDie k v).cur = s.cur := rfl
@[simp] theorem setDie_sched (v : Stack) : (s.setDie k v).sched = s.sched := rfl
@[simp] theorem setDie_mm (v : Stack) : (s.setDie k v).mm = s.mm := rfl
@[simp] theorem setDie_slots (v : Stack) : (s.setDie k v).slots = s.slots := rfl
@[simp] theorem setDie_cores (v : Stack) : (s.setDie k v).cores = s.cores := rfl
@[simp] theorem setDie_octets (v : Stack) : (s.setDie k v).octets = s.octets := rfl
@[simp] theorem setDie_parts (v : Stack) : (s.setDie k v).parts = s.parts := rfl
@[simp] theorem setDie_disp (v : Stack) : (s.setDie k v).disp = s.disp := rfl
@[simp] theorem setDie_sk (v : Stack) : (s.setDie k v).sk = s.sk := rfl
@[simp] theorem setDie_pw (v : Stack) : (s.setDie k v).pw = s.pw := rfl
@[simp] theorem setDie_nmsgs (v : Stack) : (s.setDie k v).nmsgs = s.nmsgs := rfl
@[simp] theorem setDie_net (v : Stack) : (s.setDie k v).net = s.net := rfl
@[simp] theorem setDie_keepLimit (v : Stack) : (s.setDie k v).keepLimit = s.keepLimit := rfl
@[simp] theorem setDie_bias (v : Stack) : (s.setDie k v).bias = s.bias := rfl
@[simp] theorem setDie_host (v : Stack) : (s.setDie k v).host = s.host := rfl

/-! `modSlot`. -/

@[simp] theorem modSlot_dclk (f : Slot → Slot) : (s.modSlot i f).dclk = s.dclk := rfl
@[simp] theorem modSlot_cur (f : Slot → Slot) : (s.modSlot i f).cur = s.cur := rfl
@[simp] theorem modSlot_sched (f : Slot → Slot) : (s.modSlot i f).sched = s.sched := rfl
@[simp] theorem modSlot_mm (f : Slot → Slot) : (s.modSlot i f).mm = s.mm := rfl
@[simp] theorem modSlot_cores (f : Slot → Slot) : (s.modSlot i f).cores = s.cores := rfl
@[simp] theorem modSlot_octets (f : Slot → Slot) : (s.modSlot i f).octets = s.octets := rfl
@[simp] theorem modSlot_dies (f : Slot → Slot) : (s.modSlot i f).dies = s.dies := rfl
@[simp] theorem modSlot_parts (f : Slot → Slot) : (s.modSlot i f).parts = s.parts := rfl
@[simp] theorem modSlot_disp (f : Slot → Slot) : (s.modSlot i f).disp = s.disp := rfl
@[simp] theorem modSlot_sk (f : Slot → Slot) : (s.modSlot i f).sk = s.sk := rfl
@[simp] theorem modSlot_pw (f : Slot → Slot) : (s.modSlot i f).pw = s.pw := rfl
@[simp] theorem modSlot_nmsgs (f : Slot → Slot) : (s.modSlot i f).nmsgs = s.nmsgs := rfl
@[simp] theorem modSlot_net (f : Slot → Slot) : (s.modSlot i f).net = s.net := rfl
@[simp] theorem modSlot_keepLimit (f : Slot → Slot) : (s.modSlot i f).keepLimit = s.keepLimit := rfl
@[simp] theorem modSlot_bias (f : Slot → Slot) : (s.modSlot i f).bias = s.bias := rfl
@[simp] theorem modSlot_host (f : Slot → Slot) : (s.modSlot i f).host = s.host := rfl

/-! `modCore`. -/

@[simp] theorem modCore_dclk (f : CoreState → CoreState) : (s.modCore k f).dclk = s.dclk := rfl
@[simp] theorem modCore_cur (f : CoreState → CoreState) : (s.modCore k f).cur = s.cur := rfl
@[simp] theorem modCore_sched (f : CoreState → CoreState) : (s.modCore k f).sched = s.sched := rfl
@[simp] theorem modCore_mm (f : CoreState → CoreState) : (s.modCore k f).mm = s.mm := rfl
@[simp] theorem modCore_slots (f : CoreState → CoreState) : (s.modCore k f).slots = s.slots := rfl
@[simp] theorem modCore_octets (f : CoreState → CoreState) : (s.modCore k f).octets = s.octets := rfl
@[simp] theorem modCore_dies (f : CoreState → CoreState) : (s.modCore k f).dies = s.dies := rfl
@[simp] theorem modCore_parts (f : CoreState → CoreState) : (s.modCore k f).parts = s.parts := rfl
@[simp] theorem modCore_disp (f : CoreState → CoreState) : (s.modCore k f).disp = s.disp := rfl
@[simp] theorem modCore_sk (f : CoreState → CoreState) : (s.modCore k f).sk = s.sk := rfl
@[simp] theorem modCore_pw (f : CoreState → CoreState) : (s.modCore k f).pw = s.pw := rfl
@[simp] theorem modCore_nmsgs (f : CoreState → CoreState) : (s.modCore k f).nmsgs = s.nmsgs := rfl
@[simp] theorem modCore_net (f : CoreState → CoreState) : (s.modCore k f).net = s.net := rfl
@[simp] theorem modCore_keepLimit (f : CoreState → CoreState) : (s.modCore k f).keepLimit = s.keepLimit := rfl
@[simp] theorem modCore_bias (f : CoreState → CoreState) : (s.modCore k f).bias = s.bias := rfl
@[simp] theorem modCore_host (f : CoreState → CoreState) : (s.modCore k f).host = s.host := rfl

/-! `modOct`. -/

@[simp] theorem modOct_dclk (f : Octet → Octet) : (s.modOct k f).dclk = s.dclk := rfl
@[simp] theorem modOct_cur (f : Octet → Octet) : (s.modOct k f).cur = s.cur := rfl
@[simp] theorem modOct_sched (f : Octet → Octet) : (s.modOct k f).sched = s.sched := rfl
@[simp] theorem modOct_mm (f : Octet → Octet) : (s.modOct k f).mm = s.mm := rfl
@[simp] theorem modOct_slots (f : Octet → Octet) : (s.modOct k f).slots = s.slots := rfl
@[simp] theorem modOct_cores (f : Octet → Octet) : (s.modOct k f).cores = s.cores := rfl
@[simp] theorem modOct_dies (f : Octet → Octet) : (s.modOct k f).dies = s.dies := rfl
@[simp] theorem modOct_parts (f : Octet → Octet) : (s.modOct k f).parts = s.parts := rfl
@[simp] theorem modOct_disp (f : Octet → Octet) : (s.modOct k f).disp = s.disp := rfl
@[simp] theorem modOct_sk (f : Octet → Octet) : (s.modOct k f).sk = s.sk := rfl
@[simp] theorem modOct_pw (f : Octet → Octet) : (s.modOct k f).pw = s.pw := rfl
@[simp] theorem modOct_nmsgs (f : Octet → Octet) : (s.modOct k f).nmsgs = s.nmsgs := rfl
@[simp] theorem modOct_net (f : Octet → Octet) : (s.modOct k f).net = s.net := rfl
@[simp] theorem modOct_keepLimit (f : Octet → Octet) : (s.modOct k f).keepLimit = s.keepLimit := rfl
@[simp] theorem modOct_bias (f : Octet → Octet) : (s.modOct k f).bias = s.bias := rfl
@[simp] theorem modOct_host (f : Octet → Octet) : (s.modOct k f).host = s.host := rfl

/-! `modDie`. -/

@[simp] theorem modDie_dclk (f : Stack → Stack) : (s.modDie k f).dclk = s.dclk := rfl
@[simp] theorem modDie_cur (f : Stack → Stack) : (s.modDie k f).cur = s.cur := rfl
@[simp] theorem modDie_sched (f : Stack → Stack) : (s.modDie k f).sched = s.sched := rfl
@[simp] theorem modDie_mm (f : Stack → Stack) : (s.modDie k f).mm = s.mm := rfl
@[simp] theorem modDie_slots (f : Stack → Stack) : (s.modDie k f).slots = s.slots := rfl
@[simp] theorem modDie_cores (f : Stack → Stack) : (s.modDie k f).cores = s.cores := rfl
@[simp] theorem modDie_octets (f : Stack → Stack) : (s.modDie k f).octets = s.octets := rfl
@[simp] theorem modDie_parts (f : Stack → Stack) : (s.modDie k f).parts = s.parts := rfl
@[simp] theorem modDie_disp (f : Stack → Stack) : (s.modDie k f).disp = s.disp := rfl
@[simp] theorem modDie_sk (f : Stack → Stack) : (s.modDie k f).sk = s.sk := rfl
@[simp] theorem modDie_pw (f : Stack → Stack) : (s.modDie k f).pw = s.pw := rfl
@[simp] theorem modDie_nmsgs (f : Stack → Stack) : (s.modDie k f).nmsgs = s.nmsgs := rfl
@[simp] theorem modDie_net (f : Stack → Stack) : (s.modDie k f).net = s.net := rfl
@[simp] theorem modDie_keepLimit (f : Stack → Stack) : (s.modDie k f).keepLimit = s.keepLimit := rfl
@[simp] theorem modDie_bias (f : Stack → Stack) : (s.modDie k f).bias = s.bias := rfl
@[simp] theorem modDie_host (f : Stack → Stack) : (s.modDie k f).host = s.host := rfl

/-! `modSched`. -/

@[simp] theorem modSched_dclk (f : Sched → Sched) : (s.modSched f).dclk = s.dclk := rfl
@[simp] theorem modSched_cur (f : Sched → Sched) : (s.modSched f).cur = s.cur := rfl
@[simp] theorem modSched_sched (f : Sched → Sched) : (s.modSched f).sched = f s.sched := rfl
@[simp] theorem modSched_mm (f : Sched → Sched) : (s.modSched f).mm = s.mm := rfl
@[simp] theorem modSched_slots (f : Sched → Sched) : (s.modSched f).slots = s.slots := rfl
@[simp] theorem modSched_cores (f : Sched → Sched) : (s.modSched f).cores = s.cores := rfl
@[simp] theorem modSched_octets (f : Sched → Sched) : (s.modSched f).octets = s.octets := rfl
@[simp] theorem modSched_dies (f : Sched → Sched) : (s.modSched f).dies = s.dies := rfl
@[simp] theorem modSched_parts (f : Sched → Sched) : (s.modSched f).parts = s.parts := rfl
@[simp] theorem modSched_disp (f : Sched → Sched) : (s.modSched f).disp = s.disp := rfl
@[simp] theorem modSched_sk (f : Sched → Sched) : (s.modSched f).sk = s.sk := rfl
@[simp] theorem modSched_pw (f : Sched → Sched) : (s.modSched f).pw = s.pw := rfl
@[simp] theorem modSched_nmsgs (f : Sched → Sched) : (s.modSched f).nmsgs = s.nmsgs := rfl
@[simp] theorem modSched_net (f : Sched → Sched) : (s.modSched f).net = s.net := rfl
@[simp] theorem modSched_keepLimit (f : Sched → Sched) : (s.modSched f).keepLimit = s.keepLimit := rfl
@[simp] theorem modSched_bias (f : Sched → Sched) : (s.modSched f).bias = s.bias := rfl
@[simp] theorem modSched_host (f : Sched → Sched) : (s.modSched f).host = s.host := rfl

/-! `modMm`. -/

@[simp] theorem modMm_dclk (f : Mem → Mem) : (s.modMm f).dclk = s.dclk := rfl
@[simp] theorem modMm_cur (f : Mem → Mem) : (s.modMm f).cur = s.cur := rfl
@[simp] theorem modMm_sched (f : Mem → Mem) : (s.modMm f).sched = s.sched := rfl
@[simp] theorem modMm_mm (f : Mem → Mem) : (s.modMm f).mm = f s.mm := rfl
@[simp] theorem modMm_slots (f : Mem → Mem) : (s.modMm f).slots = s.slots := rfl
@[simp] theorem modMm_cores (f : Mem → Mem) : (s.modMm f).cores = s.cores := rfl
@[simp] theorem modMm_octets (f : Mem → Mem) : (s.modMm f).octets = s.octets := rfl
@[simp] theorem modMm_dies (f : Mem → Mem) : (s.modMm f).dies = s.dies := rfl
@[simp] theorem modMm_parts (f : Mem → Mem) : (s.modMm f).parts = s.parts := rfl
@[simp] theorem modMm_disp (f : Mem → Mem) : (s.modMm f).disp = s.disp := rfl
@[simp] theorem modMm_sk (f : Mem → Mem) : (s.modMm f).sk = s.sk := rfl
@[simp] theorem modMm_pw (f : Mem → Mem) : (s.modMm f).pw = s.pw := rfl
@[simp] theorem modMm_nmsgs (f : Mem → Mem) : (s.modMm f).nmsgs = s.nmsgs := rfl
@[simp] theorem modMm_net (f : Mem → Mem) : (s.modMm f).net = s.net := rfl
@[simp] theorem modMm_keepLimit (f : Mem → Mem) : (s.modMm f).keepLimit = s.keepLimit := rfl
@[simp] theorem modMm_bias (f : Mem → Mem) : (s.modMm f).bias = s.bias := rfl
@[simp] theorem modMm_host (f : Mem → Mem) : (s.modMm f).host = s.host := rfl

/-! `modDisp`. -/

@[simp] theorem modDisp_dclk (f : Disp → Disp) : (s.modDisp f).dclk = s.dclk := rfl
@[simp] theorem modDisp_cur (f : Disp → Disp) : (s.modDisp f).cur = s.cur := rfl
@[simp] theorem modDisp_sched (f : Disp → Disp) : (s.modDisp f).sched = s.sched := rfl
@[simp] theorem modDisp_mm (f : Disp → Disp) : (s.modDisp f).mm = s.mm := rfl
@[simp] theorem modDisp_slots (f : Disp → Disp) : (s.modDisp f).slots = s.slots := rfl
@[simp] theorem modDisp_cores (f : Disp → Disp) : (s.modDisp f).cores = s.cores := rfl
@[simp] theorem modDisp_octets (f : Disp → Disp) : (s.modDisp f).octets = s.octets := rfl
@[simp] theorem modDisp_dies (f : Disp → Disp) : (s.modDisp f).dies = s.dies := rfl
@[simp] theorem modDisp_parts (f : Disp → Disp) : (s.modDisp f).parts = s.parts := rfl
@[simp] theorem modDisp_disp (f : Disp → Disp) : (s.modDisp f).disp = f s.disp := rfl
@[simp] theorem modDisp_sk (f : Disp → Disp) : (s.modDisp f).sk = s.sk := rfl
@[simp] theorem modDisp_pw (f : Disp → Disp) : (s.modDisp f).pw = s.pw := rfl
@[simp] theorem modDisp_nmsgs (f : Disp → Disp) : (s.modDisp f).nmsgs = s.nmsgs := rfl
@[simp] theorem modDisp_net (f : Disp → Disp) : (s.modDisp f).net = s.net := rfl
@[simp] theorem modDisp_keepLimit (f : Disp → Disp) : (s.modDisp f).keepLimit = s.keepLimit := rfl
@[simp] theorem modDisp_bias (f : Disp → Disp) : (s.modDisp f).bias = s.bias := rfl
@[simp] theorem modDisp_host (f : Disp → Disp) : (s.modDisp f).host = s.host := rfl

/-! `modSk`. -/

@[simp] theorem modSk_dclk (f : Skink → Skink) : (s.modSk f).dclk = s.dclk := rfl
@[simp] theorem modSk_cur (f : Skink → Skink) : (s.modSk f).cur = s.cur := rfl
@[simp] theorem modSk_sched (f : Skink → Skink) : (s.modSk f).sched = s.sched := rfl
@[simp] theorem modSk_mm (f : Skink → Skink) : (s.modSk f).mm = s.mm := rfl
@[simp] theorem modSk_slots (f : Skink → Skink) : (s.modSk f).slots = s.slots := rfl
@[simp] theorem modSk_cores (f : Skink → Skink) : (s.modSk f).cores = s.cores := rfl
@[simp] theorem modSk_octets (f : Skink → Skink) : (s.modSk f).octets = s.octets := rfl
@[simp] theorem modSk_dies (f : Skink → Skink) : (s.modSk f).dies = s.dies := rfl
@[simp] theorem modSk_parts (f : Skink → Skink) : (s.modSk f).parts = s.parts := rfl
@[simp] theorem modSk_disp (f : Skink → Skink) : (s.modSk f).disp = s.disp := rfl
@[simp] theorem modSk_sk (f : Skink → Skink) : (s.modSk f).sk = f s.sk := rfl
@[simp] theorem modSk_pw (f : Skink → Skink) : (s.modSk f).pw = s.pw := rfl
@[simp] theorem modSk_nmsgs (f : Skink → Skink) : (s.modSk f).nmsgs = s.nmsgs := rfl
@[simp] theorem modSk_net (f : Skink → Skink) : (s.modSk f).net = s.net := rfl
@[simp] theorem modSk_keepLimit (f : Skink → Skink) : (s.modSk f).keepLimit = s.keepLimit := rfl
@[simp] theorem modSk_bias (f : Skink → Skink) : (s.modSk f).bias = s.bias := rfl
@[simp] theorem modSk_host (f : Skink → Skink) : (s.modSk f).host = s.host := rfl

/-! `modPw`. -/

@[simp] theorem modPw_dclk (f : Pewter → Pewter) : (s.modPw f).dclk = s.dclk := rfl
@[simp] theorem modPw_cur (f : Pewter → Pewter) : (s.modPw f).cur = s.cur := rfl
@[simp] theorem modPw_sched (f : Pewter → Pewter) : (s.modPw f).sched = s.sched := rfl
@[simp] theorem modPw_mm (f : Pewter → Pewter) : (s.modPw f).mm = s.mm := rfl
@[simp] theorem modPw_slots (f : Pewter → Pewter) : (s.modPw f).slots = s.slots := rfl
@[simp] theorem modPw_cores (f : Pewter → Pewter) : (s.modPw f).cores = s.cores := rfl
@[simp] theorem modPw_octets (f : Pewter → Pewter) : (s.modPw f).octets = s.octets := rfl
@[simp] theorem modPw_dies (f : Pewter → Pewter) : (s.modPw f).dies = s.dies := rfl
@[simp] theorem modPw_parts (f : Pewter → Pewter) : (s.modPw f).parts = s.parts := rfl
@[simp] theorem modPw_disp (f : Pewter → Pewter) : (s.modPw f).disp = s.disp := rfl
@[simp] theorem modPw_sk (f : Pewter → Pewter) : (s.modPw f).sk = s.sk := rfl
@[simp] theorem modPw_pw (f : Pewter → Pewter) : (s.modPw f).pw = f s.pw := rfl
@[simp] theorem modPw_nmsgs (f : Pewter → Pewter) : (s.modPw f).nmsgs = s.nmsgs := rfl
@[simp] theorem modPw_net (f : Pewter → Pewter) : (s.modPw f).net = s.net := rfl
@[simp] theorem modPw_keepLimit (f : Pewter → Pewter) : (s.modPw f).keepLimit = s.keepLimit := rfl
@[simp] theorem modPw_bias (f : Pewter → Pewter) : (s.modPw f).bias = s.bias := rfl
@[simp] theorem modPw_host (f : Pewter → Pewter) : (s.modPw f).host = s.host := rfl

/-! `modNet`. -/

@[simp] theorem modNet_dclk (f : Net → Net) : (s.modNet f).dclk = s.dclk := rfl
@[simp] theorem modNet_cur (f : Net → Net) : (s.modNet f).cur = s.cur := rfl
@[simp] theorem modNet_sched (f : Net → Net) : (s.modNet f).sched = s.sched := rfl
@[simp] theorem modNet_mm (f : Net → Net) : (s.modNet f).mm = s.mm := rfl
@[simp] theorem modNet_slots (f : Net → Net) : (s.modNet f).slots = s.slots := rfl
@[simp] theorem modNet_cores (f : Net → Net) : (s.modNet f).cores = s.cores := rfl
@[simp] theorem modNet_octets (f : Net → Net) : (s.modNet f).octets = s.octets := rfl
@[simp] theorem modNet_dies (f : Net → Net) : (s.modNet f).dies = s.dies := rfl
@[simp] theorem modNet_parts (f : Net → Net) : (s.modNet f).parts = s.parts := rfl
@[simp] theorem modNet_disp (f : Net → Net) : (s.modNet f).disp = s.disp := rfl
@[simp] theorem modNet_sk (f : Net → Net) : (s.modNet f).sk = s.sk := rfl
@[simp] theorem modNet_pw (f : Net → Net) : (s.modNet f).pw = s.pw := rfl
@[simp] theorem modNet_nmsgs (f : Net → Net) : (s.modNet f).nmsgs = s.nmsgs := rfl
@[simp] theorem modNet_net (f : Net → Net) : (s.modNet f).net = f s.net := rfl
@[simp] theorem modNet_keepLimit (f : Net → Net) : (s.modNet f).keepLimit = s.keepLimit := rfl
@[simp] theorem modNet_bias (f : Net → Net) : (s.modNet f).bias = s.bias := rfl
@[simp] theorem modNet_host (f : Net → Net) : (s.modNet f).host = s.host := rfl

/-! `modHost`. -/

@[simp] theorem modHost_dclk (f : HostState → HostState) : (s.modHost f).dclk = s.dclk := rfl
@[simp] theorem modHost_cur (f : HostState → HostState) : (s.modHost f).cur = s.cur := rfl
@[simp] theorem modHost_sched (f : HostState → HostState) : (s.modHost f).sched = s.sched := rfl
@[simp] theorem modHost_mm (f : HostState → HostState) : (s.modHost f).mm = s.mm := rfl
@[simp] theorem modHost_slots (f : HostState → HostState) : (s.modHost f).slots = s.slots := rfl
@[simp] theorem modHost_cores (f : HostState → HostState) : (s.modHost f).cores = s.cores := rfl
@[simp] theorem modHost_octets (f : HostState → HostState) : (s.modHost f).octets = s.octets := rfl
@[simp] theorem modHost_dies (f : HostState → HostState) : (s.modHost f).dies = s.dies := rfl
@[simp] theorem modHost_parts (f : HostState → HostState) : (s.modHost f).parts = s.parts := rfl
@[simp] theorem modHost_disp (f : HostState → HostState) : (s.modHost f).disp = s.disp := rfl
@[simp] theorem modHost_sk (f : HostState → HostState) : (s.modHost f).sk = s.sk := rfl
@[simp] theorem modHost_pw (f : HostState → HostState) : (s.modHost f).pw = s.pw := rfl
@[simp] theorem modHost_nmsgs (f : HostState → HostState) : (s.modHost f).nmsgs = s.nmsgs := rfl
@[simp] theorem modHost_net (f : HostState → HostState) : (s.modHost f).net = s.net := rfl
@[simp] theorem modHost_keepLimit (f : HostState → HostState) : (s.modHost f).keepLimit = s.keepLimit := rfl
@[simp] theorem modHost_bias (f : HostState → HostState) : (s.modHost f).bias = s.bias := rfl
@[simp] theorem modHost_host (f : HostState → HostState) : (s.modHost f).host = f s.host := rfl

/-! Reading one part after an update of one part. -/

theorem slot_setSlot (v : Slot) : (s.setSlot i v).slot j = if j = i then v else s.slot j := by
  unfold State.slot State.setSlot
  rw [look_put]

@[simp] theorem slot_setSlot_same (v : Slot) : (s.setSlot i v).slot i = v := by simp [slot_setSlot]

theorem slot_setSlot_other (v : Slot) (h : j ≠ i) : (s.setSlot i v).slot j = s.slot j := by simp [slot_setSlot, h]

theorem slot_modSlot (f : Slot → Slot) : (s.modSlot i f).slot j = if j = i then f (s.slot i) else s.slot j := slot_setSlot ..

@[simp] theorem slot_modSlot_same (f : Slot → Slot) : (s.modSlot i f).slot i = f (s.slot i) := by simp [slot_modSlot]

theorem slot_modSlot_other (f : Slot → Slot) (h : j ≠ i) : (s.modSlot i f).slot j = s.slot j := by simp [slot_modSlot, h]

@[simp] theorem setSlot_setSlot (v w : Slot) : (s.setSlot i v).setSlot i w = s.setSlot i w := by
  unfold State.setSlot
  simp

@[simp] theorem modSlot_modSlot (f g : Slot → Slot) : (s.modSlot i f).modSlot i g = s.modSlot i fun sl => g (f sl) := by
  unfold State.modSlot
  simp

@[simp] theorem setSlot_modSlot (v : Slot) (f : Slot → Slot) : (s.setSlot i v).modSlot i f = s.setSlot i (f v) := by
  unfold State.modSlot
  simp

theorem core_setCore (v : CoreState) : (s.setCore k v).core j = if j = k then v else s.core j := by
  unfold State.core State.setCore
  rw [look_put]

theorem core_modCore (f : CoreState → CoreState) : (s.modCore k f).core j = if j = k then f (s.core k) else s.core j :=
  core_setCore ..

@[simp] theorem core_modCore_same (f : CoreState → CoreState) : (s.modCore k f).core k = f (s.core k) := by simp [core_modCore]

theorem core_modCore_other (f : CoreState → CoreState) (h : j ≠ k) : (s.modCore k f).core j = s.core j := by simp [core_modCore, h]

theorem oct_setOct (v : Octet) : (s.setOct k v).oct j = if j = k then v else s.oct j := by
  unfold State.oct State.setOct
  rw [look_put]

theorem oct_modOct (f : Octet → Octet) : (s.modOct k f).oct j = if j = k then f (s.oct k) else s.oct j := oct_setOct ..

@[simp] theorem oct_modOct_same (f : Octet → Octet) : (s.modOct k f).oct k = f (s.oct k) := by simp [oct_modOct]

theorem die_setDie (v : Stack) : (s.setDie k v).die j = if j = k then v else s.die j := by
  unfold State.die State.setDie
  rw [look_put]

theorem die_modDie (f : Stack → Stack) : (s.modDie k f).die j = if j = k then f (s.die k) else s.die j := die_setDie ..

@[simp] theorem die_modDie_same (f : Stack → Stack) : (s.modDie k f).die k = f (s.die k) := by simp [die_modDie]

@[simp] theorem slot_setCore (v : CoreState) : (s.setCore k v).slot j = s.slot j := rfl
@[simp] theorem slot_modCore (f : CoreState → CoreState) : (s.modCore k f).slot j = s.slot j := rfl
@[simp] theorem slot_modOct (f : Octet → Octet) : (s.modOct k f).slot j = s.slot j := rfl
@[simp] theorem slot_modDie (f : Stack → Stack) : (s.modDie k f).slot j = s.slot j := rfl
@[simp] theorem slot_modSched (f : Sched → Sched) : (s.modSched f).slot j = s.slot j := rfl
@[simp] theorem slot_modMm (f : Mem → Mem) : (s.modMm f).slot j = s.slot j := rfl
@[simp] theorem slot_modDisp (f : Disp → Disp) : (s.modDisp f).slot j = s.slot j := rfl
@[simp] theorem slot_modSk (f : Skink → Skink) : (s.modSk f).slot j = s.slot j := rfl
@[simp] theorem slot_modPw (f : Pewter → Pewter) : (s.modPw f).slot j = s.slot j := rfl
@[simp] theorem slot_modNet (f : Net → Net) : (s.modNet f).slot j = s.slot j := rfl
@[simp] theorem slot_modHost (f : HostState → HostState) : (s.modHost f).slot j = s.slot j := rfl

@[simp] theorem core_setSlot (v : Slot) : (s.setSlot i v).core j = s.core j := rfl
@[simp] theorem core_modSlot (f : Slot → Slot) : (s.modSlot i f).core j = s.core j := rfl
@[simp] theorem core_modOct (f : Octet → Octet) : (s.modOct k f).core j = s.core j := rfl
@[simp] theorem core_modDie (f : Stack → Stack) : (s.modDie k f).core j = s.core j := rfl
@[simp] theorem core_modSched (f : Sched → Sched) : (s.modSched f).core j = s.core j := rfl
@[simp] theorem core_modMm (f : Mem → Mem) : (s.modMm f).core j = s.core j := rfl
@[simp] theorem core_modDisp (f : Disp → Disp) : (s.modDisp f).core j = s.core j := rfl
@[simp] theorem core_modSk (f : Skink → Skink) : (s.modSk f).core j = s.core j := rfl
@[simp] theorem core_modPw (f : Pewter → Pewter) : (s.modPw f).core j = s.core j := rfl
@[simp] theorem core_modNet (f : Net → Net) : (s.modNet f).core j = s.core j := rfl
@[simp] theorem core_modHost (f : HostState → HostState) : (s.modHost f).core j = s.core j := rfl

@[simp] theorem oct_setSlot (v : Slot) : (s.setSlot i v).oct j = s.oct j := rfl
@[simp] theorem oct_modSlot (f : Slot → Slot) : (s.modSlot i f).oct j = s.oct j := rfl
@[simp] theorem oct_modCore (f : CoreState → CoreState) : (s.modCore k f).oct j = s.oct j := rfl
@[simp] theorem oct_modDie (f : Stack → Stack) : (s.modDie k f).oct j = s.oct j := rfl
@[simp] theorem oct_modSched (f : Sched → Sched) : (s.modSched f).oct j = s.oct j := rfl
@[simp] theorem oct_modMm (f : Mem → Mem) : (s.modMm f).oct j = s.oct j := rfl
@[simp] theorem oct_modDisp (f : Disp → Disp) : (s.modDisp f).oct j = s.oct j := rfl
@[simp] theorem oct_modSk (f : Skink → Skink) : (s.modSk f).oct j = s.oct j := rfl
@[simp] theorem oct_modPw (f : Pewter → Pewter) : (s.modPw f).oct j = s.oct j := rfl
@[simp] theorem oct_modNet (f : Net → Net) : (s.modNet f).oct j = s.oct j := rfl
@[simp] theorem oct_modHost (f : HostState → HostState) : (s.modHost f).oct j = s.oct j := rfl

@[simp] theorem die_setSlot (v : Slot) : (s.setSlot i v).die j = s.die j := rfl
@[simp] theorem die_modSlot (f : Slot → Slot) : (s.modSlot i f).die j = s.die j := rfl
@[simp] theorem die_modCore (f : CoreState → CoreState) : (s.modCore k f).die j = s.die j := rfl
@[simp] theorem die_modOct (f : Octet → Octet) : (s.modOct k f).die j = s.die j := rfl
@[simp] theorem die_modSched (f : Sched → Sched) : (s.modSched f).die j = s.die j := rfl
@[simp] theorem die_modMm (f : Mem → Mem) : (s.modMm f).die j = s.die j := rfl
@[simp] theorem die_modDisp (f : Disp → Disp) : (s.modDisp f).die j = s.die j := rfl
@[simp] theorem die_modSk (f : Skink → Skink) : (s.modSk f).die j = s.die j := rfl
@[simp] theorem die_modPw (f : Pewter → Pewter) : (s.modPw f).die j = s.die j := rfl
@[simp] theorem die_modNet (f : Net → Net) : (s.modNet f).die j = s.die j := rfl
@[simp] theorem die_modHost (f : HostState → HostState) : (s.modHost f).die j = s.die j := rfl

@[simp] theorem part_setSlot (v : Slot) : (s.setSlot i v).part? j = s.part? j := rfl
@[simp] theorem part_modSlot (f : Slot → Slot) : (s.modSlot i f).part? j = s.part? j := rfl
@[simp] theorem part_modCore (f : CoreState → CoreState) : (s.modCore k f).part? j = s.part? j := rfl
@[simp] theorem part_modOct (f : Octet → Octet) : (s.modOct k f).part? j = s.part? j := rfl
@[simp] theorem part_modDie (f : Stack → Stack) : (s.modDie k f).part? j = s.part? j := rfl
@[simp] theorem part_modSched (f : Sched → Sched) : (s.modSched f).part? j = s.part? j := rfl
@[simp] theorem part_modMm (f : Mem → Mem) : (s.modMm f).part? j = s.part? j := rfl
@[simp] theorem part_modDisp (f : Disp → Disp) : (s.modDisp f).part? j = s.part? j := rfl
@[simp] theorem part_modSk (f : Skink → Skink) : (s.modSk f).part? j = s.part? j := rfl
@[simp] theorem part_modPw (f : Pewter → Pewter) : (s.modPw f).part? j = s.part? j := rfl
@[simp] theorem part_modNet (f : Net → Net) : (s.modNet f).part? j = s.part? j := rfl
@[simp] theorem part_modHost (f : HostState → HostState) : (s.modHost f).part? j = s.part? j := rfl

end Sys2Proof.Machine
end

