-- ==== Sys2Proof/Laws/Memory.lean ====
section
/-!
SUPPORT. Memory: what a read gives after a write, and that every operation on memory keeps the canonical form.
-/

namespace Sys2Proof.Machine

/-! Reading after writing. -/

theorem byte_filter (m : Memory) (p : Nat → Bool) (x : Nat) :
    Memory.byte (m.filter fun c => p c.1) x = if p x then m.byte x else 0 := by
  induction m with
  | nil => simp [Memory.byte]
  | cons e t ih =>
    obtain ⟨b, w⟩ := e
    by_cases hb : p b = true
    · rw [List.filter_cons_of_pos (by exact hb)]
      by_cases hx : b = x
      · subst hx; simp [Memory.byte, hb]
      · simp only [Memory.byte, hx, if_false, ih]
    · rw [List.filter_cons_of_neg (by exact hb), ih]
      by_cases hx : b = x
      · subst hx; simp [hb]
      · simp [Memory.byte, hx]

theorem byte_putByte (m : Memory) (a x : Nat) (v : Byte) : (m.putByte a v).byte x = if x = a then v else m.byte x := by
  induction m with
  | nil => simp [Memory.putByte, Memory.byte, eq_comm]
  | cons e t ih =>
    obtain ⟨b, w⟩ := e
    unfold Memory.putByte
    split
    · simp [Memory.byte, eq_comm]
    · split
      · rename_i h; subst h
        by_cases hx : x = a
        · simp [Memory.byte, hx]
        · simp [Memory.byte, hx, Ne.symm hx]
      · rename_i h1 h2
        by_cases hb : b = x
        · subst hb; simp [Memory.byte, Ne.symm h2]
        · simp [Memory.byte, hb, ih]

@[simp] theorem byte_setByte (m : Memory) (a x : Nat) (v : Byte) : (m.setByte a v).byte x = if x = a then v else m.byte x := by
  unfold Memory.setByte
  split
  · rename_i h
    rw [byte_filter m (fun b => decide (b ≠ a)), h]
    by_cases hx : x = a <;> simp [hx]
  · exact byte_putByte ..

theorem byte_setBytes (m : Memory) (a x : Nat) (bs : List Byte) :
    (m.setBytes a bs).byte x = if a ≤ x ∧ x < a + bs.length then bs.getD (x - a) 0 else m.byte x := by
  induction bs generalizing m a with
  | nil => simp [Memory.setBytes]
  | cons v t ih =>
    rw [Memory.setBytes, ih, byte_setByte]
    by_cases h : x = a
    · subst h; simp
    · by_cases h2 : a + 1 ≤ x ∧ x < a + 1 + t.length
      · have h3 : a ≤ x ∧ x < a + (v :: t).length := by simp; omega
        rw [if_pos h2, if_pos h3, show x - a = (x - (a + 1)) + 1 from by omega]
        rfl
      · have h3 : ¬ (a ≤ x ∧ x < a + (v :: t).length) := by simp; omega
        rw [if_neg h2, if_neg h3, if_neg h]

theorem byte_clear (m : Memory) (lo hi x : Nat) : (m.clear lo hi).byte x = if lo ≤ x ∧ x < hi then 0 else m.byte x := by
  unfold Memory.clear
  rw [byte_filter m (fun b => decide (b < lo) || decide (hi ≤ b))]
  by_cases h : lo ≤ x ∧ x < hi
  · rw [if_pos h, if_neg (by simp; omega)]
  · rw [if_neg h, if_pos (by simp; omega)]

theorem byte_append (m n : Memory) (x : Nat) : Memory.byte (m ++ n) x = if ∃ c ∈ m, c.1 = x then Memory.byte m x else Memory.byte n x := by
  induction m with
  | nil => simp
  | cons e t ih =>
    obtain ⟨b, w⟩ := e
    by_cases h : b = x
    · subst h
      rw [if_pos ⟨(b, w), List.mem_cons_self .., rfl⟩]
      simp [Memory.byte]
    · rw [List.cons_append, Memory.byte, if_neg h, ih, Memory.byte, if_neg h]
      congr 1
      simp [h]

theorem byte_not_listed (m : Memory) (x : Nat) (h : ¬ ∃ c ∈ m, c.1 = x) : Memory.byte m x = 0 := by
  induction m with
  | nil => rfl
  | cons e t ih =>
    obtain ⟨b, w⟩ := e
    have hb : b ≠ x := fun hb => h ⟨(b, w), List.mem_cons_self .., hb⟩
    rw [Memory.byte, if_neg hb]
    exact ih fun ⟨c, hc, hx⟩ => h ⟨c, List.mem_cons_of_mem _ hc, hx⟩

theorem byte_listed (m : Memory) (hm : ∀ c ∈ m, ∀ e ∈ m, c.1 = e.1 → c.2 = e.2) (c : Nat × Byte) (h : c ∈ m) : Memory.byte m c.1 = c.2 := by
  induction m with
  | nil => cases h
  | cons e t ih =>
    obtain ⟨b, w⟩ := e
    by_cases hb : b = c.1
    · rw [Memory.byte, if_pos hb]
      exact hm (b, w) (List.mem_cons_self ..) c h hb
    · rw [Memory.byte, if_neg hb]
      rcases List.mem_cons.1 h with rfl | h
      · exact absurd rfl hb
      · exact ih (fun x hx y hy => hm x (List.mem_cons_of_mem _ hx) y (List.mem_cons_of_mem _ hy)) h

theorem byte_fill (m : Memory) (a n x : Nat) (f : Nat → Byte) :
    (m.fill a n f).byte x = if a ≤ x ∧ x < a + n then f (x - a) else m.byte x := by
  have hf (c : Nat × Byte) : (c ∈ (List.range n).filterMap fun j => if f j = 0 then none else some (a + j, f j)) ↔
      ∃ j, j < n ∧ f j ≠ 0 ∧ c = (a + j, f j) := by
    simp only [List.mem_filterMap, List.mem_range]
    constructor
    · rintro ⟨j, hj, h⟩
      split at h
      · cases h
      · exact ⟨j, hj, ‹_›, (Option.some.inj h).symm⟩
    · rintro ⟨j, hj, h0, rfl⟩
      exact ⟨j, hj, by rw [if_neg h0]⟩
  have low : Memory.byte (m.filter fun c => decide (c.1 < a)) x = if x < a then m.byte x else 0 := by
    rw [byte_filter m fun b => decide (b < a)]
    simp
  have high : Memory.byte (m.filter fun c => decide (a + n ≤ c.1)) x = if a + n ≤ x then m.byte x else 0 := by
    rw [byte_filter m fun b => decide (a + n ≤ b)]
    simp
  unfold Memory.fill
  rw [List.append_assoc, byte_append, byte_append]
  by_cases h1 : x < a
  · have hx : ¬ (a ≤ x ∧ x < a + n) := by omega
    have hn : ¬ ∃ c ∈ (List.range n).filterMap (fun j => if f j = 0 then none else some (a + j, f j)), c.1 = x := by
      rintro ⟨c, hc, rfl⟩
      obtain ⟨j, _, _, rfl⟩ := (hf c).1 hc
      omega
    rw [if_neg hx, if_neg hn, low, high, if_pos h1, if_neg (by omega : ¬ a + n ≤ x)]
    split
    · rfl
    · rename_i hl
      refine (byte_not_listed m x fun ⟨c, hc, hcx⟩ => hl ⟨c, List.mem_filter.2 ⟨hc, ?_⟩, hcx⟩).symm
      simp only [decide_eq_true_eq]
      omega
  · have hl : ¬ ∃ c ∈ m.filter (fun c => decide (c.1 < a)), c.1 = x := by
      rintro ⟨c, hc, rfl⟩
      have := (List.mem_filter.1 hc).2
      simp only [decide_eq_true_eq] at this
      omega
    rw [if_neg hl]
    by_cases h2 : x < a + n
    · rw [if_pos (by omega : a ≤ x ∧ x < a + n), high, if_neg (by omega : ¬ a + n ≤ x)]
      split
      · rename_i hm
        obtain ⟨c, hc, rfl⟩ := hm
        rw [byte_listed _ ?_ c hc]
        · obtain ⟨j, _, _, rfl⟩ := (hf c).1 hc
          simp
        · intro c hc e he h
          obtain ⟨j, _, _, rfl⟩ := (hf c).1 hc
          obtain ⟨i, _, _, rfl⟩ := (hf e).1 he
          simp only at h
          rw [show j = i by omega]
      · rename_i hm
        by_cases h0 : f (x - a) = 0
        · exact h0.symm
        · exact absurd ⟨(a + (x - a), f (x - a)), (hf _).2 ⟨x - a, by omega, h0, rfl⟩, by simp only; omega⟩ hm
    · rw [if_neg (by omega : ¬ (a ≤ x ∧ x < a + n)), high, if_pos (by omega : a + n ≤ x)]
      split
      · rename_i hm
        obtain ⟨c, hc, rfl⟩ := hm
        obtain ⟨j, _, _, rfl⟩ := (hf c).1 hc
        simp only at h2
        omega
      · rfl

/-! The canonical form. -/

/-- Every listed byte of `m` lies above `a`, and `m` is canonical. -/
theorem wf_cons (a : Nat) (v : Byte) (m : Memory) :
    Memory.wf ((a, v) :: m) = true ↔ v ≠ 0 ∧ (∀ c ∈ m, a < c.1) ∧ Memory.wf m = true := by
  induction m generalizing a v with
  | nil => simp [Memory.wf]
  | cons e t ih =>
    obtain ⟨b, w⟩ := e
    rw [Memory.wf]
    simp only [Bool.and_eq_true, decide_eq_true_eq, bne_iff_ne, ne_eq, List.mem_cons, forall_eq_or_imp]
    constructor
    · rintro ⟨⟨h1, h2⟩, h3⟩
      exact ⟨h1, ⟨h2, fun c hc => Nat.lt_trans h2 (((ih b w).1 h3).2.1 c hc)⟩, h3⟩
    · rintro ⟨h1, ⟨h2, _⟩, h3⟩
      exact ⟨⟨h1, h2⟩, h3⟩

theorem wf_filter (m : Memory) (p : Nat × Byte → Bool) (h : m.wf = true) : Memory.wf (m.filter p) = true := by
  induction m with
  | nil => simpa using h
  | cons e t ih =>
    obtain ⟨b, w⟩ := e
    obtain ⟨h1, h2, h3⟩ := (wf_cons b w t).1 h
    rw [List.filter_cons]
    split
    · exact (wf_cons _ _ _).2 ⟨h1, fun c hc => h2 c (List.mem_filter.1 hc).1, ih h3⟩
    · exact ih h3

theorem mem_putByte (m : Memory) (a : Nat) (v : Byte) (c : Nat × Byte) (h : c ∈ m.putByte a v) : c = (a, v) ∨ c ∈ m := by
  induction m with
  | nil => simpa [Memory.putByte] using h
  | cons e t ih =>
    obtain ⟨b, w⟩ := e
    unfold Memory.putByte at h
    split at h
    · simpa using h
    · split at h
      · rcases List.mem_cons.1 h with h | h
        · exact .inl h
        · exact .inr (List.mem_cons_of_mem _ h)
      · rcases List.mem_cons.1 h with h | h
        · exact .inr (h ▸ List.mem_cons_self ..)
        · exact (ih h).imp id (List.mem_cons_of_mem _)

theorem wf_putByte (m : Memory) (a : Nat) (v : Byte) (hv : v ≠ 0) (h : m.wf = true) : (m.putByte a v).wf = true := by
  induction m with
  | nil => simpa [Memory.putByte, Memory.wf] using hv
  | cons e t ih =>
    obtain ⟨b, w⟩ := e
    obtain ⟨h1, h2, h3⟩ := (wf_cons b w t).1 h
    unfold Memory.putByte
    split
    · rename_i hab
      refine (wf_cons _ _ _).2 ⟨hv, ?_, h⟩
      rintro c hc
      rcases List.mem_cons.1 hc with rfl | hc
      · exact hab
      · exact Nat.lt_trans hab (h2 c hc)
    · split
      · rename_i hab
        exact (wf_cons _ _ _).2 ⟨hv, fun c hc => hab ▸ h2 c hc, h3⟩
      · refine (wf_cons _ _ _).2 ⟨h1, fun c hc => ?_, ih h3⟩
        rcases mem_putByte _ _ _ _ hc with rfl | hc
        · show b < a; omega
        · exact h2 c hc

theorem wf_setByte (m : Memory) (a : Nat) (v : Byte) (h : m.wf = true) : (m.setByte a v).wf = true := by
  unfold Memory.setByte
  split
  · exact wf_filter _ _ h
  · exact wf_putByte _ _ _ ‹_› h

theorem wf_setBytes (m : Memory) (a : Nat) (bs : List Byte) (h : m.wf = true) : (m.setBytes a bs).wf = true := by
  induction bs generalizing m a with
  | nil => exact h
  | cons v t ih => exact ih _ _ (wf_setByte _ _ _ h)

theorem wf_append (m n : Memory) (hm : m.wf = true) (hn : n.wf = true) (h : ∀ c ∈ m, ∀ e ∈ n, c.1 < e.1) : Memory.wf (m ++ n) = true := by
  induction m with
  | nil => exact hn
  | cons e t ih =>
    obtain ⟨b, w⟩ := e
    obtain ⟨h1, h2, h3⟩ := (wf_cons b w t).1 hm
    refine (wf_cons _ _ _).2 ⟨h1, fun c hc => ?_, ih h3 fun c hc => h c (List.mem_cons_of_mem _ hc)⟩
    rcases List.mem_append.1 hc with hc | hc
    · exact h2 c hc
    · exact h (b, w) (List.mem_cons_self ..) c hc

theorem wf_run (a n : Nat) (f : Nat → Byte) :
    Memory.wf ((List.range n).filterMap fun j => if f j = 0 then none else some (a + j, f j)) = true ∧
      ∀ c ∈ (List.range n).filterMap (fun j => if f j = 0 then none else some (a + j, f j)), a ≤ c.1 ∧ c.1 < a + n := by
  induction n with
  | zero => exact ⟨rfl, fun c h => by cases h⟩
  | succ n ih =>
    rw [List.range_succ, List.filterMap_append]
    by_cases h0 : f n = 0
    · rw [show List.filterMap (fun j => if f j = 0 then none else some (a + j, f j)) [n] = [] by rw [List.filterMap_cons, if_pos h0]; rfl,
        List.append_nil]
      exact ⟨ih.1, fun c hc => ⟨(ih.2 c hc).1, by have := (ih.2 c hc).2; omega⟩⟩
    · rw [show List.filterMap (fun j => if f j = 0 then none else some (a + j, f j)) [n] = [(a + n, f n)] by
        rw [List.filterMap_cons, if_neg h0]; rfl]
      refine ⟨wf_append _ _ ih.1 (by simpa [Memory.wf] using h0) fun c hc e he => ?_, fun c hc => ?_⟩
      · rw [List.mem_singleton.1 he]
        exact (ih.2 c hc).2
      · rcases List.mem_append.1 hc with hc | hc
        · exact ⟨(ih.2 c hc).1, by have := (ih.2 c hc).2; omega⟩
        · rw [List.mem_singleton.1 hc]
          exact ⟨by simp only; omega, by simp only; omega⟩

theorem wf_fill (m : Memory) (a n : Nat) (f : Nat → Byte) (h : m.wf = true) : (m.fill a n f).wf = true := by
  unfold Memory.fill
  refine wf_append _ _ (wf_append _ _ (wf_filter _ _ h) (wf_run a n f).1 fun c hc e he => ?_) (wf_filter _ _ h) fun c hc e he => ?_
  · have h1 := (List.mem_filter.1 hc).2
    have h2 := (wf_run a n f).2 e he
    simp only [decide_eq_true_eq] at h1
    omega
  · have h2 := (List.mem_filter.1 he).2
    simp only [decide_eq_true_eq] at h2
    rcases List.mem_append.1 hc with hc | hc
    · have h1 := (List.mem_filter.1 hc).2
      simp only [decide_eq_true_eq] at h1
      omega
    · have := ((wf_run a n f).2 c hc).2
      omega

theorem wf_clear (m : Memory) (lo hi : Nat) (h : m.wf = true) : (m.clear lo hi).wf = true := wf_filter _ _ h

theorem reset_memory_wf : State.reset.mm.bytes.wf = true := rfl

end Sys2Proof.Machine
end

