-- ==== Sys2Proof/Laws/PerInstr.lean ====
section
/-!
SUPPORT. A law of every instruction as syntax: the words that the encoder writes have the opcode's tail length and nothing beyond it.
-/

namespace Sys2Proof

/-- R51, R52, R57: a happening has no words; the words of an instruction have the tail length of their opcode, and no bit in a tail
that this length does not give. -/
def Laws.EncodedShape.Statement (i : Instr) : Prop :=
  (encode i).isSome = hasEncoding i ∧ ∀ e, encode i = some e → tailLength e.fOp = some e.fTl ∧ (e.fTl.toNat < 1 → e.t1 = 0) ∧
    (e.fTl.toNat < 2 → e.t2 = 0) ∧ (e.fTl.toNat < 3 → e.t3 = 0)

variable {i : Instr} {op : BitVec 8} {d : BitVec 6} {t1 t2 t3 : BitVec 16}

theorem no_words (h : encode i = none) (hi : hasEncoding i = false) : Laws.EncodedShape.Statement i :=
  ⟨by rw [h, hi]; rfl, fun e he => by rw [h] at he; cases he⟩

theorem words0 (h : encode i = some (enc0 0#2 op d)) (hi : hasEncoding i = true) (ht : tailLength op = some 0#2) :
    Laws.EncodedShape.Statement i := by
  refine ⟨by rw [h, hi]; rfl, fun e he => ?_⟩
  rw [h] at he
  cases he
  simp only [fOp_enc0, fTl_enc0, ht, true_and]
  exact ⟨fun _ => rfl, fun _ => rfl, fun _ => rfl⟩

theorem words1 (h : encode i = some (enc1 1#2 op d t1)) (hi : hasEncoding i = true) (ht : tailLength op = some 1#2) :
    Laws.EncodedShape.Statement i := by
  refine ⟨by rw [h, hi]; rfl, fun e he => ?_⟩
  rw [h] at he
  cases he
  simp only [fOp_enc1, fTl_enc1, ht, true_and]
  exact ⟨fun h => absurd h (by decide), fun _ => rfl, fun _ => rfl⟩

theorem words2 (h : encode i = some (enc2 2#2 op d t1 t2)) (hi : hasEncoding i = true) (ht : tailLength op = some 2#2) :
    Laws.EncodedShape.Statement i := by
  refine ⟨by rw [h, hi]; rfl, fun e he => ?_⟩
  rw [h] at he
  cases he
  simp only [fOp_enc2, fTl_enc2, ht, true_and]
  exact ⟨fun h => absurd h (by decide), fun h => absurd h (by decide), fun _ => rfl⟩

theorem words3 (h : encode i = some (enc3 3#2 op d t1 t2 t3)) (hi : hasEncoding i = true) (ht : tailLength op = some 3#2) :
    Laws.EncodedShape.Statement i := by
  refine ⟨by rw [h, hi]; rfl, fun e he => ?_⟩
  rw [h] at he
  cases he
  simp only [fOp_enc3, fTl_enc3, ht, true_and]
  exact ⟨fun h => absurd h (by decide), fun h => absurd h (by decide), fun h => absurd h (by decide)⟩

namespace Laws.EncodedShape

theorem nop : Statement .nop := words0 rfl rfl rfl
theorem b (off : BitVec 11) (hd : BitVec 5) : Statement (.b off hd) := words1 rfl rfl rfl
theorem bl (d : Reg) (off : BitVec 11) (hd : BitVec 5) : Statement (.bl d off hd) := words1 rfl rfl rfl
theorem bc (a : Reg) (b : Reg) (off : BitVec 11) (hd : BitVec 5) (c : Cond) : Statement (.bc a b off hd c) := words2 rfl rfl rfl
theorem bcz (a : Reg) (off : BitVec 11) (hd : BitVec 5) (c : Cond) : Statement (.bcz a off hd c) := words2 rfl rfl rfl
theorem jx (a : Reg) : Statement (.jx a) := words1 rfl rfl rfl
theorem jlx (d : Reg) (a : Reg) : Statement (.jlx d a) := words1 rfl rfl rfl
theorem loop (a : Reg) (off : BitVec 11) (hd : BitVec 5) : Statement (.loop a off hd) := words2 rfl rfl rfl
theorem halt : Statement .halt := words0 rfl rfl rfl
theorem trap (imm : BitVec 10) : Statement (.trap imm) := words1 rfl rfl rfl
theorem eret : Statement .eret := words0 rfl rfl rfl
theorem park : Statement .park := words0 rfl rfl rfl
theorem wake (d : Reg) (a : Reg) : Statement (.wake d a) := words1 rfl rfl rfl
theorem issueset (d : Reg) (a : Reg) (w : BitVec 2) : Statement (.issueset d a w) := words1 rfl rfl rfl
theorem issueget (d : Reg) (pend : Bool) (w : BitVec 2) : Statement (.issueget d pend w) := words1 rfl rfl rfl
theorem add (d : Reg) (a : Reg) (b : Reg) : Statement (.add d a b) := words1 rfl rfl rfl
theorem sub (d : Reg) (a : Reg) (b : Reg) : Statement (.sub d a b) := words1 rfl rfl rfl
theorem mul (d : Reg) (a : Reg) (b : Reg) : Statement (.mul d a b) := words1 rfl rfl rfl
theorem mulh (d : Reg) (a : Reg) (b : Reg) : Statement (.mulh d a b) := words1 rfl rfl rfl
theorem mulhn (d : Reg) (a : Reg) (b : Reg) : Statement (.mulhn d a b) := words1 rfl rfl rfl
theorem div (d : Reg) (a : Reg) (b : Reg) : Statement (.div d a b) := words1 rfl rfl rfl
theorem divn (d : Reg) (a : Reg) (b : Reg) : Statement (.divn d a b) := words1 rfl rfl rfl
theorem rem (d : Reg) (a : Reg) (b : Reg) : Statement (.rem d a b) := words1 rfl rfl rfl
theorem remn (d : Reg) (a : Reg) (b : Reg) : Statement (.remn d a b) := words1 rfl rfl rfl
theorem and (d : Reg) (a : Reg) (b : Reg) : Statement (.and d a b) := words1 rfl rfl rfl
theorem or (d : Reg) (a : Reg) (b : Reg) : Statement (.or d a b) := words1 rfl rfl rfl
theorem xor (d : Reg) (a : Reg) (b : Reg) : Statement (.xor d a b) := words1 rfl rfl rfl
theorem andn (d : Reg) (a : Reg) (b : Reg) : Statement (.andn d a b) := words1 rfl rfl rfl
theorem shl (d : Reg) (a : Reg) (b : Reg) : Statement (.shl d a b) := words1 rfl rfl rfl
theorem shra (d : Reg) (a : Reg) (b : Reg) : Statement (.shra d a b) := words1 rfl rfl rfl
theorem shrl (d : Reg) (a : Reg) (b : Reg) : Statement (.shrl d a b) := words1 rfl rfl rfl
theorem rotl (d : Reg) (a : Reg) (b : Reg) : Statement (.rotl d a b) := words1 rfl rfl rfl
theorem min (d : Reg) (a : Reg) (b : Reg) : Statement (.min d a b) := words1 rfl rfl rfl
theorem max (d : Reg) (a : Reg) (b : Reg) : Statement (.max d a b) := words1 rfl rfl rfl
theorem minn (d : Reg) (a : Reg) (b : Reg) : Statement (.minn d a b) := words1 rfl rfl rfl
theorem maxn (d : Reg) (a : Reg) (b : Reg) : Statement (.maxn d a b) := words1 rfl rfl rfl
theorem slt (d : Reg) (a : Reg) (b : Reg) : Statement (.slt d a b) := words1 rfl rfl rfl
theorem sltn (d : Reg) (a : Reg) (b : Reg) : Statement (.sltn d a b) := words1 rfl rfl rfl
theorem seq (d : Reg) (a : Reg) (b : Reg) : Statement (.seq d a b) := words1 rfl rfl rfl
theorem addi (d : Reg) (a : Reg) (imm : BitVec 10) : Statement (.addi d a imm) := words1 rfl rfl rfl
theorem andi (d : Reg) (a : Reg) (imm : BitVec 10) : Statement (.andi d a imm) := words1 rfl rfl rfl
theorem ori (d : Reg) (a : Reg) (imm : BitVec 10) : Statement (.ori d a imm) := words1 rfl rfl rfl
theorem xori (d : Reg) (a : Reg) (imm : BitVec 10) : Statement (.xori d a imm) := words1 rfl rfl rfl
theorem shli (d : Reg) (a : Reg) (sh : BitVec 6) : Statement (.shli d a sh) := words1 rfl rfl rfl
theorem shrai (d : Reg) (a : Reg) (sh : BitVec 6) : Statement (.shrai d a sh) := words1 rfl rfl rfl
theorem shrli (d : Reg) (a : Reg) (sh : BitVec 6) : Statement (.shrli d a sh) := words1 rfl rfl rfl
theorem slti (d : Reg) (a : Reg) (imm : BitVec 10) : Statement (.slti d a imm) := words1 rfl rfl rfl
theorem li (d : Reg) (imm : BitVec 26) : Statement (.li d imm) := words2 rfl rfl rfl
theorem lih (d : Reg) (a : Reg) (imm : BitVec 26) : Statement (.lih d a imm) := words2 rfl rfl rfl
theorem addpc (d : Reg) (off : BitVec 11) (hd : BitVec 5) : Statement (.addpc d off hd) := words1 rfl rfl rfl
theorem clz (d : Reg) (a : Reg) : Statement (.clz d a) := words1 rfl rfl rfl
theorem ctz (d : Reg) (a : Reg) : Statement (.ctz d a) := words1 rfl rfl rfl
theorem popc (d : Reg) (a : Reg) : Statement (.popc d a) := words1 rfl rfl rfl
theorem sel (d : Reg) (a : Reg) (b : Reg) (c : Reg) : Statement (.sel d a b c) := words2 rfl rfl rfl
theorem bfx (d : Reg) (a : Reg) (wm1 : BitVec 6) (lo : BitVec 6) (sx : Bool) : Statement (.bfx d a wm1 lo sx) := words2 rfl rfl rfl
theorem bfi (d : Reg) (a : Reg) (b : Reg) (wm1 : BitVec 6) (lo : BitVec 6) : Statement (.bfi d a b wm1 lo) := words2 rfl rfl rfl
theorem exts (d : Reg) (a : Reg) (sz : Size) : Statement (.exts d a sz) := words1 rfl rfl rfl
theorem extz (d : Reg) (a : Reg) (sz : Size) : Statement (.extz d a sz) := words1 rfl rfl rfl
theorem getc (d : Reg) (n : BitVec 10) : Statement (.getc d n) := words1 rfl rfl rfl
theorem setc (d : Reg) (a : Reg) (n : BitVec 10) : Statement (.setc d a n) := words1 rfl rfl rfl
theorem mlog (md : BitVec 3) (ma : BitVec 3) (mb : BitVec 3) (op : LogOp) : Statement (.mlog md ma mb op) := words1 rfl rfl rfl
theorem mget (md : BitVec 3) (a : Reg) : Statement (.mget md a) := words1 rfl rfl rfl
theorem mset (md : BitVec 3) (a : Reg) : Statement (.mset md a) := words1 rfl rfl rfl
theorem fcvt (d : Reg) (a : Reg) (b : Reg) : Statement (.fcvt d a b) := words1 rfl rfl rfl
theorem fcvti (d : Reg) (a : Reg) (b : Reg) (n : Bool) : Statement (.fcvti d a b n) := words1 rfl rfl rfl
theorem icvtf (d : Reg) (a : Reg) (b : Reg) (n : Bool) : Statement (.icvtf d a b n) := words1 rfl rfl rfl
theorem fclass (d : Reg) (a : Reg) (b : Reg) : Statement (.fclass d a b) := words1 rfl rfl rfl
theorem dtload (d : Reg) (a : Reg) (t : BitVec 1) : Statement (.dtload d a t) := words1 rfl rfl rfl
theorem dtread (d : Reg) (a : Reg) (t : BitVec 1) : Statement (.dtread d a t) := words1 rfl rfl rfl
theorem vadd (w : Width) (vd : BitVec 4) (va : BitVec 4) (vb : BitVec 4) (mk : Option (BitVec 3)) (t : VType) : Statement (.vadd w vd va vb mk t) := words1 rfl rfl rfl
theorem vsub (w : Width) (vd : BitVec 4) (va : BitVec 4) (vb : BitVec 4) (mk : Option (BitVec 3)) (t : VType) : Statement (.vsub w vd va vb mk t) := words1 rfl rfl rfl
theorem vmul (w : Width) (vd : BitVec 4) (va : BitVec 4) (vb : BitVec 4) (mk : Option (BitVec 3)) (t : VType) : Statement (.vmul w vd va vb mk t) := words1 rfl rfl rfl
theorem vfma (w : Width) (vd : BitVec 4) (va : BitVec 4) (vb : BitVec 4) (vc : BitVec 4) (mk : Option (BitVec 3)) (t : VType) : Statement (.vfma w vd va vb vc mk t) := words2 rfl rfl rfl
theorem vmin (w : Width) (vd : BitVec 4) (va : BitVec 4) (vb : BitVec 4) (mk : Option (BitVec 3)) (t : VType) : Statement (.vmin w vd va vb mk t) := words1 rfl rfl rfl
theorem vmax (w : Width) (vd : BitVec 4) (va : BitVec 4) (vb : BitVec 4) (mk : Option (BitVec 3)) (t : VType) : Statement (.vmax w vd va vb mk t) := words1 rfl rfl rfl
theorem vabs (w : Width) (vd : BitVec 4) (va : BitVec 4) (mk : Option (BitVec 3)) (t : VType) : Statement (.vabs w vd va mk t) := words1 rfl rfl rfl
theorem vcmp (w : Width) (vd : BitVec 4) (va : BitVec 4) (vb : BitVec 4) (mk : Option (BitVec 3)) (c : CmpCond) (k : CmpKind) : Statement (.vcmp w vd va vb mk c k) := words1 rfl rfl rfl
theorem vsel (w : Width) (vd : BitVec 4) (va : BitVec 4) (vb : BitVec 4) (mk : Option (BitVec 3)) : Statement (.vsel w vd va vb mk) := words1 rfl rfl rfl
theorem vand (w : Width) (vd : BitVec 4) (va : BitVec 4) (vb : BitVec 4) (mk : Option (BitVec 3)) : Statement (.vand w vd va vb mk) := words1 rfl rfl rfl
theorem vor (w : Width) (vd : BitVec 4) (va : BitVec 4) (vb : BitVec 4) (mk : Option (BitVec 3)) : Statement (.vor w vd va vb mk) := words1 rfl rfl rfl
theorem vxor (w : Width) (vd : BitVec 4) (va : BitVec 4) (vb : BitVec 4) (mk : Option (BitVec 3)) : Statement (.vxor w vd va vb mk) := words1 rfl rfl rfl
theorem vshl (w : Width) (vd : BitVec 4) (va : BitVec 4) (vb : BitVec 4) (mk : Option (BitVec 3)) : Statement (.vshl w vd va vb mk) := words1 rfl rfl rfl
theorem vshr (w : Width) (vd : BitVec 4) (va : BitVec 4) (vb : BitVec 4) (mk : Option (BitVec 3)) (ar : Bool) : Statement (.vshr w vd va vb mk ar) := words1 rfl rfl rfl
theorem vbcast (w : Width) (vd : BitVec 4) (xa : BitVec 4) (mk : Option (BitVec 3)) : Statement (.vbcast w vd xa mk) := words1 rfl rfl rfl
theorem vins (w : Width) (vd : BitVec 4) (xa : BitVec 4) (nl : BitVec 4) (mk : Option (BitVec 3)) (nh : BitVec 1) : Statement (.vins w vd xa nl mk nh) := words1 rfl rfl rfl
theorem vmovx (d : Reg) (va : BitVec 4) (nl : BitVec 4) (nh : BitVec 1) (sx : Bool) (szx : BitVec 2) : Statement (.vmovx d va nl nh sx szx) := words1 rfl rfl rfl
theorem vidx (w : Width) (vd : BitVec 4) (mk : Option (BitVec 3)) : Statement (.vidx w vd mk) := words1 rfl rfl rfl
theorem vperm (w : Width) (vd : BitVec 4) (va : BitVec 4) (vb : BitVec 4) (mk : Option (BitVec 3)) : Statement (.vperm w vd va vb mk) := words1 rfl rfl rfl
theorem vred (w : Width) (vd : BitVec 4) (va : BitVec 4) (op : RedOp) (mk : Option (BitVec 3)) (t : VType) : Statement (.vred w vd va op mk t) := words1 rfl rfl rfl
theorem vdec (vd : BitVec 4) (va : BitVec 4) (xb : BitVec 4) : Statement (.vdec vd va xb) := words1 rfl rfl rfl
theorem venc (vd : BitVec 4) (va : BitVec 4) (xb : BitVec 4) : Statement (.venc vd va xb) := words1 rfl rfl rfl
theorem vcvt (vd : BitVec 4) (va : BitVec 4) (xb : BitVec 4) : Statement (.vcvt vd va xb) := words1 rfl rfl rfl
theorem sfn (w : Width) (vd : BitVec 4) (va : BitVec 4) (fn : SfnOp) (mk : Option (BitVec 3)) (t : VType) : Statement (.sfn w vd va fn mk t) := words1 rfl rfl rfl
theorem vmode (d : Reg) (m : Bool) : Statement (.vmode d m) := words1 rfl rfl rfl
theorem vfence : Statement .vfence := words0 rfl rfl rfl
theorem vstat (d : Reg) : Statement (.vstat d) := words1 rfl rfl rfl
theorem ld (d : Reg) (a : Reg) (imm : BitVec 16) (sz : Size) (h : Hint) : Statement (.ld d a imm sz h) := words2 rfl rfl rfl
theorem lds (d : Reg) (a : Reg) (imm : BitVec 16) (sz : Size) (h : Hint) : Statement (.lds d a imm sz h) := words2 rfl rfl rfl
theorem st (a : Reg) (b : Reg) (imm : BitVec 16) (sz : Size) (h : Hint) : Statement (.st a b imm sz h) := words2 rfl rfl rfl
theorem stn (a : Reg) (b : Reg) (imm : BitVec 16) (hi : Bool) (h : Hint) : Statement (.stn a b imm hi h) := words2 rfl rfl rfl
theorem ldx (d : Reg) (a : Reg) (b : Reg) (imm : BitVec 16) (sz : Size) (h : Hint) : Statement (.ldx d a b imm sz h) := words2 rfl rfl rfl
theorem stx (a : Reg) (b : Reg) (c : Reg) (imm : BitVec 16) (sz : Size) (h : Hint) : Statement (.stx a b c imm sz h) := words3 rfl rfl rfl
theorem ldf (d : Reg) (a : Reg) (imm : BitVec 16) : Statement (.ldf d a imm) := words2 rfl rfl rfl
theorem ldfe (d : Reg) (a : Reg) (imm : BitVec 16) : Statement (.ldfe d a imm) := words2 rfl rfl rfl
theorem stf (a : Reg) (b : Reg) (imm : BitVec 16) : Statement (.stf a b imm) := words2 rfl rfl rfl
theorem feset (a : Reg) (imm : BitVec 16) (full : Bool) : Statement (.feset a imm full) := words2 rfl rfl rfl
theorem feget (d : Reg) (a : Reg) (imm : BitVec 16) : Statement (.feget d a imm) := words2 rfl rfl rfl
theorem vld (vd : BitVec 4) (a : Reg) (imm : BitVec 16) (h : Hint) : Statement (.vld vd a imm h) := words2 rfl rfl rfl
theorem vst (vd : BitVec 4) (a : Reg) (imm : BitVec 16) (h : Hint) : Statement (.vst vd a imm h) := words2 rfl rfl rfl
theorem vldx (w : Width) (vd : BitVec 4) (a : Reg) (b : Reg) (imm : BitVec 16) (h : Hint) : Statement (.vldx w vd a b imm h) := words2 rfl rfl rfl
theorem vstx (a : Reg) (b : Reg) (w : Width) (vc : BitVec 4) (imm : BitVec 16) (h : Hint) : Statement (.vstx a b w vc imm h) := words3 rfl rfl rfl
theorem bankrole (d : Reg) (a : Reg) (b : Reg) : Statement (.bankrole d a b) := words1 rfl rfl rfl
theorem stashmap (d : Reg) (a : Reg) (bank : BitVec 5) (h : Hint) : Statement (.stashmap d a bank h) := words2 rfl rfl rfl
theorem stashwb (a : Reg) : Statement (.stashwb a) := words1 rfl rfl rfl
theorem wait (l : BitVec 4) (s : BitVec 4) (c : BitVec 4) (t : BitVec 4) : Statement (.wait l s c t) := words2 rfl rfl rfl
theorem cntget (d : Reg) : Statement (.cntget d) := words1 rfl rfl rfl
theorem tmma (a : Reg) (c : Reg) (row0 : BitVec 7) (m1 : BitVec 7) (z : Bool) (l : BitVec 1) : Statement (.tmma a c row0 m1 z l) := words3 rfl rfl rfl
theorem tzero (a : Reg) : Statement (.tzero a) := words1 rfl rfl rfl
theorem tbld (a : Reg) (b : Reg) (h : Hint) (l : BitVec 1) : Statement (.tbld a b h l) := words1 rfl rfl rfl
theorem tbpass (drop : Bool) (l : BitVec 1) : Statement (.tbpass drop l) := words1 rfl rfl rfl
theorem tdrain (a : Reg) (b : Reg) (c : Reg) (imm : BitVec 16) (z : Bool) (wk : Bool) (fl : Bool) : Statement (.tdrain a b c imm z wk fl) := words3 rfl rfl rfl
theorem tfence : Statement .tfence := words0 rfl rfl rfl
theorem tstat (d : Reg) (clr : Bool) (w : BitVec 2) : Statement (.tstat d clr w) := words1 rfl rfl rfl
theorem twgt (d : Reg) (a : Reg) (b : Reg) : Statement (.twgt d a b) := words1 rfl rfl rfl
theorem cpy (q : BitVec 3) : Statement (.cpy q) := words1 rfl rfl rfl
theorem cpyt (d : Reg) (q : BitVec 3) : Statement (.cpyt d q) := words1 rfl rfl rfl
theorem mbxpop (p : BitVec 4) : Statement (.mbxpop p) := words0 rfl rfl rfl
theorem wfm : Statement .wfm := words0 rfl rfl rfl
theorem uien (d : Reg) (a : Reg) (b : Reg) : Statement (.uien d a b) := words1 rfl rfl rfl
theorem uiret : Statement .uiret := words0 rfl rfl rfl
theorem tokacc (a : Reg) (b : Reg) (imm : BitVec 16) : Statement (.tokacc a b imm) := words2 rfl rfl rfl
theorem pft (a : Reg) (imm : BitVec 16) (h : Hint) : Statement (.pft a imm h) := words2 rfl rfl rfl
theorem pinw (d : Reg) (a : Reg) : Statement (.pinw d a) := words1 rfl rfl rfl
theorem pinq (d : Reg) (a : Reg) : Statement (.pinq d a) := words1 rfl rfl rfl
theorem cwb (d : Reg) (a : Reg) (b : Reg) (all : Bool) : Statement (.cwb d a b all) := words1 rfl rfl rfl
theorem cinv (d : Reg) (a : Reg) (b : Reg) (llc : Bool) (all : Bool) : Statement (.cinv d a b llc all) := words1 rfl rfl rfl
theorem tlbinv (a : Reg) (b : Reg) (sc : InvScope) : Statement (.tlbinv a b sc) := words1 rfl rfl rfl
theorem fence (sc : Scope) (k : FKind) : Statement (.fence sc k) := words1 rfl rfl rfl
theorem ldacq (d : Reg) (a : Reg) (imm : BitVec 16) (sz : Size2) (sc : Scope) : Statement (.ldacq d a imm sz sc) := words2 rfl rfl rfl
theorem strel (a : Reg) (b : Reg) (imm : BitVec 16) (sz : Size2) (sc : Scope) : Statement (.strel a b imm sz sc) := words2 rfl rfl rfl
theorem aadd (d : Reg) (a : Reg) (b : Reg) (sz : Size2) (sc : Scope) (k : AKind) (h : Hint) : Statement (.aadd d a b sz sc k h) := words2 rfl rfl rfl
theorem aand (d : Reg) (a : Reg) (b : Reg) (sz : Size2) (sc : Scope) (k : AKind) (h : Hint) : Statement (.aand d a b sz sc k h) := words2 rfl rfl rfl
theorem aor (d : Reg) (a : Reg) (b : Reg) (sz : Size2) (sc : Scope) (k : AKind) (h : Hint) : Statement (.aor d a b sz sc k h) := words2 rfl rfl rfl
theorem axor (d : Reg) (a : Reg) (b : Reg) (sz : Size2) (sc : Scope) (k : AKind) (h : Hint) : Statement (.axor d a b sz sc k h) := words2 rfl rfl rfl
theorem amin (d : Reg) (a : Reg) (b : Reg) (sz : Size2) (sc : Scope) (k : AKind) (h : Hint) : Statement (.amin d a b sz sc k h) := words2 rfl rfl rfl
theorem amax (d : Reg) (a : Reg) (b : Reg) (sz : Size2) (sc : Scope) (k : AKind) (h : Hint) : Statement (.amax d a b sz sc k h) := words2 rfl rfl rfl
theorem aminn (d : Reg) (a : Reg) (b : Reg) (sz : Size2) (sc : Scope) (k : AKind) (h : Hint) : Statement (.aminn d a b sz sc k h) := words2 rfl rfl rfl
theorem amaxn (d : Reg) (a : Reg) (b : Reg) (sz : Size2) (sc : Scope) (k : AKind) (h : Hint) : Statement (.amaxn d a b sz sc k h) := words2 rfl rfl rfl
theorem aswp (d : Reg) (a : Reg) (b : Reg) (sz : Size2) (sc : Scope) (k : AKind) (h : Hint) : Statement (.aswp d a b sz sc k h) := words2 rfl rfl rfl
theorem acas (d : Reg) (a : Reg) (b : Reg) (c : Reg) (imm : BitVec 16) (sz : Size2) (sc : Scope) (k : AKind) (h : Hint) : Statement (.acas d a b c imm sz sc k h) := words3 rfl rfl rfl
theorem acas2 (d : Reg) (a : Reg) (b : Reg) (c : Reg) (imm : BitVec 16) (sc : Scope) (k : AKind) (h : Hint) : Statement (.acas2 d a b c imm sc k h) := words3 rfl rfl rfl
theorem enq (d : Reg) (a : Reg) (b : Reg) : Statement (.enq d a b) := words1 rfl rfl rfl
theorem qfence : Statement .qfence := words0 rfl rfl rfl
theorem launch (d : Reg) (a : Reg) : Statement (.launch d a) := words1 rfl rfl rfl
theorem bar (d : Reg) (g : BitVec 2) : Statement (.bar d g) := words1 rfl rfl rfl
theorem qstat (d : Reg) (a : Reg) : Statement (.qstat d a) := words1 rfl rfl rfl
theorem glaunch (d : Reg) (a : Reg) : Statement (.glaunch d a) := words1 rfl rfl rfl
theorem gtok (d : Reg) (a : Reg) (b : Reg) : Statement (.gtok d a b) := words1 rfl rfl rfl
theorem gexp (d : Reg) (a : Reg) (b : Reg) : Statement (.gexp d a b) := words1 rfl rfl rfl
theorem gstat (d : Reg) (a : Reg) (b : Reg) (n : Bool) : Statement (.gstat d a b n) := words1 rfl rfl rfl
theorem gcancel (d : Reg) (a : Reg) (b : Reg) : Statement (.gcancel d a b) := words1 rfl rfl rfl
theorem gretry (d : Reg) (a : Reg) (b : Reg) : Statement (.gretry d a b) := words1 rfl rfl rfl
theorem rulook (d : Reg) (a : Reg) : Statement (.rulook d a) := words1 rfl rfl rfl
theorem ruput (d : Reg) (a : Reg) : Statement (.ruput d a) := words1 rfl rfl rfl
theorem rudrop (d : Reg) (a : Reg) (m : DropMode) : Statement (.rudrop d a m) := words1 rfl rfl rfl
theorem rustat (d : Reg) (a : Reg) : Statement (.rustat d a) := words1 rfl rfl rfl
theorem agnew (d : Reg) (a : Reg) : Statement (.agnew d a) := words1 rfl rfl rfl
theorem agstat (d : Reg) (a : Reg) (b : Reg) : Statement (.agstat d a b) := words1 rfl rfl rfl
theorem evsend (d : Reg) (a : Reg) : Statement (.evsend d a) := words1 rfl rfl rfl
theorem evdone : Statement .evdone := words0 rfl rfl rfl
theorem ctxapp (d : Reg) (a : Reg) (b : Reg) : Statement (.ctxapp d a b) := words1 rfl rfl rfl
theorem ctxcut (d : Reg) (a : Reg) (b : Reg) (cm : Bool) : Statement (.ctxcut d a b cm) := words1 rfl rfl rfl
theorem irrev (d : Reg) (a : Reg) (b : Reg) : Statement (.irrev d a b) := words1 rfl rfl rfl
theorem vtwin (d : Reg) (a : Reg) : Statement (.vtwin d a) := words1 rfl rfl rfl
theorem gvtreq : Statement .gvtreq := words0 rfl rfl rfl
theorem streamset (d : Reg) (a : Reg) (p : BitVec 2) : Statement (.streamset d a p) := words1 rfl rfl rfl
theorem mark (d : Reg) (p : BitVec 2) : Statement (.mark d p) := words1 rfl rfl rfl
theorem coll (d : Reg) (a : Reg) : Statement (.coll d a) := words1 rfl rfl rfl
theorem nstat (d : Reg) (a : Reg) : Statement (.nstat d a) := words1 rfl rfl rfl
theorem gangsw (d : Reg) (a : Reg) (b : Reg) : Statement (.gangsw d a b) := words1 rfl rfl rfl
theorem dlchk : Statement .dlchk := words0 rfl rfl rfl
theorem rplog (d : Reg) (a : Reg) : Statement (.rplog d a) := words1 rfl rfl rfl
theorem faultget (d : Reg) (a : Reg) : Statement (.faultget d a) := words1 rfl rfl rfl
theorem biasf (d : Reg) (a : Reg) (host : Bool) : Statement (.biasf d a host) := words1 rfl rfl rfl
theorem hostsig (d : Reg) (a : Reg) (b : Reg) : Statement (.hostsig d a b) := words1 rfl rfl rfl
theorem lineFill (k : Nat) (sl : Nat) : Statement (.lineFill k sl) := no_words rfl rfl
theorem portPop (k : Nat) (sl : Nat) (p : BitVec 2) (d : Reg) : Statement (.portPop k sl p d) := no_words rfl rfl
theorem portPush (k : Nat) (sl : Nat) (p : BitVec 2) (v : BitVec 64) : Statement (.portPush k sl p v) := no_words rfl rfl
theorem eventPortPop (k : Nat) (sl : Nat) (d : Reg) : Statement (.eventPortPop k sl d) := no_words rfl rfl
theorem dutyWrite (k : Nat) (sl : Nat) (v : BitVec 64) : Statement (.dutyWrite k sl v) := no_words rfl rfl
theorem cpcWrite (k : Nat) (sl : Nat) (v : BitVec 64) : Statement (.cpcWrite k sl v) := no_words rfl rfl
theorem registerWrite (k : Nat) (sl : Nat) (n : BitVec 10) (v : BitVec 64) : Statement (.registerWrite k sl n v) := no_words rfl rfl
theorem loadPerformed (k : Nat) (sl : Nat) (id : Nat) : Statement (.loadPerformed k sl id) := no_words rfl rfl
theorem storePerformed (k : Nat) (sl : Nat) (id : Nat) : Statement (.storePerformed k sl id) := no_words rfl rfl
theorem tlbWalkComplete (k : Nat) (sl : Nat) : Statement (.tlbWalkComplete k sl) := no_words rfl rfl
theorem stashFill (k : Nat) (sl : Nat) : Statement (.stashFill k sl) := no_words rfl rfl
theorem ownershipGrant (k : Nat) (sl : Nat) : Statement (.ownershipGrant k sl) := no_words rfl rfl
theorem granuleCopyDone (k : Nat) (sl : Nat) : Statement (.granuleCopyDone k sl) := no_words rfl rfl
theorem feRemoteArrival (k : Nat) (sl : Nat) (id : Nat) : Statement (.feRemoteArrival k sl id) := no_words rfl rfl
theorem feTimeout (k : Nat) (sl : Nat) : Statement (.feTimeout k sl) := no_words rfl rfl
theorem latePoison (k : Nat) (sl : Nat) : Statement (.latePoison k sl) := no_words rfl rfl
theorem coproc (k : Nat) (sl : Nat) : Statement (.coproc k sl) := no_words rfl rfl
theorem uiEntry (k : Nat) (sl : Nat) : Statement (.uiEntry k sl) := no_words rfl rfl
theorem taskRetire (k : Nat) (sl : Nat) : Statement (.taskRetire k sl) := no_words rfl rfl
theorem wakeupMessage (i : Nat) : Statement (.wakeupMessage i) := no_words rfl rfl
theorem issueTableActivate (k : Nat) : Statement (.issueTableActivate k) := no_words rfl rfl
theorem vectorGrant (k : Nat) (sl : Nat) : Statement (.vectorGrant k sl) := no_words rfl rfl
theorem vectorResult (k : Nat) (sl : Nat) : Statement (.vectorResult k sl) := no_words rfl rfl
theorem lvCommandEnqueue (k : Nat) (sl : Nat) : Statement (.lvCommandEnqueue k sl) := no_words rfl rfl
theorem lvCommandStart (o : Nat) : Statement (.lvCommandStart o) := no_words rfl rfl
theorem lvCommandComplete (o : Nat) : Statement (.lvCommandComplete o) := no_words rfl rfl
theorem matrixOpStart (k : Nat) : Statement (.matrixOpStart k) := no_words rfl rfl
theorem tmmaComplete (k : Nat) : Statement (.tmmaComplete k) := no_words rfl rfl
theorem tzeroComplete (k : Nat) : Statement (.tzeroComplete k) := no_words rfl rfl
theorem tbldComplete (o : Nat) (l : BitVec 1) : Statement (.tbldComplete o l) := no_words rfl rfl
theorem tbpassMoveEnd (o : Nat) (l : BitVec 1) : Statement (.tbpassMoveEnd o l) := no_words rfl rfl
theorem tdrainComplete (k : Nat) : Statement (.tdrainComplete k) := no_words rfl rfl
theorem copyKindCopy (k : Nat) : Statement (.copyKindCopy k) := no_words rfl rfl
theorem copyKindGather (k : Nat) : Statement (.copyKindGather k) := no_words rfl rfl
theorem copyKindScatter (k : Nat) : Statement (.copyKindScatter k) := no_words rfl rfl
theorem copyKindFill (k : Nat) : Statement (.copyKindFill k) := no_words rfl rfl
theorem copyKindConvert (k : Nat) : Statement (.copyKindConvert k) := no_words rfl rfl
theorem copyKindHash (k : Nat) : Statement (.copyKindHash k) := no_words rfl rfl
theorem copyKindSelacc (k : Nat) : Statement (.copyKindSelacc k) := no_words rfl rfl
theorem copyKindSelmem (k : Nat) : Statement (.copyKindSelmem k) := no_words rfl rfl
theorem copyKindTokacc (k : Nat) : Statement (.copyKindTokacc k) := no_words rfl rfl
theorem prefetchRequest (k : Nat) : Statement (.prefetchRequest k) := no_words rfl rfl
theorem copyRequestFault (o : Nat) (i : Nat) : Statement (.copyRequestFault o i) := no_words rfl rfl
theorem copyRequestComplete (o : Nat) (i : Nat) : Statement (.copyRequestComplete o i) := no_words rfl rfl
theorem biasFlipDrainComplete (pg : Nat) : Statement (.biasFlipDrainComplete pg) := no_words rfl rfl
theorem hostAccess (acc : HostAcc) : Statement (.hostAccess acc) := no_words rfl rfl
theorem queueTailWrite (q : Nat) (t : BitVec 32) : Statement (.queueTailWrite q t) := no_words rfl rfl
theorem tailWordSeen (q : Nat) : Statement (.tailWordSeen q) := no_words rfl rfl
theorem packetRefill (q : Nat) : Statement (.packetRefill q) := no_words rfl rfl
theorem freeSlotReport (st : Nat) : Statement (.freeSlotReport st) := no_words rfl rfl
theorem dispatch : Statement .dispatch := no_words rfl rfl
theorem tokenDelivery (i : Nat) : Statement (.tokenDelivery i) := no_words rfl rfl
theorem nodeCompletion (i : Nat) : Statement (.nodeCompletion i) := no_words rfl rfl
theorem waveLevel (g : Nat) : Statement (.waveLevel g) := no_words rfl rfl
theorem rearm (g : Nat) : Statement (.rearm g) := no_words rfl rfl
theorem pewterLookupDone (g : Nat) (n : Nat) : Statement (.pewterLookupDone g n) := no_words rfl rfl
theorem pewterInsert (i : Nat) : Statement (.pewterInsert i) := no_words rfl rfl
theorem eventArrival (i : Nat) : Statement (.eventArrival i) := no_words rfl rfl
theorem antiMessageArrival (i : Nat) : Statement (.antiMessageArrival i) := no_words rfl rfl
theorem rollbackContinue (p : Nat) (ag : Nat) : Statement (.rollbackContinue p ag) := no_words rfl rfl
theorem heldMessageRelease (i : Nat) : Statement (.heldMessageRelease i) := no_words rfl rfl
theorem eventPlace (p : Nat) (ag : Nat) : Statement (.eventPlace p ag) := no_words rfl rfl
theorem eventOpen (k : Nat) (sl : Nat) : Statement (.eventOpen k sl) := no_words rfl rfl
theorem gvtTimer (p : Nat) : Statement (.gvtTimer p) := no_words rfl rfl
theorem gvtCut (p : Nat) (st : Nat) : Statement (.gvtCut p st) := no_words rfl rfl
theorem gvtReport (p : Nat) (st : Nat) : Statement (.gvtReport p st) := no_words rfl rfl
theorem gvtPass (p : Nat) : Statement (.gvtPass p) := no_words rfl rfl
theorem commit (p : Nat) (st : Nat) : Statement (.commit p st) := no_words rfl rfl
theorem ringDelivery (p : Nat) (r : Nat) : Statement (.ringDelivery p r) := no_words rfl rfl
theorem ringCidxPoll (p : Nat) (r : Nat) : Statement (.ringCidxPoll p r) := no_words rfl rfl
theorem streamFlitSend (k : Nat) (p : BitVec 2) : Statement (.streamFlitSend k p) := no_words rfl rfl
theorem streamFlitArrival (i : Nat) : Statement (.streamFlitArrival i) := no_words rfl rfl
theorem linkFlitReceive (port : Nat) (x : LinkIn) : Statement (.linkFlitReceive port x) := no_words rfl rfl
theorem collStart (i : Nat) : Statement (.collStart i) := no_words rfl rfl
theorem collChunkArrival (i : Nat) : Statement (.collChunkArrival i) := no_words rfl rfl
theorem collComplete (i : Nat) (m : Nat) : Statement (.collComplete i m) := no_words rfl rfl
theorem gangStop (p : Nat) : Statement (.gangStop p) := no_words rfl rfl
theorem gangResume (p : Nat) : Statement (.gangResume p) := no_words rfl rfl
theorem dlchkScan (p : Nat) : Statement (.dlchkScan p) := no_words rfl rfl
theorem replayReceive (k : Nat) : Statement (.replayReceive k) := no_words rfl rfl
theorem mgmtTrapResume (k : Nat) (sl : Nat) (pc : Option (BitVec 64)) : Statement (.mgmtTrapResume k sl pc) := no_words rfl rfl
theorem mgmtTrapEnd (k : Nat) (sl : Nat) : Statement (.mgmtTrapEnd k sl) := no_words rfl rfl
theorem partCreate (a : PartSpec) : Statement (.partCreate a) := no_words rfl rfl
theorem partDestroy (p : Nat) : Statement (.partDestroy p) := no_words rfl rfl
theorem queueConfig (q : Nat) (a : Option QueueSpec) : Statement (.queueConfig q a) := no_words rfl rfl
theorem ringConfig (p : Nat) (r : Nat) (a : RingSpec) : Statement (.ringConfig p r a) := no_words rfl rfl
theorem quota (t : BitVec 16) (q : Nat) (keep : Nat) : Statement (.quota t q keep) := no_words rfl rfl
theorem gang (p : Nat) (t : BitVec 64) (r : BitVec 64) (back : List Nat) : Statement (.gang p t r back) := no_words rfl rfl
theorem bias (base : Nat) (cnt : Nat) (host : Bool) (lock : Bool) : Statement (.bias base cnt host lock) := no_words rfl rfl
theorem powerOperatingPoint (op : BitVec 3) : Statement (.powerOperatingPoint op) := no_words rfl rfl
theorem clockRestart : Statement .clockRestart := no_words rfl rfl
theorem powerStackOff (st : Nat) : Statement (.powerStackOff st) := no_words rfl rfl
theorem powerStackOn (st : Nat) : Statement (.powerStackOn st) := no_words rfl rfl
theorem powerStandby : Statement .powerStandby := no_words rfl rfl
theorem powerStandbyExit : Statement .powerStandbyExit := no_words rfl rfl
theorem attest (nonce : BitVec 256) : Statement (.attest nonce) := no_words rfl rfl
theorem fwStage (addr : Nat) (len : Nat) : Statement (.fwStage addr len) := no_words rfl rfl
theorem resetModule : Statement .resetModule := no_words rfl rfl
theorem resetCold : Statement .resetCold := no_words rfl rfl
theorem window (rs : List (Nat × Nat)) (lock : Bool) : Statement (.window rs lock) := no_words rfl rfl
theorem moduleConfig (num : Nat) (routes : List (Nat × List Nat)) : Statement (.moduleConfig num routes) := no_words rfl rfl
theorem gvtDomain (p : Nat) (ms : List (Nat × Nat)) (root : Nat) : Statement (.gvtDomain p ms root) := no_words rfl rfl
theorem thermalTrip (die : Nat) : Statement (.thermalTrip die) := no_words rfl rfl
theorem flr : Statement .flr := no_words rfl rfl
theorem barrierCompletionArrival (k : Nat) (sl : Nat) : Statement (.barrierCompletionArrival k sl) := no_words rfl rfl
theorem spillWritePerformed (q : Nat) : Statement (.spillWritePerformed q) := no_words rfl rfl
theorem uncorrectableError (a : Nat) : Statement (.uncorrectableError a) := no_words rfl rfl
theorem powerLoss : Statement .powerLoss := no_words rfl rfl

end Laws.EncodedShape

end Sys2Proof
end

