-- ==== Sys2Proof/Laws/Run.lean ====
section
/-!
SUPPORT. What the shared operations of a head that runs to its end leave: popping the source ports, writing the destination, going on.
-/

namespace Sys2Proof.Machine

/-! `OnlySlot` is kept by what a head does to its own slot and core. -/

theorem OnlySlot.refl (s : State) (i : Nat) : OnlySlot s s i := ⟨rfl, fun _ _ => rfl, fun _ _ => rfl, rfl⟩

theorem OnlySlot.trans {s t u : State} {i : Nat} (h : OnlySlot s t i) (g : OnlySlot t u i) : OnlySlot s u i where
  rest := by rw [g.rest, h.rest]
  slots j hj := (g.slots j hj).trans (h.slots j hj)
  cores k hk := (g.cores k hk).trans (h.cores k hk)
  core := by rw [g.core, h.core]

theorem onlySlot_modSlot (s : State) (i : Nat) (f : Slot → Slot) : OnlySlot s (s.modSlot i f) i where
  rest := rfl
  slots j hj := slot_modSlot_other s i j f hj
  cores _ _ := rfl
  core := rfl

theorem onlySlot_modCore (s : State) (i : Nat) (f : CoreState → CoreState)
    (hf : ∀ c, f c = { c with y := (f c).y, net := { c.net with
      intake := (f c).net.intake, outlet := (f c).net.outlet, outAt := (f c).net.outAt } }) :
    OnlySlot s (s.modCore (i / 8) f) i where
  rest := rfl
  slots _ _ := rfl
  cores k hk := core_modCore_other s k (i / 8) f hk
  core := by rw [core_modCore_same]; exact hf _

theorem onlySlot_landed (s : State) (i : Nat) (f : List (Nat × Nat × Nat) → List (Nat × Nat × Nat)) :
    OnlySlot s (s.modSched fun c => { c with landed := f c.landed }) i :=
  ⟨rfl, fun _ _ => rfl, fun _ _ => rfl, rfl⟩

/-! Popping (R85). -/

/-- One port's pop. -/
def popPort (s : State) (i p : Nat) (b : Bool) : State :=
  if b then s.modCore (i / 8) fun c => { c with net := { c.net with
      intake := c.net.intake.setIfInBounds (p - 28) ((c.net.intake.getD (p - 28) []).drop 1) } }
  else s

theorem popPorts_eq (s : State) (i : Nat) (srcs : List Reg) :
    s.popPorts i srcs = popPort (popPort (popPort s i 28 ((srcs.filterMap portOf).contains 28)) i 29
      ((srcs.filterMap portOf).contains 29)) i 30 ((srcs.filterMap portOf).contains 30) := rfl

theorem onlySlot_popPort (s : State) (i p : Nat) (b : Bool) : OnlySlot s (popPort s i p b) i := by
  unfold popPort
  split
  · exact onlySlot_modCore s i _ fun _ => rfl
  · exact OnlySlot.refl s i

theorem onlySlot_popPorts (s : State) (i : Nat) (srcs : List Reg) : OnlySlot s (s.popPorts i srcs) i :=
  ((onlySlot_popPort ..).trans (onlySlot_popPort ..)).trans (onlySlot_popPort ..)

theorem popPort_keeps (s : State) (i p : Nat) (b : Bool) :
    (popPort s i p b).slots = s.slots ∧ (popPort s i p b).sched = s.sched ∧ (popPort s i p b).cur = s.cur ∧
    ((popPort s i p b).core (i / 8)).y = (s.core (i / 8)).y ∧
    ((popPort s i p b).core (i / 8)).net.outlet = (s.core (i / 8)).net.outlet ∧
    ((popPort s i p b).core (i / 8)).net.outAt = (s.core (i / 8)).net.outAt := by
  unfold popPort
  split <;> simp

theorem popPorts_keeps (s : State) (i : Nat) (srcs : List Reg) :
    (s.popPorts i srcs).slots = s.slots ∧ (s.popPorts i srcs).sched = s.sched ∧ (s.popPorts i srcs).cur = s.cur ∧
    ((s.popPorts i srcs).core (i / 8)).y = (s.core (i / 8)).y ∧
    ((s.popPorts i srcs).core (i / 8)).net.outlet = (s.core (i / 8)).net.outlet ∧
    ((s.popPorts i srcs).core (i / 8)).net.outAt = (s.core (i / 8)).net.outAt := by
  rw [popPorts_eq]
  simp [popPort_keeps]

theorem popPort_intake (s : State) (i p q : Nat) (b : Bool) (hp : 28 ≤ p) (hq : q < 3) :
    (popPort s i p b).intakeOf (i / 8) q =
      if b && p = 28 + q then (s.intakeOf (i / 8) q).drop 1 else s.intakeOf (i / 8) q := by
  unfold popPort
  cases b
  · simp
  · by_cases h : p = 28 + q
    · subst h
      simp [State.intakeOf, Vector.getD, hq]
    · have : p - 28 ≠ q := by omega
      simp [State.intakeOf, Vector.getD, hq, this, h]

theorem portOf_eq (r : Reg) (p : Nat) (hp : p < 3) : portOf r = some (28 + p) ↔ r = Reg.y (BitVec.ofNat 5 (28 + p)) := by
  cases r with
  | x n => simp [portOf]
  | y n =>
    have hn : n.toNat < 32 := n.isLt
    have e : n = BitVec.ofNat 5 (28 + p) ↔ n.toNat = 28 + p := by
      rw [← BitVec.toNat_inj]
      simp
      omega
    simp only [portOf, Reg.y.injEq, e]
    split
    · simp
    · simp
      omega

/-- The pops name port `28 + p` exactly when a source field does. -/
theorem contains_port (srcs : List Reg) (p : Nat) (hp : p < 3) :
    (srcs.filterMap portOf).contains (28 + p) = decide (Reg.y (BitVec.ofNat 5 (28 + p)) ∈ srcs) := by
  rw [Bool.eq_iff_iff]
  simp only [List.contains_iff_mem, List.mem_filterMap, portOf_eq _ p hp, decide_eq_true_eq]
  simp

theorem popPorts_intake (s : State) (i : Nat) (srcs : List Reg) (p : Nat) (hp : p < 3) :
    (s.popPorts i srcs).intakeOf (i / 8) p =
      if Reg.y (BitVec.ofNat 5 (28 + p)) ∈ srcs then (s.intakeOf (i / 8) p).drop 1 else s.intakeOf (i / 8) p := by
  have hc := contains_port srcs p hp
  rw [popPorts_eq, popPort_intake _ _ _ _ _ (by omega) hp, popPort_intake _ _ _ _ _ (by omega) hp,
    popPort_intake _ _ _ _ _ (by omega) hp]
  have h3 : p = 0 ∨ p = 1 ∨ p = 2 := by omega
  rcases h3 with rfl | rfl | rfl <;> simp at hc ⊢ <;> simp [hc]

/-! Reading a register after an update. -/

theorem reg_plain (s : State) (i : Nat) (r : Reg) (h : plainReg r = true) :
    s.reg i r = match r with
      | .x n => (s.slot i).readX n
      | .y n => (s.core (i / 8)).y.getD n.toNat 0 := by
  cases r with
  | x n => rfl
  | y n =>
    have : n.toNat < 28 := by simpa [plainReg] using h
    simp [State.reg, this]

theorem slot_popPorts (s : State) (i j : Nat) (srcs : List Reg) : (s.popPorts i srcs).slot j = s.slot j := by
  unfold State.slot
  rw [(popPorts_keeps s i srcs).1]

theorem reg_popPorts (s : State) (i : Nat) (srcs : List Reg) (r : Reg) (h : plainReg r = true) :
    (s.popPorts i srcs).reg i r = s.reg i r := by
  rw [reg_plain _ _ _ h, reg_plain _ _ _ h]
  cases r <;> simp [slot_popPorts, (popPorts_keeps s i srcs).2.2.2.1]

/-! Writing a destination (R80, R82, R85). -/

theorem onlySlot_writeY (s : State) (i n : Nat) (v : Word) : OnlySlot s (s.writeY i n v) i := by
  have go : ∀ f : List (Nat × Nat × Nat) → List (Nat × Nat × Nat), OnlySlot s ((s.modCore (i / 8) fun c =>
      { c with y := c.y.setIfInBounds n v }).modSched fun c => { c with landed := f c.landed }) i :=
    fun f => (onlySlot_modCore s i _ fun _ => rfl).trans (onlySlot_landed _ i f)
  unfold State.writeY
  dsimp only
  split
  · split
    · exact OnlySlot.refl s i
    · exact go fun l => (i / 8, n, i % 8) :: l.filter fun e => !(e.1 = i / 8 && e.2.1 = n)
  · exact go fun l => (i / 8, n, i % 8) :: l.filter fun e => !(e.1 = i / 8 && e.2.1 = n)

theorem onlySlot_writeDst (s : State) (i : Nat) (d : Dst) (v : Word) : OnlySlot s (s.writeDst i d v) i := by
  unfold State.writeDst
  split
  · split
    · exact OnlySlot.refl s i
    · exact onlySlot_modSlot ..
  · exact onlySlot_modSlot ..
  · split
    · exact onlySlot_writeY ..
    · split
      · exact onlySlot_modCore s i _ fun _ => rfl
      · exact OnlySlot.refl s i

theorem onlySlot_writeReg (s : State) (i : Nat) (r : Reg) (v : Word) : OnlySlot s (s.writeReg i r v) i := onlySlot_writeDst ..

theorem writeY_slots (s : State) (i n : Nat) (v : Word) : (s.writeY i n v).slots = s.slots := by
  unfold State.writeY
  dsimp only
  split
  · split <;> rfl
  · rfl

/-- A write changes the slot's x registers only. -/
theorem writeReg_slot (s : State) (i : Nat) (r : Reg) (v : Word) : ∃ x sx, (s.writeReg i r v).slot i =
    { s.slot i with regs := { (s.slot i).regs with x := x, sx := sx } } := by
  have same : ∀ t : State, t.slots = s.slots → ∃ x sx, t.slot i =
      { s.slot i with regs := { (s.slot i).regs with x := x, sx := sx } } := by
    intro t h
    refine ⟨(s.slot i).regs.x, (s.slot i).regs.sx, ?_⟩
    unfold State.slot
    rw [h]
  unfold State.writeReg State.writeDst
  split
  · split
    · exact same _ rfl
    · exact ⟨_, _, slot_modSlot_same ..⟩
  · exact ⟨_, _, slot_modSlot_same ..⟩
  · split
    · exact same _ (writeY_slots ..)
    · split
      · exact same _ rfl
      · exact same _ rfl

theorem readX_regs (sl : Slot) (r : Regs) (m : BitVec 5) : Slot.readX { sl with regs := r } m =
    if m = 0 then 0 else if sl.inUi && 24 ≤ m.toNat then r.sx.getD (m.toNat - 24) 0 else r.x.getD m.toNat 0 := rfl

theorem writeReg_x (s : State) (i : Nat) (n m : BitVec 5) (v : Word) :
    ((s.writeReg i (.x n) v).slot i).readX m = if m = n then (if n = 0 then 0 else v) else (s.slot i).readX m := by
  have hm : m.toNat < 32 := m.isLt
  have hn : n.toNat < 32 := n.isLt
  have ne : m ≠ n → m.toNat ≠ n.toNat := fun h e => h (BitVec.eq_of_toNat_eq e)
  unfold State.writeReg State.writeDst Slot.bind
  cases hu : ((s.slot i).inUi && decide (24 ≤ n.toNat)) with
  | true =>
    simp only [hu, if_true]
    simp only [Bool.and_eq_true, decide_eq_true_eq] at hu
    have n0 : n ≠ 0 := by intro e; subst e; simp at hu
    rw [slot_modSlot_same]
    by_cases e : m = n
    · subst e
      have lt : m.toNat - 24 < 8 := by omega
      simp [readX_regs, hu.1, hu.2, Vector.getD, lt, Nat.mod_eq_of_lt lt]
    · have nn := ne e
      rw [readX_regs]
      simp only [Slot.readX, hu.1, e, if_false, Bool.true_and]
      by_cases hm24 : 24 ≤ m.toNat
      · have lt : m.toNat - 24 < 8 := by omega
        have lt' : n.toNat - 24 < 8 := by omega
        have d : n.toNat - 24 ≠ m.toNat - 24 := by omega
        simp [hm24, Vector.getD, lt, Nat.mod_eq_of_lt lt', d]
      · simp [hm24]
  | false =>
    simp only [hu, Bool.false_eq_true, if_false]
    by_cases n0 : n = 0
    · subst n0
      by_cases e : m = 0
      · subst e; simp [Slot.readX]
      · simp only [e, if_true, if_false]
    · simp only [n0, if_false]
      rw [slot_modSlot_same]
      by_cases e : m = n
      · subst e
        rw [readX_regs]
        simp only [n0, if_false, hu]
        simp [Vector.getD, hm]
      · have nn := ne e
        rw [readX_regs]
        simp only [Slot.readX, e, if_false]
        by_cases m0 : m = 0
        · simp only [m0, if_true]
        · simp only [m0, if_false]
          by_cases hs : ((s.slot i).inUi && decide (24 ≤ m.toNat)) = true
          · rw [if_pos hs, if_pos hs]
          · rw [if_neg hs, if_neg hs]
            simp [Vector.getD, hm, nn.symm]

theorem writeY_y (s : State) (i n m : Nat) (v : Word) (hn : n < 28) (hm : m < 28) :
    ((s.writeY i n v).core (i / 8)).y.getD m 0 =
      if m = n then (if s.yTaken i n then (s.core (i / 8)).y.getD n 0 else v) else (s.core (i / 8)).y.getD m 0 := by
  have key : ((s.core (i / 8)).y.setIfInBounds n v).getD m 0 = if m = n then v else (s.core (i / 8)).y.getD m 0 := by
    by_cases e : m = n
    · subst e; simp [Vector.getD, hm]
    · have e' : n ≠ m := fun h => e h.symm
      simp [e, Vector.getD, hm, e']
  unfold State.writeY State.yTaken
  dsimp only
  generalize s.sched.landed.find? _ = o
  cases o with
  | none => simpa using key
  | some x =>
    obtain ⟨a, b, j⟩ := x
    by_cases hj : j < i % 8
    · by_cases e : m = n <;> simp [hj, e]
    · simpa [hj] using key

theorem writeReg_core_of_x (s : State) (i : Nat) (n : BitVec 5) (v : Word) :
    (s.writeReg i (.x n) v).cores = s.cores ∧ (s.writeReg i (.x n) v).sched = s.sched := by
  unfold State.writeReg State.writeDst Slot.bind
  cases hu : ((s.slot i).inUi && decide (24 ≤ n.toNat)) with
  | true => simp only [hu, if_true]; exact ⟨rfl, rfl⟩
  | false =>
    simp only [hu, Bool.false_eq_true, if_false]
    split <;> exact ⟨rfl, rfl⟩

theorem writeY_net (s : State) (i n : Nat) (v : Word) (k : Nat) : ((s.writeY i n v).core k).net = (s.core k).net := by
  unfold State.writeY
  dsimp only
  split
  · split
    · rfl
    · simp only [core_modSched, core_modCore]; split <;> simp_all
  · simp only [core_modSched, core_modCore]; split <;> simp_all

theorem writeReg_reg_y (s : State) (i : Nat) (n : BitVec 5) (v : Word) (hn : n.toNat < 28) :
    s.writeReg i (.y n) v = s.writeY i n.toNat v := by
  simp [State.writeReg, Slot.bind, State.writeDst, hn]

theorem writeReg_reg_port (s : State) (i : Nat) (n : BitVec 5) (v : Word) (hn : 28 ≤ n.toNat) :
    s.writeReg i (.y n) v = if n.toNat < 31 then s.pushPort (i / 8) (n.toNat - 28) v else s := by
  have : ¬ n.toNat < 28 := by omega
  simp [State.writeReg, Slot.bind, State.writeDst, this]

/-- What a write of field `d` leaves in a register that is no port. -/
theorem reg_writeReg (s : State) (i : Nat) (d r : Reg) (v : Word) (h : plainReg r = true) (hd : r ≠ d) :
    (s.writeReg i d v).reg i r = s.reg i r := by
  rw [reg_plain _ _ _ h, reg_plain _ _ _ h]
  cases r with
  | x m =>
    cases d with
    | x n =>
      have : m ≠ n := fun e => hd (by rw [e])
      simp [writeReg_x, this]
    | y n =>
      have hs : (s.writeReg i (.y n) v).slots = s.slots := by
        by_cases hn : n.toNat < 28
        · rw [writeReg_reg_y _ _ _ _ hn]; exact writeY_slots ..
        · rw [writeReg_reg_port _ _ _ _ (by omega)]; split <;> rfl
      simp only [State.slot]
      rw [hs]
  | y m =>
    have hm : m.toNat < 28 := by simpa [plainReg] using h
    cases d with
    | x n => simp only [State.core]; rw [(writeReg_core_of_x ..).1]
    | y n =>
      by_cases hn : n.toNat < 28
      · have : m.toNat ≠ n.toNat := fun e => hd (by rw [BitVec.eq_of_toNat_eq e])
        dsimp only
        rw [writeReg_reg_y _ _ _ _ hn, writeY_y _ _ _ _ _ hn hm]
        simp [this]
      · dsimp only
        rw [writeReg_reg_port _ _ _ _ (by omega)]
        split
        · simp [State.pushPort]
        · rfl

theorem intakeOf_writeReg (s : State) (i : Nat) (d : Reg) (v : Word) (p : Nat) :
    (s.writeReg i d v).intakeOf (i / 8) p = s.intakeOf (i / 8) p := by
  unfold State.intakeOf
  cases d with
  | x n => simp only [State.core]; rw [(writeReg_core_of_x ..).1]
  | y n =>
    by_cases hn : n.toNat < 28
    · rw [writeReg_reg_y _ _ _ _ hn, writeY_net]
    · rw [writeReg_reg_port _ _ _ _ (by omega)]
      split
      · simp [State.pushPort]
      · rfl

theorem outletOf_writeReg (s : State) (i : Nat) (d : Reg) (v : Word) (p : Nat) (hp : p < 3)
    (h : Reg.y (BitVec.ofNat 5 (28 + p)) ≠ d) : (s.writeReg i d v).outletOf (i / 8) p = s.outletOf (i / 8) p := by
  unfold State.outletOf
  cases d with
  | x n => simp only [State.core]; rw [(writeReg_core_of_x ..).1]
  | y n =>
    by_cases hn : n.toNat < 28
    · rw [writeReg_reg_y _ _ _ _ hn, writeY_net]
    · rw [writeReg_reg_port _ _ _ _ (by omega)]
      split
      · have : n.toNat - 28 ≠ p := by
          intro e
          apply h
          congr 1
          apply BitVec.eq_of_toNat_eq
          have := n.isLt
          simp
          omega
        simp [State.pushPort, Vector.getD, hp, this]
      · rfl

/-- R348: a core cycle in which a word last entered an outlet changes only with the outlet. -/
theorem outAt_writeReg (s : State) (i : Nat) (d : Reg) (v : Word) (p : Nat) (hp : p < 3)
    (h : Reg.y (BitVec.ofNat 5 (28 + p)) ≠ d) :
    ((s.writeReg i d v).core (i / 8)).net.outAt.getD p 0 = (s.core (i / 8)).net.outAt.getD p 0 := by
  cases d with
  | x n => simp only [State.core]; rw [(writeReg_core_of_x ..).1]
  | y n =>
    by_cases hn : n.toNat < 28
    · rw [writeReg_reg_y _ _ _ _ hn, writeY_net]
    · rw [writeReg_reg_port _ _ _ _ (by omega)]
      split
      · have : n.toNat - 28 ≠ p := by
          intro e
          apply h
          congr 1
          apply BitVec.eq_of_toNat_eq
          have := n.isLt
          simp
          omega
        simp [State.pushPort, Vector.getD, hp, this]
      · rfl

theorem wrote_writeReg (s : State) (i : Nat) (d : Reg) (v : Word) : Wrote s (s.writeReg i d v) i d v := by
  cases d with
  | x n => simpa [Wrote, State.reg] using writeReg_x s i n n v
  | y n =>
    unfold Wrote
    dsimp only
    split
    · rename_i hn
      have h : plainReg (.y n) = true := by simpa [plainReg] using hn
      rw [reg_plain _ _ _ h, reg_plain _ _ _ h]
      dsimp only
      rw [writeReg_reg_y _ _ _ _ hn, writeY_y _ _ _ _ _ hn hn]
      simp
    · rename_i hn
      intro h31
      rw [writeReg_reg_port _ _ _ _ (by omega)]
      have : n.toNat - 28 < 3 := by omega
      simp [h31, State.outletOf, State.pushPort, Vector.getD, this]

/-! Going on (R43, R44, R46). -/

theorem finishTo_eq (s : State) (i : Nat) (target : Word) (h : (s.slot i).unstepped = true) (via : Option Word := none) :
    s.finishTo i target via = s.modSlot i fun sl => sl.goneTo target sl.regs via := by
  have step : ∀ (u : State), (u.slot i).unstepped = true → ∀ pc, u.stepTrap i pc = u := by
    intro u hu pc
    simp only [Slot.unstepped, Bool.not_eq_true'] at hu
    unfold State.stepTrap
    simp [hu]
  unfold State.finishTo
  rw [step]
  · rfl
  · unfold State.goTo
    rw [slot_modSlot_same]
    exact h

/-- The head's own end: the ports popped, the destination written, the slot at `target`. -/
theorem ran_write (s : State) (srcs : List Reg) (d : Reg) (v target : Word) (h : (s.slot s.cur).unstepped = true) :
    Ran s (((s.popPorts s.cur srcs).writeReg s.cur d v).finishTo s.cur target) srcs [d] target ∧
    Wrote s (((s.popPorts s.cur srcs).writeReg s.cur d v).finishTo s.cur target) s.cur d v := by
  obtain ⟨x, sx, hw⟩ := writeReg_slot (s.popPorts s.cur srcs) s.cur d v
  rw [slot_popPorts] at hw
  have hu : (((s.popPorts s.cur srcs).writeReg s.cur d v).slot s.cur).unstepped = true := by rw [hw]; exact h
  have only : OnlySlot s ((s.popPorts s.cur srcs).writeReg s.cur d v) s.cur :=
    (onlySlot_popPorts ..).trans (onlySlot_writeReg ..)
  have hreg : ∀ (u : State) (r : Reg), plainReg r = true →
      (u.modSlot s.cur fun sl => sl.goneTo target sl.regs).reg s.cur r = u.reg s.cur r := by
    intro u r hr
    rw [reg_plain _ _ _ hr, reg_plain _ _ _ hr]
    cases r
    · simp only [slot_modSlot_same]; rfl
    · rfl
  have hk := popPorts_keeps s s.cur srcs
  rw [finishTo_eq _ _ _ hu]
  refine ⟨⟨only.trans (onlySlot_modSlot ..), ?_, ?_, ?_, ?_, ?_⟩, ?_⟩
  · simp only [slot_modSlot_same, hw]
    rfl
  · intro r hr hd
    rw [hreg _ _ hr, reg_writeReg _ _ _ _ _ hr (by simpa using hd), reg_popPorts _ _ _ _ hr]
  · intro p hp
    have e : ∀ (u : State) (f : Slot → Slot), (u.modSlot s.cur f).intakeOf (s.cur / 8) p = u.intakeOf (s.cur / 8) p :=
      fun _ _ => rfl
    rw [e, intakeOf_writeReg, popPorts_intake _ _ _ _ hp]
  · intro p hp hd
    have e : ∀ (u : State) (f : Slot → Slot), (u.modSlot s.cur f).outletOf (s.cur / 8) p = u.outletOf (s.cur / 8) p :=
      fun _ _ => rfl
    rw [e, outletOf_writeReg _ _ _ _ _ hp (by simpa using hd)]
    unfold State.outletOf
    rw [hk.2.2.2.2.1]
  · intro p hp hd
    rw [core_modSlot, outAt_writeReg _ _ _ _ _ hp (by simpa using hd), hk.2.2.2.2.2]
  · have hwrote := wrote_writeReg (s.popPorts s.cur srcs) s.cur d v
    cases d with
    | x n =>
      exact (hreg _ (.x n) rfl).trans hwrote
    | y n =>
      unfold Wrote at hwrote ⊢
      dsimp only at hwrote ⊢
      by_cases hn : n.toNat < 28
      · have hp : plainReg (.y n) = true := by simpa [plainReg] using hn
        have ht : (s.popPorts s.cur srcs).yTaken s.cur n.toNat = s.yTaken s.cur n.toNat := by
          unfold State.yTaken
          rw [hk.2.1]
        rw [if_pos hn] at hwrote ⊢
        rw [hreg _ _ hp, hwrote, ht, reg_popPorts _ _ _ _ hp]
      · rw [if_neg hn] at hwrote ⊢
        intro h31
        have e : ∀ (u : State) (f : Slot → Slot),
            (u.modSlot s.cur f).outletOf (s.cur / 8) (n.toNat - 28) = u.outletOf (s.cur / 8) (n.toNat - 28) := fun _ _ => rfl
        rw [e, hwrote h31]
        unfold State.outletOf
        rw [hk.2.2.2.2.1]

/-- The head of an instruction with no destination. -/
theorem ran_go (s : State) (srcs : List Reg) (target : Word) (h : (s.slot s.cur).unstepped = true) (via : Option Word := none) :
    Ran s ((s.popPorts s.cur srcs).finishTo s.cur target via) srcs [] target via := by
  have hu : ((s.popPorts s.cur srcs).slot s.cur).unstepped = true := by rw [slot_popPorts]; exact h
  rw [finishTo_eq _ _ _ hu via]
  refine ⟨(onlySlot_popPorts ..).trans (onlySlot_modSlot ..), ?_, ?_, ?_, ?_, ?_⟩
  · simp only [slot_modSlot_same, slot_popPorts]
    rfl
  · intro r hr _
    rw [← reg_popPorts s s.cur srcs r hr, reg_plain _ _ _ hr, reg_plain _ _ _ hr]
    cases r
    · simp only [slot_modSlot_same]; rfl
    · rfl
  · intro p hp
    exact popPorts_intake s s.cur srcs p hp
  · intro p hp _
    unfold State.outletOf
    rw [core_modSlot, (popPorts_keeps s s.cur srcs).2.2.2.2.1]
  · intro p hp _
    rw [core_modSlot, (popPorts_keeps s s.cur srcs).2.2.2.2.2]

/-- The port rules of a head with no port among its fields. -/
theorem portCheck_none (s : State) (i : Nat) : s.portCheck i [] [] = .ok := rfl

theorem withRegs_ok (s : State) (i : Nat) (srcs dsts : List Reg) (go : State → State) (h : s.portCheck i srcs dsts = .ok) :
    s.withRegs i srcs dsts go = go s := by
  simp [State.withRegs, h]

/-- R92: an instruction that computes a value of its sources completes with it. -/
theorem ran_compute (s : State) (srcs : List Reg) (d : Reg) (f : State → Word) (h : s.able srcs [d]) :
    Ran s (s.compute srcs d f) srcs [d] (s.slot s.cur).npc ∧ Wrote s (s.compute srcs d f) s.cur d (f s) := by
  unfold State.compute
  rw [withRegs_ok _ _ _ _ _ h.2]
  have hnpc : (((s.popPorts s.cur srcs).writeReg s.cur d (f s)).slot s.cur).npc = (s.slot s.cur).npc := by
    obtain ⟨x, sx, hw⟩ := writeReg_slot (s.popPorts s.cur srcs) s.cur d (f s)
    rw [hw, slot_popPorts]
  unfold State.writeDone State.complete
  rw [hnpc]
  exact ran_write s srcs d (f s) _ h.1

end Sys2Proof.Machine
end

