-- ==== Sys2Proof/Laws/Store.lean ====
section
/-!
SUPPORT. Every operation that changes memory keeps its canonical form; and what a write of bytes leaves where no stash bank holds a copy.
-/

namespace Sys2Proof.Machine

/-- Memory is in its canonical form. -/
def State.memOk (s : State) : Prop := s.mm.bytes.wf = true

theorem foldl_keeps {α β : Type} (p : α → Prop) (f : α → β → α) (h : ∀ a b, p a → p (f a b)) (l : List β) (a : α) (ha : p a) :
    p (l.foldl f a) := by
  induction l generalizing a with
  | nil => exact ha
  | cons b l ih => exact ih (f a b) (h a b ha)

/-! The homes of lines, and the LLC: what they change. -/

/-- R226: the settling of a home changes nothing but what the homes hold. -/
theorem settleHome_only (s : State) (pa : Nat) :
    s.settleHome pa = { s with mm := { s.mm with homes := (s.settleHome pa).mm.homes } } := by
  unfold State.settleHome
  split <;> rfl

theorem settleHomes_only (s : State) : s.settleHomes = { s with mm := { s.mm with homes := s.settleHomes.mm.homes } } := by
  refine foldl_keeps (fun t : State => t = { s with mm := { s.mm with homes := t.mm.homes } }) _ (fun t x ht => ?_) _ s rfl
  rw [settleHome_only t x, ht]

theorem keepHome_only (s : State) (pa : Nat) : s.keepHome pa = { s with mm := { s.mm with homes := (s.keepHome pa).mm.homes } } := by
  unfold State.keepHome
  split <;> rfl

@[simp] theorem settleHome_bytes (s : State) (pa : Nat) : (s.settleHome pa).mm.bytes = s.mm.bytes := by rw [settleHome_only]

@[simp] theorem settleHomes_bytes (s : State) : s.settleHomes.mm.bytes = s.mm.bytes := by rw [settleHomes_only]

@[simp] theorem keepHome_bytes (s : State) (pa : Nat) : (s.keepHome pa).mm.bytes = s.mm.bytes := by rw [keepHome_only]

/-- R210: an access at a line's home changes the stacks' LLCs and a partition's count of overflows, and nothing else. -/
theorem llcAccess_only (s : State) (pa : Nat) (h : Hint) (t : BitVec 16) (w : Bool) :
    s.llcAccess pa h t w = { s with dies := (s.llcAccess pa h t w).dies, parts := (s.llcAccess pa h t w).parts } := by
  unfold State.llcAccess
  dsimp only
  repeat' split
  all_goals first
    | rfl
    | (unfold State.modPart; split <;> rfl)

@[simp] theorem llcAccess_mm (s : State) (pa : Nat) (h : Hint) (t : BitVec 16) (w : Bool) : (s.llcAccess pa h t w).mm = s.mm := by
  rw [llcAccess_only]

@[simp] theorem writeHome_mm (s : State) (pa : Nat) (k : Option Holder) : (s.writeHome pa k).mm = s.mm := by
  unfold State.writeHome
  split
  · exact llcAccess_mm ..
  · rfl

@[simp] theorem meetFlip_mm (s : State) (b : Bool) : (s.meetFlip b).mm = s.mm := by
  cases b <;> rfl

@[simp] theorem noteTail_mm (s : State) (a n : Nat) : (s.noteTail a n).mm = s.mm := by
  unfold State.noteTail
  dsimp only
  split <;> rfl

@[simp] theorem homeWrites_mm (s : State) (a n : Nat) (t : BitVec 16) : (s.homeWrites a n t).mm = s.mm :=
  foldl_keeps (fun u : State => u.mm = s.mm) _ (fun _ _ h => by rw [llcAccess_mm, meetFlip_mm, h]) _ s rfl

theorem memOk_of_bytes {s t : State} (e : t.mm.bytes = s.mm.bytes) (h : s.memOk) : t.memOk := by
  unfold State.memOk
  rw [e]
  exact h

/-! The canonical form. -/

theorem memOk_keepStashLine (s : State) (k b ln pa : Nat) (h : s.memOk) : (s.keepStashLine k b ln pa).memOk := wf_setBytes _ _ _ h

theorem memOk_dropCopies (s : State) (pa : Nat) (by_ : Option Holder) (h : s.memOk) : (s.dropCopies pa by_).memOk := by
  refine memOk_of_bytes (settleHome_bytes _ _) ?_
  show State.memOk (List.foldl _ (s.writeHome pa by_) _)
  refine foldl_keeps State.memOk _ (fun t x ht => ?_) _ _ (memOk_of_bytes (by rw [writeHome_mm]) h)
  split
  · exact ht
  · exact memOk_keepStashLine t _ _ _ _ ht

theorem watchWrite_mm (s : State) (pg : Nat) : (s.watchWrite pg).mm = s.mm := by
  unfold State.watchWrite
  split <;> rfl

theorem memOk_wrBytes (s : State) (a : Nat) (bs : List Byte) (bad : Bool) (by_ : Option Holder) (h : s.memOk) :
    (s.wrBytes a bs bad by_).memOk := by
  have hm (t : State) (l : List Nat) : (l.foldl State.watchWrite t).mm = t.mm := by
    induction l generalizing t with
    | nil => rfl
    | cons x l ih => exact (ih _).trans (watchWrite_mm t x)
  have hd (t : State) (l : List Nat) (ht : t.memOk) :
      (l.foldl (fun s l => if by_.isSome then (s.dropCopies l by_).keepHome l else s.dropCopies l by_) t).memOk :=
    foldl_keeps State.memOk _ (fun t x ht => by
      split
      · exact memOk_of_bytes (keepHome_bytes _ _) (memOk_dropCopies t x by_ ht)
      · exact memOk_dropCopies t x by_ ht) l t ht
  have key (t u : State) (ht : t.memOk) (hu : u.mm.bytes = t.mm.bytes.setBytes a bs) : u.memOk := by
    unfold State.memOk
    rw [hu]
    exact wf_setBytes _ _ _ ht
  unfold State.wrBytes
  dsimp only
  split
  · exact h
  · by_cases h1 : isLm a = true <;> by_cases h2 : isDev a = true <;> simp only [h1, h2, if_true, if_false, Bool.false_eq_true]
    · exact key ((List.foldl State.watchWrite s _).noteTail a _) _ (by unfold State.memOk; rw [noteTail_mm, hm]; exact h) rfl
    · exact key (s.noteTail a _) _ (by unfold State.memOk; rw [noteTail_mm]; exact h) rfl
    · exact key ((List.foldl State.watchWrite _ _).noteTail a _) _ (by unfold State.memOk; rw [noteTail_mm, hm]; exact hd s _ h) rfl
    · exact key (State.noteTail _ a _) _ (by unfold State.memOk; rw [noteTail_mm]; exact hd s _ h) rfl

theorem memOk_unitWrite (s : State) (a : Nat) (bs : List Byte) (t : BitVec 16) (h : s.memOk) : (s.unitWrite a bs t).memOk :=
  memOk_of_bytes (by unfold State.unitWrite; rw [homeWrites_mm]) (memOk_wrBytes s a bs false none h)

theorem memOk_imageBytes (s : State) (a n id : Nat) (h : s.memOk) : (s.imageBytes a n id).memOk := by
  have hm (t : State) (l : List Nat) : (l.foldl State.watchWrite t).mm = t.mm := by
    induction l generalizing t with
    | nil => rfl
    | cons x l ih => exact (ih _).trans (watchWrite_mm t x)
  have hd (t : State) (l : List Nat) (ht : t.memOk) : (l.foldl (fun s l => s.dropCopies l none) t).memOk :=
    foldl_keeps State.memOk _ (fun t x ht => memOk_dropCopies t x none ht) l t ht
  unfold State.imageBytes
  dsimp only
  split
  · exact h
  · refine wf_fill _ _ _ _ ?_
    rw [hm, homeWrites_mm]
    exact hd _ _ (memOk_of_bytes (by rw [noteTail_mm]) h)

theorem memOk_writeBackBank (s : State) (k b : Nat) (t : BitVec 16) (h : s.memOk) : (s.writeBackBank k b t).memOk := by
  unfold State.writeBackBank
  split
  · exact h
  · refine foldl_keeps State.memOk _ (fun u l hu => ?_) _ s h
    split
    · exact memOk_of_bytes (s := u) (by simp) hu
    · exact hu

theorem memOk_flushCore (s : State) (k : Nat) (h : s.memOk) : (s.flushCore k).memOk := by
  refine memOk_of_bytes (settleHomes_bytes _) ?_
  show State.memOk (List.foldl _ (List.foldl _ s _) _)
  refine foldl_keeps State.memOk _ (fun t l ht => ?_) _ _ ?_
  · split
    · exact memOk_of_bytes (s := t) (by simp) ht
    · exact ht
  · exact foldl_keeps State.memOk _ (fun t b ht => foldl_keeps State.memOk _ (fun u l hu => memOk_keepStashLine u _ _ _ _ hu) _ _
      (memOk_writeBackBank t _ _ _ ht)) _ s h

theorem memOk_clearLm (s : State) (k : Nat) (h : s.memOk) : (s.clearLm k).memOk := wf_filter _ _ h

theorem memOk_clearCore (s : State) (k : Nat) (h : s.memOk) : (s.clearCore k).memOk :=
  memOk_of_bytes (settleHomes_bytes _) (memOk_clearLm s k h)

theorem memOk_loadLm (s : State) (k : Nat) (im : CoreImage) (h : s.memOk) : (s.loadLm k im).memOk :=
  foldl_keeps (fun m : Memory => m.wf = true) _ (fun _ _ hm => wf_setBytes _ _ _ hm) _ _ (memOk_clearLm s k h)

theorem memOk_confine (s t : State) (k : Nat) (h : s.memOk) : (s.confine t k).memOk :=
  foldl_keeps (fun m : Memory => m.wf = true) _ (fun _ _ hm => wf_setBytes _ _ _ hm) _ _ (wf_filter _ _ h)

theorem only_wf (m : Mem) (keep : Nat → Bool) (h : m.bytes.wf = true) : (m.only keep).bytes.wf = true := wf_filter _ _ h

theorem memOk_reset : State.reset.memOk := rfl

end Sys2Proof.Machine
end

