-- ==== Sys2Proof/Laws/Traps.lean ====
section
/-!
SUPPORT. What leaving the task groups leaves: every slot but for a barrier's release, and memory; and what ending a task leaves.
-/

namespace Sys2Proof.Machine

/-- From `s` to `t` every slot is as it was but for the time of a barrier's release, and so is memory. -/
structure OnlyReleases (s t : State) : Prop where
  slot : ∀ j, ∃ b, t.slot j = { s.slot j with barAt := b }
  mm : t.mm = s.mm
  cur : t.cur = s.cur
  dclk : t.dclk = s.dclk

theorem OnlyReleases.of_slots {s t : State} (h : t.slots = s.slots) (hm : t.mm = s.mm) (hc : t.cur = s.cur)
    (hd : t.dclk = s.dclk) : OnlyReleases s t where
  slot j := ⟨(s.slot j).barAt, by unfold State.slot; rw [h]⟩
  mm := hm
  cur := hc
  dclk := hd

theorem OnlyReleases.refl (s : State) : OnlyReleases s s := .of_slots rfl rfl rfl rfl

theorem OnlyReleases.trans {s t u : State} (h : OnlyReleases s t) (g : OnlyReleases t u) : OnlyReleases s u where
  slot j := by
    obtain ⟨b, hb⟩ := h.slot j
    obtain ⟨c, hc⟩ := g.slot j
    exact ⟨c, by rw [hc, hb]⟩
  mm := g.mm.trans h.mm
  cur := g.cur.trans h.cur
  dclk := g.dclk.trans h.dclk

theorem OnlyReleases.foldl {α : Type} (l : List α) (f : State → α → State) (h : ∀ s a, OnlyReleases s (f s a)) (s : State) :
    OnlyReleases s (l.foldl f s) := by
  induction l generalizing s with
  | nil => exact .refl s
  | cons a t ih => exact (h s a).trans (ih (f s a))

theorem OnlyReleases.ite {s t u : State} {c : Prop} [Decidable c] (h : OnlyReleases s t) (g : OnlyReleases s u) :
    OnlyReleases s (if c then t else u) := by
  split
  · exact h
  · exact g

@[simp] theorem modPart_keeps (s : State) (p : Nat) (f : Part → Part) :
    (s.modPart p f).slots = s.slots ∧ (s.modPart p f).cores = s.cores ∧ (s.modPart p f).mm = s.mm ∧ (s.modPart p f).cur = s.cur ∧
    (s.modPart p f).dclk = s.dclk := by
  unfold State.modPart
  split <;> simp

theorem onlyReleases_modPart (s : State) (p : Nat) (f : Part → Part) : OnlyReleases s (s.modPart p f) := by
  have h := modPart_keeps s p f
  exact .of_slots h.1 h.2.2.1 h.2.2.2.1 h.2.2.2.2

theorem onlyReleases_barrierCores (s : State) (p gid : Nat) : OnlyReleases s (s.barrierCores p gid) := by
  unfold State.barrierCores
  apply OnlyReleases.foldl
  intro s k
  dsimp only
  split
  · unfold State.reachBarrier
    split
    · exact .of_slots rfl rfl rfl rfl
    · exact .refl s
  · exact .refl s

theorem onlyReleases_completeGroup (s : State) (p gid last : Nat) : OnlyReleases s (s.completeGroup p gid last) := by
  unfold State.completeGroup
  dsimp only
  refine ((onlyReleases_modPart s p _).trans (onlyReleases_barrierCores _ p gid)).trans ⟨fun j => ?_, rfl, rfl, rfl⟩
  unfold State.slot
  simp only [look_eq_get?, get?_mapVals]
  generalize get? _ j = o
  cases o with
  | none => exact ⟨_, rfl⟩
  | some v =>
    simp only [Option.map_some, Option.getD_some]
    split
    · split
      · exact ⟨_, rfl⟩
      · exact ⟨v.barAt, rfl⟩
    · exact ⟨v.barAt, rfl⟩

theorem onlyReleases_leaveGroup (s : State) (p gid k : Nat) : OnlyReleases s (s.leaveGroup p gid k) := by
  unfold State.leaveGroup
  cases (s.part? p).bind fun v => get? v.groups gid with
  | none => exact .refl s
  | some e =>
    dsimp only
    exact .ite ((onlyReleases_modPart ..).trans (onlyReleases_completeGroup ..)) (onlyReleases_modPart ..)

theorem onlyReleases_leaveGroups (s : State) (i : Nat) : OnlyReleases s (s.leaveGroups i) := by
  unfold State.leaveGroups
  exact OnlyReleases.foldl _ _ (fun _ _ => onlyReleases_leaveGroup ..) s

theorem noteFault_slots (s : State) (i : Nat) (c : TrapCode) (n : BitVec 8) :
    (s.noteFault i c n).slots = s.slots ∧ (s.noteFault i c n).mm = s.mm := by
  unfold State.noteFault
  dsimp only
  split <;> exact ⟨rfl, rfl⟩

theorem withdrawArrival_slots (s : State) (i : Nat) : (s.withdrawArrival i).slots = s.slots ∧ (s.withdrawArrival i).mm = s.mm := by
  unfold State.withdrawArrival
  split
  · split
    · exact ⟨rfl, rfl⟩
    · exact ⟨(modPart_keeps ..).1, (modPart_keeps ..).2.2.1⟩
  · exact ⟨rfl, rfl⟩

/-- The slot of a task that has ended with `e`. -/
def Slot.ended (sl : Slot) (e : Exit) : Slot :=
  { sl with
    st := .drain, exit := e, park := .none, hold := .none, line := .none, req := .none, found := .none, look := .none, barAt := .none
    step := .none }

/-- R63: the task of slot `i` ends: the slot is in DRAIN; the other slots and memory are as they were. -/
theorem endTask_spec (s : State) (i : Nat) (e : Exit) :
    (s.endTask i e).slot i = (s.slot i).ended e ∧ (∀ j, j ≠ i → (s.endTask i e).slot j = s.slot j) ∧ (s.endTask i e).mm = s.mm := by
  have key : ∀ u : State, u.slots = s.slots → u.mm = s.mm → (u.modSlot i fun sl => sl.ended e).slot i = (s.slot i).ended e ∧
      (∀ j, j ≠ i → (u.modSlot i fun sl => sl.ended e).slot j = s.slot j) ∧ (u.modSlot i fun sl => sl.ended e).mm = s.mm := by
    intro u h hm
    have hs : ∀ j, u.slot j = s.slot j := fun j => by unfold State.slot; rw [h]
    exact ⟨by rw [slot_modSlot_same, hs], fun j hj => by rw [slot_modSlot_other _ _ _ _ hj, hs], hm⟩
  have hw := withdrawArrival_slots s i
  cases e with
  | fault c =>
    have h := noteFault_slots (s.withdrawArrival i) i c (BitVec.ofNat 8 c.num)
    exact key _ (h.1.trans hw.1) (h.2.trans hw.2)
  | none => exact key _ hw.1 hw.2
  | halt => exact key _ hw.1 hw.2
  | cancelled => exact key _ hw.1 hw.2

/-- R368: a trap that no handler takes ends the task with its code. -/
theorem deliver_faultsOut (s : State) (i : Nat) (t : Trap)
    (h : (s.slot i).inh = true ∨ ((s.slot i).lv ≠ .m ∧ s.tvecOf i = 0 ∧ s.delegated i t.code = false)) :
    s.deliver i t = (s.modSlot i fun v => v.recorded (trapRecord i (s.slot i) t (s.slot i).inh false s.dclk)).endTask i
      (.fault t.code) := by
  unfold State.deliver
  dsimp only
  rcases h with h | ⟨h1, h2, h3⟩
  · simp [h]
  · cases hi : (s.slot i).inh <;> simp [h1, h2, h3]

end Sys2Proof.Machine
end

