-- ==== Sys2Proof/Tests/Slice0.lean ====
section
/-!
SUPPORT. The model's own tests: instruction words written out from the spec's encoding tables, ill-formed instructions, and witnesses that
the hypotheses of the statements can be met.
-/

namespace Sys2Proof

theorem test_words_control_1 :
    decode ⟨0x0040, 0x0000, 0x0000, 0x0000⟩ = .ok .nop ∧
    decode ⟨0x4080, 0xFFC3, 0x0000, 0x0000⟩ = .ok (.b 2046 3) ∧
    decode ⟨0x40C5, 0xFFC3, 0x0000, 0x0000⟩ = .ok (.bl (.x 5) 2046 3) ∧
    decode ⟨0x8100, 0x1A71, 0xFFC3, 0x0000⟩ = .ok (.bc (.x 6) (.y 7) 2046 3 .ne) ∧
    decode ⟨0x8140, 0x1801, 0xFFC3, 0x0000⟩ = .ok (.bcz (.x 6) 2046 3 .ne) ∧
    decode ⟨0x4180, 0x1800, 0x0000, 0x0000⟩ = .ok (.jx (.x 6)) ∧
    decode ⟨0x41C5, 0x1800, 0x0000, 0x0000⟩ = .ok (.jlx (.x 5) (.x 6)) ∧
    decode ⟨0x8200, 0x2400, 0xFFC3, 0x0000⟩ = .ok (.loop (.x 9) 2046 3) ∧
    decode ⟨0x0240, 0x0000, 0x0000, 0x0000⟩ = .ok .halt ∧
    decode ⟨0x4280, 0x02A5, 0x0000, 0x0000⟩ = .ok (.trap 677) ∧
    decode ⟨0x02C0, 0x0000, 0x0000, 0x0000⟩ = .ok .eret ∧
    decode ⟨0x0300, 0x0000, 0x0000, 0x0000⟩ = .ok .park := by decide

theorem test_words_control_2 :
    decode ⟨0x4345, 0x1800, 0x0000, 0x0000⟩ = .ok (.wake (.x 5) (.x 6)) ∧
    decode ⟨0x4385, 0x1801, 0x0000, 0x0000⟩ = .ok (.issueset (.x 5) (.x 6) 1) ∧
    decode ⟨0x43C5, 0x0005, 0x0000, 0x0000⟩ = .ok (.issueget (.x 5) true 1) := by decide

theorem test_words_integer_1 :
    decode ⟨0x4405, 0x1A70, 0x0000, 0x0000⟩ = .ok (.add (.x 5) (.x 6) (.y 7)) ∧
    decode ⟨0x4445, 0x1A70, 0x0000, 0x0000⟩ = .ok (.sub (.x 5) (.x 6) (.y 7)) ∧
    decode ⟨0x4485, 0x1A70, 0x0000, 0x0000⟩ = .ok (.mul (.x 5) (.x 6) (.y 7)) ∧
    decode ⟨0x44C5, 0x1A70, 0x0000, 0x0000⟩ = .ok (.mulh (.x 5) (.x 6) (.y 7)) ∧
    decode ⟨0x4505, 0x1A70, 0x0000, 0x0000⟩ = .ok (.mulhn (.x 5) (.x 6) (.y 7)) ∧
    decode ⟨0x4545, 0x1A70, 0x0000, 0x0000⟩ = .ok (.div (.x 5) (.x 6) (.y 7)) ∧
    decode ⟨0x4585, 0x1A70, 0x0000, 0x0000⟩ = .ok (.divn (.x 5) (.x 6) (.y 7)) ∧
    decode ⟨0x45C5, 0x1A70, 0x0000, 0x0000⟩ = .ok (.rem (.x 5) (.x 6) (.y 7)) ∧
    decode ⟨0x4605, 0x1A70, 0x0000, 0x0000⟩ = .ok (.remn (.x 5) (.x 6) (.y 7)) ∧
    decode ⟨0x4645, 0x1A70, 0x0000, 0x0000⟩ = .ok (.and (.x 5) (.x 6) (.y 7)) ∧
    decode ⟨0x4685, 0x1A70, 0x0000, 0x0000⟩ = .ok (.or (.x 5) (.x 6) (.y 7)) ∧
    decode ⟨0x46C5, 0x1A70, 0x0000, 0x0000⟩ = .ok (.xor (.x 5) (.x 6) (.y 7)) := by decide

theorem test_words_integer_2 :
    decode ⟨0x4705, 0x1A70, 0x0000, 0x0000⟩ = .ok (.andn (.x 5) (.x 6) (.y 7)) ∧
    decode ⟨0x4745, 0x1A70, 0x0000, 0x0000⟩ = .ok (.shl (.x 5) (.x 6) (.y 7)) ∧
    decode ⟨0x4785, 0x1A70, 0x0000, 0x0000⟩ = .ok (.shra (.x 5) (.x 6) (.y 7)) ∧
    decode ⟨0x47C5, 0x1A70, 0x0000, 0x0000⟩ = .ok (.shrl (.x 5) (.x 6) (.y 7)) ∧
    decode ⟨0x4805, 0x1A70, 0x0000, 0x0000⟩ = .ok (.rotl (.x 5) (.x 6) (.y 7)) ∧
    decode ⟨0x4845, 0x1A70, 0x0000, 0x0000⟩ = .ok (.min (.x 5) (.x 6) (.y 7)) ∧
    decode ⟨0x4885, 0x1A70, 0x0000, 0x0000⟩ = .ok (.max (.x 5) (.x 6) (.y 7)) ∧
    decode ⟨0x48C5, 0x1A70, 0x0000, 0x0000⟩ = .ok (.minn (.x 5) (.x 6) (.y 7)) ∧
    decode ⟨0x4905, 0x1A70, 0x0000, 0x0000⟩ = .ok (.maxn (.x 5) (.x 6) (.y 7)) ∧
    decode ⟨0x4945, 0x1A70, 0x0000, 0x0000⟩ = .ok (.slt (.x 5) (.x 6) (.y 7)) ∧
    decode ⟨0x4985, 0x1A70, 0x0000, 0x0000⟩ = .ok (.sltn (.x 5) (.x 6) (.y 7)) ∧
    decode ⟨0x49C5, 0x1A70, 0x0000, 0x0000⟩ = .ok (.seq (.x 5) (.x 6) (.y 7)) := by decide

theorem test_words_immediate_1 :
    decode ⟨0x4A05, 0x1AA5, 0x0000, 0x0000⟩ = .ok (.addi (.x 5) (.x 6) 677) ∧
    decode ⟨0x4A45, 0x1AA5, 0x0000, 0x0000⟩ = .ok (.andi (.x 5) (.x 6) 677) ∧
    decode ⟨0x4A85, 0x1AA5, 0x0000, 0x0000⟩ = .ok (.ori (.x 5) (.x 6) 677) ∧
    decode ⟨0x4AC5, 0x1AA5, 0x0000, 0x0000⟩ = .ok (.xori (.x 5) (.x 6) 677) ∧
    decode ⟨0x4B05, 0x1829, 0x0000, 0x0000⟩ = .ok (.shli (.x 5) (.x 6) 41) ∧
    decode ⟨0x4B45, 0x1829, 0x0000, 0x0000⟩ = .ok (.shrai (.x 5) (.x 6) 41) ∧
    decode ⟨0x4B85, 0x1829, 0x0000, 0x0000⟩ = .ok (.shrli (.x 5) (.x 6) 41) ∧
    decode ⟨0x4BC5, 0x1AA5, 0x0000, 0x0000⟩ = .ok (.slti (.x 5) (.x 6) 677) ∧
    decode ⟨0x8C05, 0x02AB, 0xCDEF, 0x0000⟩ = .ok (.li (.x 5) 44813807) ∧
    decode ⟨0x8C45, 0x1AAB, 0xCDEF, 0x0000⟩ = .ok (.lih (.x 5) (.x 6) 44813807) ∧
    decode ⟨0x4C85, 0xFFC3, 0x0000, 0x0000⟩ = .ok (.addpc (.x 5) 2046 3) ∧
    decode ⟨0x4CC5, 0x1800, 0x0000, 0x0000⟩ = .ok (.clz (.x 5) (.x 6)) := by decide

theorem test_words_immediate_2 :
    decode ⟨0x4D05, 0x1800, 0x0000, 0x0000⟩ = .ok (.ctz (.x 5) (.x 6)) ∧
    decode ⟨0x4D45, 0x1800, 0x0000, 0x0000⟩ = .ok (.popc (.x 5) (.x 6)) ∧
    decode ⟨0x8D85, 0x1A70, 0x2000, 0x0000⟩ = .ok (.sel (.x 5) (.x 6) (.y 7) (.x 8)) ∧
    decode ⟨0x8DC5, 0x1801, 0x00C8, 0x0000⟩ = .ok (.bfx (.x 5) (.x 6) 3 8 true) ∧
    decode ⟨0x8E05, 0x1A70, 0x00C8, 0x0000⟩ = .ok (.bfi (.x 5) (.x 6) (.y 7) 3 8) ∧
    decode ⟨0x4E45, 0x1804, 0x0000, 0x0000⟩ = .ok (.exts (.x 5) (.x 6) .h) ∧
    decode ⟨0x4E85, 0x1804, 0x0000, 0x0000⟩ = .ok (.extz (.x 5) (.x 6) .h) ∧
    decode ⟨0x4EC5, 0x0020, 0x0000, 0x0000⟩ = .ok (.getc (.x 5) 32) ∧
    decode ⟨0x4F05, 0x1812, 0x0000, 0x0000⟩ = .ok (.setc (.x 5) (.x 6) 18) ∧
    decode ⟨0x4F45, 0x1833, 0x0000, 0x0000⟩ = .ok (.mlog 5 6 3 .andn) ∧
    decode ⟨0x4F85, 0x1800, 0x0000, 0x0000⟩ = .ok (.mget 5 (.x 6)) ∧
    decode ⟨0x4FC5, 0x1800, 0x0000, 0x0000⟩ = .ok (.mset 5 (.x 6)) := by decide

theorem test_words_conversion :
    decode ⟨0x5005, 0x1A70, 0x0000, 0x0000⟩ = .ok (.fcvt (.x 5) (.x 6) (.y 7)) ∧
    decode ⟨0x5045, 0x1A71, 0x0000, 0x0000⟩ = .ok (.fcvti (.x 5) (.x 6) (.y 7) true) ∧
    decode ⟨0x5085, 0x1A71, 0x0000, 0x0000⟩ = .ok (.icvtf (.x 5) (.x 6) (.y 7) true) ∧
    decode ⟨0x50C5, 0x1A70, 0x0000, 0x0000⟩ = .ok (.fclass (.x 5) (.x 6) (.y 7)) ∧
    decode ⟨0x5105, 0x1801, 0x0000, 0x0000⟩ = .ok (.dtload (.x 5) (.x 6) 1) ∧
    decode ⟨0x5145, 0x1801, 0x0000, 0x0000⟩ = .ok (.dtread (.x 5) (.x 6) 1) := by decide

theorem test_words_vector_1 :
    decode ⟨0x5419, 0x4BE3, 0x0000, 0x0000⟩ = .ok (.vadd .w16 9 4 11 (some 6) .bf16) ∧
    decode ⟨0x5449, 0x4BE5, 0x0000, 0x0000⟩ = .ok (.vsub .w32 9 4 11 (some 6) .f32) ∧
    decode ⟨0x5499, 0x4BE4, 0x0000, 0x0000⟩ = .ok (.vmul .w16 9 4 11 (some 6) .f16) ∧
    decode ⟨0x94C9, 0x4BE5, 0xD000, 0x0000⟩ = .ok (.vfma .w32 9 4 11 13 (some 6) .f32) ∧
    decode ⟨0x5529, 0x4BE1, 0x0000, 0x0000⟩ = .ok (.vmin .w8 9 4 11 (some 6) .is) ∧
    decode ⟨0x5579, 0x4BE2, 0x0000, 0x0000⟩ = .ok (.vmax .w64 9 4 11 (some 6) .ns) ∧
    decode ⟨0x55A9, 0x40E1, 0x0000, 0x0000⟩ = .ok (.vabs .w8 9 4 (some 6) .is) ∧
    decode ⟨0x55D9, 0x4BE7, 0x0000, 0x0000⟩ = .ok (.vcmp .w16 9 4 11 (some 6) .lt .f16) ∧
    decode ⟨0x5619, 0x4BE0, 0x0000, 0x0000⟩ = .ok (.vsel .w16 9 4 11 (some 6)) ∧
    decode ⟨0x5659, 0x4BE0, 0x0000, 0x0000⟩ = .ok (.vand .w16 9 4 11 (some 6)) ∧
    decode ⟨0x5699, 0x4BE0, 0x0000, 0x0000⟩ = .ok (.vor .w16 9 4 11 (some 6)) ∧
    decode ⟨0x56D9, 0x4BE0, 0x0000, 0x0000⟩ = .ok (.vxor .w16 9 4 11 (some 6)) := by decide

theorem test_words_vector_2 :
    decode ⟨0x5719, 0x4BE0, 0x0000, 0x0000⟩ = .ok (.vshl .w16 9 4 11 (some 6)) ∧
    decode ⟨0x5759, 0x4BE1, 0x0000, 0x0000⟩ = .ok (.vshr .w16 9 4 11 (some 6) true) ∧
    decode ⟨0x5799, 0xA0E0, 0x0000, 0x0000⟩ = .ok (.vbcast .w16 9 10 (some 6)) ∧
    decode ⟨0x57D9, 0xA9E0, 0x0000, 0x0000⟩ = .ok (.vins .w16 9 10 9 (some 6) 0) ∧
    decode ⟨0x5805, 0x4305, 0x0000, 0x0000⟩ = .ok (.vmovx (.x 5) 4 3 0 true 1) ∧
    decode ⟨0x5859, 0x00E0, 0x0000, 0x0000⟩ = .ok (.vidx .w16 9 (some 6)) ∧
    decode ⟨0x5899, 0x4BE0, 0x0000, 0x0000⟩ = .ok (.vperm .w16 9 4 11 (some 6)) ∧
    decode ⟨0x58C9, 0x44E0, 0x0000, 0x0000⟩ = .ok (.vred .w32 9 4 .or (some 6) .int) ∧
    decode ⟨0x5909, 0x4C00, 0x0000, 0x0000⟩ = .ok (.vdec 9 4 12) ∧
    decode ⟨0x5949, 0x4C00, 0x0000, 0x0000⟩ = .ok (.venc 9 4 12) ∧
    decode ⟨0x5989, 0x4C00, 0x0000, 0x0000⟩ = .ok (.vcvt 9 4 12) ∧
    decode ⟨0x59C9, 0x47E5, 0x0000, 0x0000⟩ = .ok (.sfn .w32 9 4 .tanh (some 6) .f32) := by decide

theorem test_words_vector_3 :
    decode ⟨0x5A05, 0x0001, 0x0000, 0x0000⟩ = .ok (.vmode (.x 5) true) ∧
    decode ⟨0x1A40, 0x0000, 0x0000, 0x0000⟩ = .ok .vfence ∧
    decode ⟨0x5A85, 0x0000, 0x0000, 0x0000⟩ = .ok (.vstat (.x 5)) := by decide

theorem test_words_memory_1 :
    decode ⟨0x9C05, 0x1805, 0xFEDC, 0x0000⟩ = .ok (.ld (.x 5) (.x 6) 65244 .h .ef) ∧
    decode ⟨0x9C45, 0x1805, 0xFEDC, 0x0000⟩ = .ok (.lds (.x 5) (.x 6) 65244 .h .ef) ∧
    decode ⟨0x9C80, 0x1A75, 0xFEDC, 0x0000⟩ = .ok (.st (.x 6) (.y 7) 65244 .h .ef) ∧
    decode ⟨0x9CC0, 0x1A75, 0xFEDC, 0x0000⟩ = .ok (.stn (.x 6) (.y 7) 65244 true .ef) ∧
    decode ⟨0x9D05, 0x1A75, 0xFEDC, 0x0000⟩ = .ok (.ldx (.x 5) (.x 6) (.y 7) 65244 .h .ef) ∧
    decode ⟨0xDD40, 0x1A75, 0x2000, 0xFEDC⟩ = .ok (.stx (.x 6) (.y 7) (.x 8) 65244 .h .ef) ∧
    decode ⟨0x9D85, 0x1800, 0xFEDC, 0x0000⟩ = .ok (.ldf (.x 5) (.x 6) 65244) ∧
    decode ⟨0x9DC5, 0x1800, 0xFEDC, 0x0000⟩ = .ok (.ldfe (.x 5) (.x 6) 65244) ∧
    decode ⟨0x9E00, 0x1A70, 0xFEDC, 0x0000⟩ = .ok (.stf (.x 6) (.y 7) 65244) ∧
    decode ⟨0x9E40, 0x1801, 0xFEDC, 0x0000⟩ = .ok (.feset (.x 6) 65244 true) ∧
    decode ⟨0x9E85, 0x1800, 0xFEDC, 0x0000⟩ = .ok (.feget (.x 5) (.x 6) 65244) ∧
    decode ⟨0x9EC9, 0x1801, 0xFEDC, 0x0000⟩ = .ok (.vld 9 (.x 6) 65244 .ef) := by decide

theorem test_words_memory_2 :
    decode ⟨0x9F09, 0x1801, 0xFEDC, 0x0000⟩ = .ok (.vst 9 (.x 6) 65244 .ef) ∧
    decode ⟨0x9F59, 0x1A71, 0xFEDC, 0x0000⟩ = .ok (.vldx .w16 9 (.x 6) (.y 7) 65244 .ef) ∧
    decode ⟨0xDF80, 0x1A71, 0x7400, 0xFEDC⟩ = .ok (.vstx (.x 6) (.y 7) .w16 13 65244 .ef) ∧
    decode ⟨0x5FC5, 0x1A70, 0x0000, 0x0000⟩ = .ok (.bankrole (.x 5) (.x 6) (.y 7)) ∧
    decode ⟨0xA005, 0x1801, 0x0013, 0x0000⟩ = .ok (.stashmap (.x 5) (.x 6) 19 .ef) ∧
    decode ⟨0x6040, 0x1800, 0x0000, 0x0000⟩ = .ok (.stashwb (.x 6)) ∧
    decode ⟨0xA080, 0x0000, 0x1234, 0x0000⟩ = .ok (.wait 1 2 3 4) ∧
    decode ⟨0x60C5, 0x0000, 0x0000, 0x0000⟩ = .ok (.cntget (.x 5)) := by decide

theorem test_words_matrix :
    decode ⟨0xE200, 0x1803, 0x2064, 0x0003⟩ = .ok (.tmma (.x 6) (.x 8) 3 100 true 1) ∧
    decode ⟨0x6240, 0x1800, 0x0000, 0x0000⟩ = .ok (.tzero (.x 6)) ∧
    decode ⟨0x6280, 0x1A73, 0x0000, 0x0000⟩ = .ok (.tbld (.x 6) (.y 7) .ef 1) ∧
    decode ⟨0x62C0, 0x0003, 0x0000, 0x0000⟩ = .ok (.tbpass true 1) ∧
    decode ⟨0xE300, 0x1A70, 0x0005, 0xFEDC⟩ = .ok (.tdrain (.x 6) (.y 7) (.x 0) 65244 true false true) ∧
    decode ⟨0x2340, 0x0000, 0x0000, 0x0000⟩ = .ok .tfence ∧
    decode ⟨0x6385, 0x0006, 0x0000, 0x0000⟩ = .ok (.tstat (.x 5) true 2) ∧
    decode ⟨0x63C5, 0x1A70, 0x0000, 0x0000⟩ = .ok (.twgt (.x 5) (.x 6) (.y 7)) := by decide

theorem test_words_copy :
    decode ⟨0x6400, 0x5000, 0x0000, 0x0000⟩ = .ok (.cpy 5) ∧
    decode ⟨0x6445, 0x5000, 0x0000, 0x0000⟩ = .ok (.cpyt (.x 5) 5) ∧
    decode ⟨0x248C, 0x0000, 0x0000, 0x0000⟩ = .ok (.mbxpop 6) ∧
    decode ⟨0x24C0, 0x0000, 0x0000, 0x0000⟩ = .ok .wfm ∧
    decode ⟨0x6505, 0x1A70, 0x0000, 0x0000⟩ = .ok (.uien (.x 5) (.x 6) (.y 7)) ∧
    decode ⟨0x2540, 0x0000, 0x0000, 0x0000⟩ = .ok .uiret ∧
    decode ⟨0xA580, 0x1A70, 0xFEDC, 0x0000⟩ = .ok (.tokacc (.x 6) (.y 7) 65244) := by decide

theorem test_words_cache :
    decode ⟨0xA600, 0x1801, 0xFEDC, 0x0000⟩ = .ok (.pft (.x 6) 65244 .ef) ∧
    decode ⟨0x6645, 0x1800, 0x0000, 0x0000⟩ = .ok (.pinw (.x 5) (.x 6)) ∧
    decode ⟨0x6685, 0x1800, 0x0000, 0x0000⟩ = .ok (.pinq (.x 5) (.x 6)) ∧
    decode ⟨0x66C5, 0x1A71, 0x0000, 0x0000⟩ = .ok (.cwb (.x 5) (.x 6) (.y 7) true) ∧
    decode ⟨0x6705, 0x1A73, 0x0000, 0x0000⟩ = .ok (.cinv (.x 5) (.x 6) (.y 7) true true) ∧
    decode ⟨0x6740, 0x1A71, 0x0000, 0x0000⟩ = .ok (.tlbinv (.x 6) (.y 7) .range) := by decide

theorem test_words_ordering_1 :
    decode ⟨0x6800, 0x000A, 0x0000, 0x0000⟩ = .ok (.fence .d .rel) ∧
    decode ⟨0xA845, 0x1809, 0xFEDC, 0x0000⟩ = .ok (.ldacq (.x 5) (.x 6) 65244 .d .o) ∧
    decode ⟨0xA880, 0x1A79, 0xFEDC, 0x0000⟩ = .ok (.strel (.x 6) (.y 7) 65244 .d .o) ∧
    decode ⟨0xA8C5, 0x1A71, 0x0025, 0x0000⟩ = .ok (.aadd (.x 5) (.x 6) (.y 7) .d .o .acq .ef) ∧
    decode ⟨0xA905, 0x1A71, 0x0025, 0x0000⟩ = .ok (.aand (.x 5) (.x 6) (.y 7) .d .o .acq .ef) ∧
    decode ⟨0xA945, 0x1A71, 0x0025, 0x0000⟩ = .ok (.aor (.x 5) (.x 6) (.y 7) .d .o .acq .ef) ∧
    decode ⟨0xA985, 0x1A71, 0x0025, 0x0000⟩ = .ok (.axor (.x 5) (.x 6) (.y 7) .d .o .acq .ef) ∧
    decode ⟨0xA9C5, 0x1A71, 0x0025, 0x0000⟩ = .ok (.amin (.x 5) (.x 6) (.y 7) .d .o .acq .ef) ∧
    decode ⟨0xAA05, 0x1A71, 0x0025, 0x0000⟩ = .ok (.amax (.x 5) (.x 6) (.y 7) .d .o .acq .ef) ∧
    decode ⟨0xAA45, 0x1A71, 0x0025, 0x0000⟩ = .ok (.aminn (.x 5) (.x 6) (.y 7) .d .o .acq .ef) ∧
    decode ⟨0xAA85, 0x1A71, 0x0025, 0x0000⟩ = .ok (.amaxn (.x 5) (.x 6) (.y 7) .d .o .acq .ef) ∧
    decode ⟨0xAAC5, 0x1A71, 0x0025, 0x0000⟩ = .ok (.aswp (.x 5) (.x 6) (.y 7) .d .o .acq .ef) := by decide

theorem test_words_ordering_2 :
    decode ⟨0xEB05, 0x1891, 0x2025, 0xFEDC⟩ = .ok (.acas (.x 5) (.x 6) (.x 9) (.x 8) 65244 .d .o .acq .ef) ∧
    decode ⟨0xEB44, 0x2861, 0x2005, 0xFEDC⟩ = .ok (.acas2 (.x 4) (.x 10) (.x 6) (.x 8) 65244 .o .acq .ef) := by decide

theorem test_words_queue :
    decode ⟨0x6C05, 0x1A70, 0x0000, 0x0000⟩ = .ok (.enq (.x 5) (.x 6) (.y 7)) ∧
    decode ⟨0x2C40, 0x0000, 0x0000, 0x0000⟩ = .ok .qfence ∧
    decode ⟨0x6C85, 0x1800, 0x0000, 0x0000⟩ = .ok (.launch (.x 5) (.x 6)) ∧
    decode ⟨0x6CC5, 0x0002, 0x0000, 0x0000⟩ = .ok (.bar (.x 5) 2) ∧
    decode ⟨0x6D05, 0x1800, 0x0000, 0x0000⟩ = .ok (.qstat (.x 5) (.x 6)) := by decide

theorem test_words_graph :
    decode ⟨0x6E05, 0x1800, 0x0000, 0x0000⟩ = .ok (.glaunch (.x 5) (.x 6)) ∧
    decode ⟨0x6E45, 0x1A70, 0x0000, 0x0000⟩ = .ok (.gtok (.x 5) (.x 6) (.y 7)) ∧
    decode ⟨0x6E85, 0x1A70, 0x0000, 0x0000⟩ = .ok (.gexp (.x 5) (.x 6) (.y 7)) ∧
    decode ⟨0x6EC5, 0x1A71, 0x0000, 0x0000⟩ = .ok (.gstat (.x 5) (.x 6) (.y 7) true) ∧
    decode ⟨0x6F05, 0x1A70, 0x0000, 0x0000⟩ = .ok (.gcancel (.x 5) (.x 6) (.y 7)) ∧
    decode ⟨0x6F45, 0x1A70, 0x0000, 0x0000⟩ = .ok (.gretry (.x 5) (.x 6) (.y 7)) := by decide

theorem test_words_reuse :
    decode ⟨0x7005, 0x1800, 0x0000, 0x0000⟩ = .ok (.rulook (.x 5) (.x 6)) ∧
    decode ⟨0x7045, 0x1800, 0x0000, 0x0000⟩ = .ok (.ruput (.x 5) (.x 6)) ∧
    decode ⟨0x7085, 0x1800, 0x0000, 0x0000⟩ = .ok (.rudrop (.x 5) (.x 6) .key) ∧
    decode ⟨0x70C5, 0x1800, 0x0000, 0x0000⟩ = .ok (.rustat (.x 5) (.x 6)) := by decide

theorem test_words_agent :
    decode ⟨0x7205, 0x1800, 0x0000, 0x0000⟩ = .ok (.agnew (.x 5) (.x 6)) ∧
    decode ⟨0x7245, 0x1A70, 0x0000, 0x0000⟩ = .ok (.agstat (.x 5) (.x 6) (.y 7)) ∧
    decode ⟨0x7285, 0x1800, 0x0000, 0x0000⟩ = .ok (.evsend (.x 5) (.x 6)) ∧
    decode ⟨0x32C0, 0x0000, 0x0000, 0x0000⟩ = .ok .evdone ∧
    decode ⟨0x7305, 0x1A70, 0x0000, 0x0000⟩ = .ok (.ctxapp (.x 5) (.x 6) (.y 7)) ∧
    decode ⟨0x7345, 0x1A71, 0x0000, 0x0000⟩ = .ok (.ctxcut (.x 5) (.x 6) (.y 7) true) ∧
    decode ⟨0x7385, 0x1A70, 0x0000, 0x0000⟩ = .ok (.irrev (.x 5) (.x 6) (.y 7)) ∧
    decode ⟨0x73C5, 0x1800, 0x0000, 0x0000⟩ = .ok (.vtwin (.x 5) (.x 6)) ∧
    decode ⟨0x3400, 0x0000, 0x0000, 0x0000⟩ = .ok .gvtreq := by decide

theorem test_words_network :
    decode ⟨0x7605, 0x1801, 0x0000, 0x0000⟩ = .ok (.streamset (.x 5) (.x 6) 1) ∧
    decode ⟨0x7645, 0x0002, 0x0000, 0x0000⟩ = .ok (.mark (.x 5) 2) ∧
    decode ⟨0x7685, 0x1800, 0x0000, 0x0000⟩ = .ok (.coll (.x 5) (.x 6)) ∧
    decode ⟨0x76C5, 0x1800, 0x0000, 0x0000⟩ = .ok (.nstat (.x 5) (.x 6)) := by decide

theorem test_words_trap :
    decode ⟨0x7805, 0x1A70, 0x0000, 0x0000⟩ = .ok (.gangsw (.x 5) (.x 6) (.y 7)) ∧
    decode ⟨0x3840, 0x0000, 0x0000, 0x0000⟩ = .ok .dlchk ∧
    decode ⟨0x7885, 0x1800, 0x0000, 0x0000⟩ = .ok (.rplog (.x 5) (.x 6)) ∧
    decode ⟨0x78C5, 0x1800, 0x0000, 0x0000⟩ = .ok (.faultget (.x 5) (.x 6)) := by decide

theorem test_words_host :
    decode ⟨0x7A05, 0x1801, 0x0000, 0x0000⟩ = .ok (.biasf (.x 5) (.x 6) true) ∧
    decode ⟨0x7A45, 0x1A70, 0x0000, 0x0000⟩ = .ok (.hostsig (.x 5) (.x 6) (.y 7)) := by decide


/-! Ill-formed instructions: one for each check of `wellFormed`. -/

theorem test_refused_loop_port : wellFormed (.loop (.x 0) 0 1) = false ∧ wellFormed (.loop (.y 28) 0 1) = false := by decide

theorem test_refused_fields : wellFormed (.bfx (.x 1) (.x 2) 31 33 false) = false ∧ wellFormed (.bfi (.x 1) (.x 2) (.x 3) 63 1) = false := by
  decide

theorem test_refused_registers : wellFormed (.getc (.x 1) 0x00E) = false ∧ wellFormed (.setc (.x 1) (.x 2) 0x04F) = false ∧
    wellFormed (.getc (.x 1) 0x015) = false := by decide

theorem test_refused_masks : wellFormed (.mlog 1 2 3 .not) = false := by decide

theorem test_refused_lane_types : wellFormed (.vadd .w32 0 1 2 none .bf16) = false ∧ wellFormed (.vsub .w8 0 1 2 none .f16) = false ∧
    wellFormed (.vmul .w16 0 1 2 none .f32) = false ∧ wellFormed (.vfma .w64 0 1 2 3 none .f32) = false ∧
    wellFormed (.vmin .w32 0 1 2 none .f16) = false ∧ wellFormed (.vmax .w16 0 1 2 none .f32) = false ∧
    wellFormed (.vabs .w16 0 1 none .ns) = false ∧ wellFormed (.vabs .w16 0 1 none .f32) = false ∧
    wellFormed (.vcmp .w8 0 1 2 none .eq .fl) = false ∧ wellFormed (.vcmp .w32 0 1 2 none .eq .f16) = false ∧
    wellFormed (.vred .w16 0 1 .and none .bf16) = false ∧ wellFormed (.vred .w32 0 1 .add none .bf16) = false ∧
    wellFormed (.sfn .w16 0 1 .exp2 none .int) = false ∧ wellFormed (.sfn .w8 0 1 .exp2 none .f16) = false := by decide

theorem test_refused_lanes : wellFormed (.vins .w64 0 1 4 none 0) = false ∧ wellFormed (.vins .w16 0 1 0 none 1) = false ∧
    wellFormed (.vmovx (.x 1) 0 8 0 false 1) = false := by decide

theorem test_refused_load_ports : wellFormed (.ld (.y 28) (.x 1) 0 .d .none) = false ∧ wellFormed (.lds (.y 31) (.x 1) 0 .w .none) = false ∧
    wellFormed (.ldx (.y 29) (.x 1) (.x 2) 0 .d .none) = false ∧ wellFormed (.ldf (.y 28) (.x 1) 0) = false ∧
    wellFormed (.ldfe (.y 28) (.x 1) 0) = false ∧ wellFormed (.feget (.y 28) (.x 1) 0) = false ∧
    wellFormed (.ldacq (.y 28) (.x 1) 0 .d .c) = false ∧ wellFormed (.lds (.x 1) (.x 2) 0 .d .none) = false := by decide

/-- R241: D of ACAS2 may be an even register of the y bank. -/
theorem test_acas2_y : decode ⟨0xEB64, 0x2860, 0x2013, 0⟩ = .ok (.acas2 (.y 4) (.x 10) (.x 6) (.x 8) 0 .s .ar .none) ∧
    wellFormed (.acas2 (.y 5) (.x 10) (.x 6) (.x 8) 0 .s .ar .none) = false := by decide

theorem test_refused_atomics : wellFormed (.aadd (.y 28) (.x 1) (.x 2) .d .c .rlx .none) = false ∧
    wellFormed (.aswp (.y 30) (.x 1) (.x 2) .d .c .rlx .none) = false ∧
    wellFormed (.acas (.x 2) (.x 1) (.x 2) (.x 3) 0 .d .c .rlx .none) = false ∧
    wellFormed (.acas (.x 3) (.x 1) (.y 28) (.x 3) 0 .d .c .rlx .none) = false ∧
    wellFormed (.acas2 (.x 5) (.x 1) (.x 2) (.x 6) 0 .c .rlx .none) = false ∧
    wellFormed (.acas2 (.x 4) (.x 1) (.x 0) (.x 6) 0 .c .rlx .none) = false ∧
    wellFormed (.acas2 (.x 4) (.x 1) (.x 2) (.y 6) 0 .c .rlx .none) = false := by decide

theorem test_refused_units : wellFormed (.tmma (.x 1) (.x 2) 100 28 true 0) = false ∧
    wellFormed (.tdrain (.x 1) (.x 2) (.x 3) 0 false false false) = false ∧ wellFormed (.tstat (.x 1) false 3) = false ∧
    wellFormed (.tstat (.x 1) true 0) = false ∧ wellFormed (.mbxpop 15) = false ∧ wellFormed (.pft (.x 1) 0 .na) = false := by decide

theorem test_refused_status_ports : ([.enq (.y 28) (.x 1) (.x 2), .launch (.y 28) (.x 1), .bar (.y 28) 0, .qstat (.y 28) (.x 1),
    .glaunch (.y 28) (.x 1), .gtok (.y 28) (.x 1) (.x 2), .gexp (.y 28) (.x 1) (.x 2), .gstat (.y 28) (.x 1) (.x 2) true,
    .gcancel (.y 28) (.x 1) (.x 2), .gretry (.y 28) (.x 1) (.x 2), .rulook (.y 28) (.x 1), .ruput (.y 28) (.x 1), .rudrop (.y 28) (.x 1) .key,
    .rustat (.y 28) (.x 1), .agnew (.y 28) (.x 1), .agstat (.y 28) (.x 1) (.x 2), .evsend (.y 28) (.x 1), .ctxapp (.y 28) (.x 1) (.x 2),
    .ctxcut (.y 28) (.x 1) (.x 2) true, .irrev (.y 28) (.x 1) (.x 2), .vtwin (.y 28) (.x 1), .streamset (.y 28) (.x 1) 0, .mark (.y 28) 0,
    .coll (.y 28) (.x 1), .nstat (.y 28) (.x 1), .gangsw (.y 28) (.x 1) (.x 2), .rplog (.y 28) (.x 1), .faultget (.y 28) (.x 1),
    .biasf (.y 28) (.x 1) true, .hostsig (.y 28) (.x 1) (.x 2)] : List Instr).all (fun i => !wellFormed i) = true := by decide

theorem test_refused_operands : wellFormed (.gstat (.x 1) (.x 2) (.x 3) false) = false ∧ wellFormed (.rudrop (.x 1) (.x 2) .all) = false ∧
    wellFormed (.streamset (.x 1) (.x 0) 3) = false ∧ wellFormed (.mark (.x 1) 3) = false := by decide

/-- Words of such instructions, of a reserved code in a field, of a head with a wrong length and of an opcode that is none. -/
theorem test_refused_words :
    decode ⟨0x249E, 0, 0, 0⟩ = .error .illegalOp ∧ decode ⟨0x6800, 0x0000, 0, 0⟩ = .error .illegalOp ∧
    decode ⟨0x4EC5, 0x000E, 0, 0⟩ = .error .illegalOp ∧ decode ⟨0x7645, 0x0003, 0, 0⟩ = .error .illegalOp ∧
    decode ⟨0x6385, 0x0003, 0, 0⟩ = .error .illegalOp ∧ decode ⟨0x9C3C, 0x1805, 0, 0⟩ = .error .illegalOp ∧
    decode ⟨0x4040, 0, 0, 0⟩ = .error .illegalLen ∧ decode ⟨0x003F, 0, 0, 0⟩ = .error .illegalOp := by decide

end Sys2Proof

/-! Witnesses: concrete states and operands that meet the hypotheses of the statements. -/

namespace Sys2Proof.Tests
open Sys2Proof.Machine

-- One theorem after the other: many that wait for the kernel at once would each hold a thread of their own.
set_option Elab.async false

/-- A task of partition 0 at the first head of the line at address 64, at level S. -/
def slotS : Slot :=
  { Slot.idle 0 with st := .ready, pc := 65, npc := 66, lv := .s, task := { TaskInfo.empty with task := 5, ntask := 8 } }

def newt0 : NewtPart :=
  { store := 0x200000, size := 0x100000, cap := 16, pool := 8, next := 0, free := 0x80000, agents := [], nextEntry := 0, extCount := 0
    w0 := 16, w := 16, gvt := 0, round := 0, act := false, pend := false, pwait := [], told := false, period := 0, timerAt := 0
    ps := [], commitM := [], rings := [], domain := [(0, 0)], root := 0 }

/-- A partition with octet 0. -/
def part0 : Machine.Part :=
  { octets := [0], ptbase := 0x40000, tvec := 0x1001, tdeleg := 0, ctlOld := none, quota := 64, pins := [], overflow := 0, groups := [], newt := newt0
    armed := none, gang := .running, stoppedAt := 0, given := false, away := [], back := [], save := 0x300000, images := [], ckpts := [], octs := []
    feq := [], scan := none, sig := { base := 0, k := 10, pidx := 0, cidx := 4, p := 0, vectors := [] } }

/-- The module with one partition and one task, in slot 0 of core 0; `f` changes that slot. -/
def one (f : Slot → Slot) : State :=
  { State.reset with slots := [(0, f slotS)], octets := [(0, { Octet.reset with part := some 0 })], parts := [(0, part0)] }

/-- A slot's scalar registers set to values. -/
def setX (l : List (Nat × Word)) (sl : Slot) : Slot :=
  { sl with regs := { sl.regs with x := l.foldl (fun v e => v.setIfInBounds e.1 e.2) sl.regs.x } }

/-- Slot 7 of core 0 runs the communication task, with a word at port y28. -/
def atPorts : State :=
  { State.reset with
    cur := 7, slots := [(7, slotS)], parts := [(0, part0)]
    cores := [(0, { CoreState.reset with net := { NetCore.empty with intake := #v[[9], [], []] } })] }


/-! Integer instructions, traps, control flow and control registers. -/

theorem test_hyps_IntegerOperations : (one id).able [.x 1, .y 27] [.x 0] ∧ atPorts.able [.y 28, .x 1] [.y 30] := by
  refine ⟨⟨?_, ?_⟩, ?_, ?_⟩ <;> decide

theorem test_hyps_ImmediateOperations : ((one id).able [.x 31] [.y 0] ∧ atPorts.able [.y 28] [.y 29]) ∧ (one id).able [] [.x 1] := by
  refine ⟨⟨⟨?_, ?_⟩, ?_, ?_⟩, ?_, ?_⟩ <;> decide

theorem test_hyps_CountsAndFields : (one id).able [.x 1] [.x 2] ∧ (one id).able [.x 1, .x 2, .x 3] [.x 2] ∧
    (0 : BitVec 6).toNat + (63 : BitVec 6).toNat < 64 ∧ (63 : BitVec 6).toNat + (0 : BitVec 6).toNat < 64 := by
  refine ⟨⟨?_, ?_⟩, ⟨?_, ?_⟩, ?_, ?_⟩ <;> decide

theorem test_hyps_MaskInstructions : (one id).able [] [] ∧ (one id).able [.x 1] [] ∧ atPorts.able [] [.y 28] := by
  refine ⟨⟨?_, ?_⟩, ⟨?_, ?_⟩, ?_, ?_⟩ <;> decide

/-- A task at level U with its own handler for TRAP_INSN. -/
def ownHandler : State :=
  { one (fun sl => { sl with lv := .u, ctl := { sl.ctl with utvec := 0x2001 } }) with
    parts := [(0, { part0 with tdeleg := 0x10000 })] }

def aTrap : Trap := { code := .trapInsn, pc := 65, epc := 66 }

theorem test_hyps_TrapEntersItsHandler :
    (aTrap.code ≠ .purity ∧ (ownHandler.slot 0).inh = false ∧ (ownHandler.slot 0).lv = .u ∧
      (ownHandler.tdelegOf 0).getLsbD aTrap.code.num = true ∧ (ownHandler.slot 0).ctl.utvec ≠ 0) ∧
    (((one id).slot 0).inh = false ∧ ((one id).slot 0).lv = .s ∧ (one id).tvecOf 0 ≠ 0) := by decide

theorem test_hyps_TrapAtM : aTrap.code ≠ .purity ∧ ((one fun sl => { sl with lv := .m }).slot 0).inh = false ∧
    ((one fun sl => { sl with lv := .m }).slot 0).lv = .m := by decide

/-- A task in its trap handler: EST holds INH and a previous level. -/
def inHandler : State :=
  one fun sl => { sl with trap := sl.trap.set 0 0x10, ctl := { sl.ctl with est := 0b0100, epc := 66 } }

theorem test_hyps_TrapWithoutHandler : aTrap.code ≠ .purity ∧ (inHandler.slot 0).inh = true ∧
    (({ one id with parts := [] }).slot 0).lv ≠ .m ∧ ({ one id with parts := [] }).tvecOf 0 = 0 ∧
    (({ one id with parts := [] }).slot 0).lv ≠ .u := by decide

theorem test_hyps_Eret : ((inHandler.slot inHandler.cur).inh = true ∧ (inHandler.slot inHandler.cur).st = .ready ∧
    (inHandler.slot inHandler.cur).hold = .none) ∧ ((one id).slot (one id).cur).inh = false := by decide

theorem test_hyps_Halt : ((one id).slot (one id).cur).inh = false ∧
    (inHandler.slot inHandler.cur).inh = true ∧ fld ((inHandler.slot inHandler.cur).trap.getD 0 0) 7 0 = TrapCode.trapInsn.num := by
  decide

theorem test_hyps_ManagementController :
    let s := one fun sl => { sl with lv := .m, st := .stall, hold := .mgmt, trap := sl.trap.set 0 0x10 }
    (s.slot (8 * 0 + 0)).st = .stall ∧ (s.slot (8 * 0 + 0)).hold = .mgmt ∧
      fld ((s.slot (8 * 0 + 0)).trap.getD 0 0) 7 0 = TrapCode.trapInsn.num := by decide

theorem test_hyps_Branches : (one id).able [] [] ∧ (one id).able [] [.x 1] ∧ (one id).able [.x 1] [.x 1] ∧
    (one id).able [.x 1, .x 2] [] ∧ (one id).able [.x 1] [] ∧ plainReg (.y 27) = true ∧ Reg.y 27 ≠ .x 0 ∧
    (∀ c, Taken c (0x8000000000000000 : Word) 5 ∨ ¬ Taken c 0x8000000000000000 5) ∧ Taken .lt (0x8000000000000000 : Word) 5 ∧
    ¬ Taken .ltn (0x8000000000000000 : Word) 5 := by
  refine ⟨⟨?_, ?_⟩, ⟨?_, ?_⟩, ⟨?_, ?_⟩, ⟨?_, ?_⟩, ⟨?_, ?_⟩, ?_, ?_, fun c => Classical.em _, ?_, ?_⟩ <;>
    first | decide | (unfold Taken; decide)

theorem test_hyps_NextHead : (1 ≤ fld (0x41 : Word) 5 0 ∧ fld (0x41 : Word) 5 0 < 31 ∧ 31 ≤ 31) ∧
    (1 ≤ fld (0xFFFFFFFFFFFFFFDF : Word) 5 0 ∧ fld (0xFFFFFFFFFFFFFFDF : Word) 5 0 = 31) := by decide

theorem test_hyps_Park : (one id).able [] [] ∧ ((one fun sl => { sl with wp := true }).slot 0).wp = true ∧
    ((one id).slot 0).wp = false := by
  refine ⟨⟨?_, ?_⟩, ?_, ?_⟩ <;> decide

/-- The running slot holds `a` in x1. -/
def oneX (a : Word) : State := one (setX [(1, a)])

/-- Slot 1 of core 0 has parked in PARK. -/
def twoSlots : State :=
  { oneX 1 with slots := [(0, setX [(1, 1)] slotS), (1, { slotS with st := .parked, park := .park })] }

theorem test_hyps_Wake :
    (twoSlots.able [.x 1] [.x 2] ∧ (twoSlots.slot twoSlots.cur).st = .ready ∧ fld (twoSlots.rv (.x 1)) 63 3 = 0 ∧
      fld (twoSlots.rv (.x 1)) 2 0 = 1 ∧ (twoSlots.slot 1).st = .parked ∧ (twoSlots.slot 1).park = .park ∧
      (twoSlots.slot 1).unstepped = true) ∧
    ((oneX 8).able [.x 1] [.x 2] ∧ fld ((oneX 8).rv (.x 1)) 63 3 ≠ 0) ∧
    ((oneX 1).able [.x 1] [.x 2] ∧ ((oneX 1).slot (8 * ((oneX 1).cur / 8) + fld ((oneX 1).rv (.x 1)) 2 0)).st = .idle) ∧
    ((oneX 0).able [.x 1] [.x 2] ∧ ((oneX 0).slot (8 * ((oneX 0).cur / 8) + fld ((oneX 0).rv (.x 1)) 2 0)).st = .ready) := by
  refine ⟨⟨⟨?_, ?_⟩, ?_, ?_, ?_, ?_, ?_, ?_⟩, ⟨⟨?_, ?_⟩, ?_⟩, ⟨⟨?_, ?_⟩, ?_⟩, ⟨?_, ?_⟩, ?_⟩ <;> decide

/-- Core 3 has reached its barrier, and a frame boundary is there. -/
def atBarrier : State :=
  { one id with dclk := 64, cores := [(3, { CoreState.reset with barrier := some (resetTable, true), wantTbl := true })] }

theorem test_hyps_IssueTable :
    ((oneX 0x0F8F).able [.x 1] [.x 2] ∧ ((oneX 0x0F8F).slot 0).lv ≠ .u ∧
      badEntry (((oneX 0x0F8F).rv (.x 1)).extractLsb' (8 * 0) 8) = true) ∧
    ((oneX 0x7777777777777788).able [.x 1] [.x 2] ∧
      ∀ j, j < 8 → badEntry (((oneX 0x7777777777777788).rv (.x 1)).extractLsb' (8 * j) 8) = false) ∧
    ((one id).able [] [.x 2] ∧ ((one id).core 0).ahEff = false) ∧
    ((atBarrier.core 3).barrier = some (resetTable, true) ∧ atBarrier.dclk % 32 = 0 ∧ atBarrier.sched.begun = false ∧
      (atBarrier.core 3).wantTbl = true) := by
  refine ⟨⟨⟨?_, ?_⟩, ?_, ?_⟩, ⟨⟨?_, ?_⟩, ?_⟩, ⟨⟨?_, ?_⟩, ?_⟩, ?_, ?_, ?_, ?_⟩ <;> decide

/-- The running task is at level U. -/
def atU : State := one fun sl => { sl with lv := .u }

/-- The running task is in pure mode. -/
def atPure : State := one fun sl => { sl with task := { sl.task with pure := true } }

theorem test_hyps_SupervisorInstructions : (atU.slot atU.cur).lv = .u := by decide

theorem test_hyps_Getc : (one id).able [] [.x 2] ∧ ((one id).slot (one id).cur).lv ≠ .u ∧
    ((one id).slot (one id).cur).task.pure = false ∧ ((one id).slot (one id).cur).task.evt = none ∧
    (one id).part? ((one id).slot (one id).cur).task.part = some part0 ∧ ((one id).slot (one id).cur).mbox.length < 256 := by
  refine ⟨⟨?_, ?_⟩, ?_, ?_, ?_, ?_, ?_⟩ <;> decide

/-- The running task at level M holds `a` in x1. -/
def atM (a : Word) : State := one fun sl => { setX [(1, a)] sl with lv := .m }

theorem test_hyps_Setc : (atM 0xFFFE).able [.x 1] [.x 2] ∧ ((atM 0xFFFE).slot (atM 0xFFFE).cur).lv = .m ∧
    ((atM 0xFFFE).slot (atM 0xFFFE).cur).task.pure = false ∧ ((atM 0xFFFE).rv (.x 1)).getLsbD 0 = false ∧
    (0x009 : BitVec 10).toNat ∉ [0x000] ∧ (0x04E : BitVec 10).toNat ∈ [0x04A, 0x04E] := by
  refine ⟨⟨?_, ?_⟩, ?_, ?_, ?_, ?_, ?_⟩ <;> decide

theorem test_hyps_ControlRegisterLevels :
    ((atU.slot atU.cur).lv = .u ∧ (atU.slot atU.cur).ctl.est.getLsbD 3 = false) ∧ ((one id).slot (one id).cur).lv = .s ∧
    ((atPure.slot atPure.cur).task.pure = true ∧ atPure.portCheck atPure.cur [.x 1] [.x 2] = .ok ∧
      atPure.portCheck atPure.cur [] [.x 2] = .ok) := by decide

theorem test_hyps_RegisterWrites : 7 < 8 ∧ ((one id).slot (8 * 0 + 0)).live = true ∧ ((one id).slot (8 * 0 + 0)).lv ≠ .u ∧
    ((one id).slot 7).live = false ∧ (atPorts.slot 7).live = true ∧ (atPorts.slot (8 * 0 + 7)).lv ≠ .u := by decide

/-! Memory, full/empty words, atomics, counters and banks. -/

/-- x1 holds the own-core address of local-memory offset `off`, x2 holds `b`. -/
def atLm (off : Nat) (b : Word) : State := one (setX [(1, 0x00FFFF0000000000 + BitVec.ofNat 64 off), (2, b)])

theorem atLm_slot (off : Nat) (b : Word) :
    (atLm off b).slot (atLm off b).cur = setX [(1, 0x00FFFF0000000000 + BitVec.ofNat 64 off), (2, b)] slotS := rfl

/-- The running slot may access `n` bytes at offset `off` of its own local memory. -/
theorem inOwn (off n : Nat) (b : Word) (h : off % n = 0 ∧ off + n ≤ 0x20000 ∧
    (atLm off b).role 0 (off / 0x1000) = 0 ∧ (0x00FFFF0000000000 + BitVec.ofNat 64 off : Word).toNat = 0x00FFFF0000000000 + off) :
    InOwnMemory (atLm off b) (0x00FFFF0000000000 + BitVec.ofNat 64 off) n (lmAddr 0 off) where
  core := (by decide : 0 < 65536)
  place := ⟨off, by rw [show (atLm off b).cur = 0 from rfl], h.1, h.2.1, .inl h.2.2.2, .inl (by rw [show (atLm off b).cur = 0 from rfl]; exact h.2.2.1)⟩
  idle := by rw [atLm_slot]; rfl
  counts := by rw [atLm_slot]; exact (by decide : 0 < 15 ∧ 0 < 15)
  alive := by rw [atLm_slot]; rfl

theorem test_hyps_Loads :
    ((atLm 0x1FFF8 1).able [.x 1] [.x 3] ∧ (atLm 0x1FFF8 1).able [.x 1, .x 0] [.x 3] ∧
      (atLm 0x1FFF8 1).rv (.x 1) + BitVec.ofInt 64 (0 : BitVec 16).toInt = 0x00FFFF0000000000 + BitVec.ofNat 64 0x1FFF8 ∧
      (atLm 0x1FFF8 1).rv (.x 1) + BitVec.ofInt 64 (0 : BitVec 16).toInt + BitVec.ofNat 64 (((atLm 0x1FFF8 1).rv (.x 0)).toNat * 8) =
        0x00FFFF0000000000 + BitVec.ofNat 64 0x1FFF8 ∧
      InOwnMemory (atLm 0x1FFF8 1) (0x00FFFF0000000000 + BitVec.ofNat 64 0x1FFF8) 8 (lmAddr 0 0x1FFF8)) ∧
    (atLm 0x1FFF8 1).poisoned (lmAddr 0 0x1FFF8) 8 = false ∧
    ({ atLm 0x1FFF8 1 with mm := { (one id).mm with poison := [lmAddr 0 0x1FFF8] } }).poisoned (lmAddr 0 0x1FFF8) 8 = true ∧
    size2Bytes .w * 2 = size2Bytes .d := by
  refine ⟨⟨⟨?_, ?_⟩, ⟨?_, ?_⟩, ?_, ?_, inOwn _ _ _ ?_⟩, ?_, ?_, ?_⟩ <;> decide

theorem test_hyps_Stores :
    ((atLm 0 1).able [.x 1, .x 2] [] ∧ (atLm 0 1).able [.x 1, .x 0, .x 2] [] ∧
      InOwnMemory (atLm 0 1) (0x00FFFF0000000000 + BitVec.ofNat 64 0) 8 (lmAddr 0 0) ∧
      InOwnMemory (atLm 0 1) (0x00FFFF0000000000 + BitVec.ofNat 64 0) 1 (lmAddr 0 0)) ∧
    (atLm 0 1).poisoned (lmAddr 0 0) 1 = false ∧ (atLm 0 1).mm.feq = [] ∧ (atLm 0 1).able [.x 1] [] := by
  refine ⟨⟨⟨?_, ?_⟩, ⟨?_, ?_⟩, inOwn _ _ _ ?_, inOwn _ _ _ ?_⟩, ?_, ?_, ?_, ?_⟩ <;> decide

theorem test_hyps_FullEmpty :
    InOwnMemory (atLm 8 1) (0x00FFFF0000000000 + BitVec.ofNat 64 8) 8 (lmAddr 0 8) ∧ (atLm 8 1).mm.feq = [] ∧
    (atLm 8 1).able [.x 1] [.x 3] ∧ (atLm 8 1).able [.x 1, .x 2] [] ∧ lmAddr 0 8 ∉ (atLm 8 1).mm.full ∧
    lmAddr 0 8 ∈ ({ atLm 8 1 with mm := { (one id).mm with full := [lmAddr 0 8] } }).mm.full ∧
    ({ atLm 8 1 with mm := { (one id).mm with full := [lmAddr 0 8] } }).poisoned (lmAddr 0 8) 8 = false := by
  refine ⟨inOwn _ _ _ ?_, ?_, ⟨?_, ?_⟩, ⟨?_, ?_⟩, ?_, ?_, ?_⟩ <;> decide

theorem test_hyps_Atomics :
    ((atLm 0x1FFF0 1).slot (atLm 0x1FFF0 1).cur).task.pure = false ∧ (atLm 0x1FFF0 1).able [.x 1, .x 2] [.x 3] ∧
    InOwnMemory (atLm 0x1FFF0 1) (0x00FFFF0000000000 + BitVec.ofNat 64 0x1FFF0) 16 (lmAddr 0 0x1FFF0) ∧
    InOwnMemory (atLm 0x1FFF0 1) (0x00FFFF0000000000 + BitVec.ofNat 64 0x1FFF0) 4 (lmAddr 0 0x1FFF0) ∧
    (atLm 0x1FFF0 1).poisoned (lmAddr 0 0x1FFF0) 16 = false ∧ (atLm 0x1FFF0 1).able [.x 1, .x 2, .x 4] [.x 3] ∧
    (atLm 0x1FFF0 1).able [.x 1] [.x 3] ∧ wellFormed (.acas (.x 3) (.x 1) (.x 2) (.x 4) 0 .w .s .ar .ef) = true ∧
    wellFormed (.acas2 (.x 4) (.x 1) (.x 2) (.x 6) 0 .s .ar .ef) = true := by
  refine ⟨?_, ⟨?_, ?_⟩, inOwn _ _ _ ?_, inOwn _ _ _ ?_, ?_, ⟨?_, ?_⟩, ⟨?_, ?_⟩, ?_, ?_⟩ <;> decide

/-- A piece of the page at 0 with C = 1. -/
def piece (pa n : Nat) (va : Word) : Piece := { pa := pa, n := n, va := va, place := .dev, cached := true, ver := false, stash := none }

def anAccess (k : AccKind) (pa n w : Nat) (va : Word) : Access :=
  { id := 4, kind := k, parts := [piece pa n va], left := [0], got := [[]], va := va, home := false, write := k.cnt = .st, word := w
    hint := .ef, scopeS := false, hold := false, pc := 65, issued := 0, queued := false, leaving := false }

def pending (k : AccKind) : State :=
  one fun sl => { sl with pend := [anAccess k (devEnd - 8) 8 0 0x8000], cnt := { sl.cnt with ld := 1 } }

theorem outstanding (k : AccKind) :
    Outstanding (pending k) (8 * 0 + 0) 4 (anAccess k (devEnd - 8) 8 0 0x8000) (piece (devEnd - 8) 8 0x8000) where
  here := rfl
  parts := ⟨rfl, rfl, rfl, rfl, by decide, by decide, by decide⟩
  first b h := absurd h (by simp [pending, one, anAccess, State.slot, look])
  still := rfl
  slot := ⟨rfl, rfl, rfl⟩

theorem test_hyps_OutstandingAccesses :
    (Outstanding (pending (.load (.x 3) true)) (8 * 0 + 0) 4 (anAccess (.load (.x 3) true) (devEnd - 8) 8 0 0x8000)
        (piece (devEnd - 8) 8 0x8000) ∧
      (piece (devEnd - 8) 8 0x8000).cached = true ∧ (pending (.load (.x 3) true)).poisoned (devEnd - 8) 8 = false) ∧
    (Outstanding (pending (.store [1, 2, 3, 4, 5, 6, 7, 8])) (8 * 0 + 0) 4
        (anAccess (.store [1, 2, 3, 4, 5, 6, 7, 8]) (devEnd - 8) 8 0 0x8000) (piece (devEnd - 8) 8 0x8000) ∧
      [1, 2, 3, 4, 5, 6, 7, 8].length = (piece (devEnd - 8) 8 0x8000).n ∧
      ((pending (.store [1, 2, 3, 4, 5, 6, 7, 8])).slot (8 * 0 + 0)).task.evt = none) :=
  ⟨⟨outstanding _, rfl, by decide⟩, outstanding _, rfl, rfl⟩

/-- A load of the FULL word at offset 8 of core 1 is under way. -/
def remoteFe : State :=
  { one (fun sl => { sl with st := .stall, pend := [anAccess (.ldf (.x 3) true) (lmAddr 1 8) 8 (lmAddr 1 8) 0x00FF000000020008] }) with
    mm := { (one id).mm with full := [lmAddr 1 8] } }

theorem test_hyps_RemoteFullEmpty :
    let a := anAccess (.ldf (.x 3) true) (lmAddr 1 8) 8 (lmAddr 1 8) 0x00FF000000020008
    ((remoteFe.slot (8 * 0 + 0)).pend = [a] ∧ a.id = 4 ∧ a.kind = .ldf (.x 3) true ∧ a.queued = false ∧ a.left = [0] ∧
      a.parts.map (·.pa) = [a.word]) ∧
    lmBase ≤ lmAddr 1 8 ∧ lmAddr 1 8 + 8 ≤ lmEnd ∧ lmAddr 1 8 % 8 = 0 ∧
    remoteFe.role (lmCore (lmAddr 1 8)) (lmBank (lmAddr 1 8)) = 0 ∧ remoteFe.pageBusy (lmAddr 1 8) = false ∧ remoteFe.mm.feq = [] ∧
    (remoteFe.slot (8 * 0 + 0)).unstepped = true ∧ lmAddr 1 8 ∈ remoteFe.mm.full ∧ remoteFe.poisoned (lmAddr 1 8) 8 = false ∧
    lmAddr 1 8 ∉ ({ remoteFe with mm := (one id).mm } : State).mm.full := by decide

/-- Page tables that map the last 64 KiB page of device memory at address 0x10000: entry 0, 0, 0, 1 of the four tables. -/
def tables : State :=
  { one id with mm := { (one id).mm with bytes :=
      [(0x40000, 3), (0x40001, 0), (0x40002, 5), (0x50000, 3), (0x50002, 6), (0x60000, 3), (0x60002, 7), (0x70008, 0x7D),
        (0x7000A, 0xFF), (0x7000B, 0xFF), (0x7000C, 0x2F)] } }

theorem test_hyps_PageWalk :
    tables.part? 0 = some part0 ∧ fld (part0.ctlAt tables.dclk).1 55 16 * 65536 = 0x40000 ∧ 0x40000 < devEnd ∧ tables.poisoned 0x40000 8 = false ∧
    tables.rdWord 0x40000 = 0x50003 ∧ IsTable (tables.rdWord 0x40000) ∧ tables.poisoned 0x50000 8 = false ∧
    IsTable (tables.rdWord 0x50000) ∧ IsTable (tables.rdWord 0x60000) ∧ tables.poisoned 0x60000 8 = false ∧
    tables.poisoned 0x70008 8 = false ∧ tables.rdWord 0x70008 = 0x2FFFFF007D ∧ fld (tables.rdWord 0x70008) 55 12 * 4096 % 2 ^ 16 = 0 ∧
    fld (tables.rdWord 0x70008) 11 10 = 0 ∧ fld (tables.rdWord 0x70008) 55 12 * 4096 + 2 ^ 16 ≤ devEnd ∧
    (one id).rdWord 0x40000 = 0 := by
  refine ⟨?_, ?_, ?_, ?_, ?_, ⟨?_, ?_, ?_, ?_⟩, ?_, ⟨?_, ?_, ?_, ?_⟩, ⟨?_, ?_, ?_, ?_⟩, ?_, ?_, ?_, ?_, ?_, ?_, ?_⟩ <;> decide

/-- The slot of `tables` waits for `r`. -/
def waitsFor (r : Req) : State := { tables with slots := [(0, { slotS with st := .stall, req := some r })] }

/-- The leaf that maps 0x10000. -/
def leaf1 : Tlb :=
  { part := 0, vbase := 0x10000, size := 0x10000
    leaf := { pbase := 0x2FFFFF0000, tgt := 0, level := 4, sealed_ := false, ver := false, c := true, u := true, x := true, w := true
              r := true, scnt := 0 } }

theorem test_hyps_Requests :
    (((waitsFor (.walk 0x10040 0 0x40000)).slot (8 * 0 + 0)).req = some (.walk 0x10040 0 0x40000) ∧
      (waitsFor (.walk 0x10040 0 0x40000)).walkBusy 0x40000 0x10040 = false ∧
      (waitsFor (.walk 0x10040 0 0x40000)).walkAt 0x40000 0 0x10040 = .leaf leaf1 ∧
      leafCheck .s (Acc.ofCode 0) 0x10040 leaf1.leaf = none ∧ leaf1.part = 0 ∧ leaf1.vbase ≤ (0x10040 : Word).toNat ∧
      (0x10040 : Word).toNat < leaf1.vbase + leaf1.size) ∧
    (∃ f, leafCheck .u (Acc.ofCode 1) 0x10040 { leaf1.leaf with w := false } = some f) ∧
    (waitsFor (.walk 0x20040 0 0x40000)).walkAt 0x40000 0 0x20040 = .fault .translation 0x20040 0x402 ∧
    (((waitsFor (.line 0x1000 true true)).slot (8 * 0 + 0)).req = some (.line 0x1000 true true) ∧
      (waitsFor (.line 0x1000 true true)).pageBusy 0x1000 = false) ∧
    (((waitsFor (.own 0x1000 none)).slot (8 * 0 + 0)).req = some (.own 0x1000 none) ∧
      (waitsFor (.own 0x1000 none)).pageBusy 0x1000 = false) := by
  refine ⟨?_, ⟨_, rfl⟩, ?_, ?_, ?_⟩ <;> decide

/-- Bank 3 of core 0 is a stash bank mapped to the page at 0x10000, and the slot waits for its line 0. -/
def stashed : State :=
  { waitsFor (.stash 3 0 0) with
    cores := [(0, { CoreState.reset with brole := 0x80, stash := [(3, { base := 0x10000, hint := .ef, lines := [] })] })]
    octets := [(0, { Octet.reset with part := some 0, tlb := [leaf1] })] }

/-- The bank holds its line 0, and the slot waits to own it. -/
def stashOwns : State :=
  { stashed with
    slots := [(0, { slotS with st := .stall, req := some (.own 0x2FFFFF0000 (some (3, 0))) })]
    cores := [(0, { CoreState.reset with
      brole := 0x80, stash := [(3, { base := 0x10000, hint := .ef, lines := [(0, 0x2FFFFF0000, false, false)] })] })] }

theorem test_hyps_StashFill :
    ((stashed.slot (8 * 0 + 0)).req = some (.stash 3 0 0) ∧ stashed.stashBusy 0 0 3 0 = false ∧
      get? (stashed.core 0).stash 3 = some { base := 0x10000, hint := .ef, lines := [] } ∧
      ∃ p, (stashed.xlateNow 0 0 .s .r (0x10000 + BitVec.ofNat 64 0)).1 = .ok p ∧ p.place ≠ .hostP ∧ lineAddr p.pa = 0x2FFFFF0000) ∧
    (stashOwns.slot (8 * 0 + 0)).req = some (.own 0x2FFFFF0000 (some (3, 0))) ∧ stashOwns.pageBusy 0x2FFFFF0000 = false ∧
    (stashOwns.stashWriteFault 0 (stashOwns.slot 0).task .s 3 0).1 = none ∧
    get? (stashOwns.core 0).stash 3 = some { base := 0x10000, hint := .ef, lines := [(0, 0x2FFFFF0000, false, false)] } := by
  refine ⟨⟨?_, ?_, ?_, _, rfl, ?_, ?_⟩, ?_⟩ <;> decide

/-! Waits, banks, ports, late traps, retirement, conversions. -/

def event0 : NEvent :=
  { num := 0, place := 0
    msg := { ts := 5, sel := 1, ext := false, col := false, sign := false, rcv := 0, seq := 3, snd := 1, stime := 4
             pay := List.replicate 32 0 }
    st := .opened 0, lvt0 := 0, ccur0 := 0, copies := [], log := [], faulted := false }

/-- An agent with room everywhere, idle. -/
def agent0 : Agent :=
  { lvt := 0, lastf := 0, flt := false, st := .idle, home := 0, htab := 0x90000, sbase := 0xA0000, sbytes := 0x1000, cbase := 0xB0000
    ccur := 0, ccom := 0, eq := 0, ol := 0, nproc := 0, nanti := 0, nroll := 0, tenant := 0, olcap := 16, eqcap := 16, nseq := 0
    ccap := 16, events := [], owed := 0, rb := none }

def agentOpen : Agent := { agent0 with st := .opened, lvt := 5, eq := 1, events := [event0] }

/-- The partition has agent 0, and the running task handles its event 0. -/
def handling (f : Slot → Slot) : State :=
  { one (fun sl => f { sl with task := { sl.task with evt := some 0, agent := 0 } }) with
    parts := [(0, { part0 with newt := { newt0 with next := 1, agents := [(0, agentOpen)] } })] }

theorem test_hyps_GranuleCopy :
    let s := handling fun sl => { sl with st := .stall, req := some (.granule 0x1080) }
    (s.slot (8 * 0 + 0)).req = some (.granule 0x1080) ∧ (s.slot (8 * 0 + 0)).task.evt = some 0 ∧
    s.part? 0 = some { part0 with newt := { newt0 with next := 1, agents := [(0, agentOpen)] } } ∧
    get? ([(0, agentOpen)] : AMap Agent) 0 = some agentOpen ∧
    NewtPart.used { newt0 with next := 1, agents := [(0, agentOpen)] } < newt0.pool := by decide

theorem test_hyps_CountersAndFences : (one id).able [] [] ∧ (one id).able [] [.x 3] ∧
    ((one id).slot 0).cnt.ld ≤ (0 : BitVec 4).toNat ∧ ((one id).slot 0).cnt.tl ≤ (15 : BitVec 4).toNat ∧ ((one id).slot 0).pend = [] ∧
    ¬ ((pending (.load (.x 3) true)).slot 0).cnt.ld ≤ (0 : BitVec 4).toNat ∧ (pending (.load (.x 3) true)).able [] [] ∧
    (∃ a ∈ ((pending (.load (.x 3) true)).slot 0).pend, a.kind.cnt = .ld) := by
  refine ⟨⟨?_, ?_⟩, ⟨?_, ?_⟩, ?_, ?_, ?_, ?_, ⟨?_, ?_⟩, ?_⟩ <;> decide

/-- x1 holds `a`, x2 holds `b`, and bank 3 of core 0 has role 2 and is a stash bank whose line 31 is as `dirty` says. -/
def banks (a b : Word) (dirty : Bool) : State :=
  { one (setX [(1, a), (2, b)]) with
    cores := [(0, { CoreState.reset with
      brole := 0x80, stash := [(3, { base := 0x10000, hint := .ef, lines := [(31, 0x2FFFFF0F80, true, dirty)] })] })] }

theorem test_hyps_BanksAndStash :
    ((banks 0x55 0xFFFFFFFF true).slot 0).task.pure = false ∧ (banks 0x55 0xFFFFFFFF true).able [.x 1, .x 2] [.x 3] ∧
    (banks 0x55 0xFFFFFFFF true).able [.x 1] [.x 3] ∧ (banks 0x55 0xFFFFFFFF true).role 0 (31 : BitVec 5).toNat ≠ 2 ∧
    (banks 0x20800 0 true).role 0 (3 : BitVec 5).toNat = 2 ∧ fld ((banks 0x20800 0 true).rv (.x 1)) 11 0 ≠ 0 ∧
    fld ((banks 0xFF000000020000 0 true).rv (.x 1)) 63 48 = 0xFF ∧ fld ((banks 0x00FE000000020000 0 true).rv (.x 1)) 63 48 ≠ 0xFF ∧
    fld ((banks 0x00FE000000020000 0 true).rv (.x 1)) 63 56 = 0 ∧ fld ((banks 0x00FE000000020000 0 true).rv (.x 1)) 11 0 = 0 ∧
    ((banks 8 0 true).slot 0).cnt.st < 15 ∧ (banks 8 0 true).able [.x 1] [] ∧ ((banks 8 0 true).rv (.x 1)).getLsbD 3 = true ∧
    (∃ e ∈ ((banks 8 0 true).core 0).stash, e.1 = 3 ∧ ∃ l ∈ e.2.lines, l.2.2.2 = true) ∧
    (∀ e ∈ ((banks 8 0 false).core 0).stash, ∀ l ∈ e.2.lines, l.2.2.2 = false) := by
  refine ⟨?_, ⟨?_, ?_⟩, ⟨?_, ?_⟩, ?_, ?_, ?_, ?_, ?_, ?_, ?_, ?_, ⟨?_, ?_⟩, ?_, ?_, ?_⟩ <;> decide

theorem test_hyps_Ports : 7 < 8 ∧ (2 : BitVec 2).toNat < 3 ∧ (atPorts.slot (8 * 0 + 7)).st = .ready ∧
    atPorts.portCheck (8 * 0 + 7) [.y (BitVec.ofNat 5 (28 + (0 : BitVec 2).toNat))] [.x 1] = .ok ∧
    atPorts.portCheck (8 * 0 + 7) [] [.y (BitVec.ofNat 5 (28 + (2 : BitVec 2).toNat))] = .ok := by decide

/-- A handler slot with an open event may pop y31. -/
def atEventPort : State := { handling id with cores := [(0, { CoreState.reset with duties := #v[2, 0, 0, 0, 2, 2] })]
                                              slots := [(0, { ((handling id).slot 0) with dutyCode := 2 })] }

theorem test_hyps_EventPort : (atEventPort.slot (8 * 0 + 0)).st = .ready ∧
    atEventPort.portCheck (8 * 0 + 0) [.y 31] [.x 1] = .ok := by decide

def feWait (k : AccKind) (p : Park) : State :=
  { one (fun sl => { sl with st := .parked, park := p, feLimit := 100, parkedAt := 7
                             pend := [anAccess k (lmAddr 0 8) 8 (lmAddr 0 8) 0x00FFFF0000000008] }) with dclk := 107 }

theorem test_hyps_FeTimeouts :
    let s := feWait (.ldf (.x 3) true) (.feFull 0x00FFFF0000000008)
    let u := feWait (.stf 9) (.feEmpty 0x00FFFF0000000008)
    ((s.slot (8 * 0 + 0)).st = .parked ∧ (s.slot (8 * 0 + 0)).feLimit ≠ 0 ∧
      (s.slot (8 * 0 + 0)).parkedAt + (s.slot (8 * 0 + 0)).feLimit.toNat ≤ s.dclk ∧
      (s.slot (8 * 0 + 0)).pend = [anAccess (.ldf (.x 3) true) (lmAddr 0 8) 8 (lmAddr 0 8) 0x00FFFF0000000008] ∧
      (s.slot (8 * 0 + 0)).park = .feFull 0x00FFFF0000000008 ∧ lmCore (lmAddr 0 8) = 0) ∧
    (u.slot (8 * 0 + 0)).park = .feEmpty 0x00FFFF0000000008 ∧ lmCore (lmAddr 1 8) ≠ 0 ∧
    (anAccess (.ldf (.x 3) true) (lmAddr 1 8) 8 (lmAddr 1 8) 0x00FF000000020008).isFe = true := by decide

theorem test_hyps_RaisedTraps :
    let p := one fun sl => { sl with late := [.coproc 3 1 5 65 0 0, .poison 65 0x8000 true] }
    let c := one fun sl => { sl with late := [.engine 0 5 65 0 0, .coproc 3 1 5 65 0 0, .deadlock 0, .coproc 4 2 5 65 0 0] }
    ((p.slot (8 * 0 + 0)).st = .ready ∧ (p.slot (8 * 0 + 0)).park = .none ∧
      (p.slot (8 * 0 + 0)).late = [.coproc 3 1 5 65 0 0] ++ .poison 65 0x8000 true :: [] ∧
      ∀ x ∈ [Late.coproc 3 1 5 65 0 0], ∀ pc addr e, x ≠ .poison pc addr e) ∧
    ((c.slot (8 * 0 + 0)).st = .ready ∧ (c.slot (8 * 0 + 0)).park = .none ∧
      (c.slot (8 * 0 + 0)).late = [.engine 0 5 65 0 0] ++ .coproc 3 1 5 65 0 0 :: [.deadlock 0, .coproc 4 2 5 65 0 0] ∧
      ∀ x ∈ [Late.engine 0 5 65 0 0] ++ [.deadlock 0, .coproc 4 2 5 65 0 0], (∃ b, x = .deadlock b) ∨
        (∃ o t p a q, x = .engine o t p a q) ∨ ∃ f u t p a q, x = .coproc f u t p a q ∧ 1 < u) := by
  refine ⟨⟨rfl, rfl, rfl, by simp⟩, rfl, rfl, rfl, ?_⟩
  intro x hx
  simp at hx
  obtain rfl | rfl | rfl := hx
  · exact .inr (.inl ⟨_, _, _, _, _, rfl⟩)
  · exact .inl ⟨_, rfl⟩
  · exact .inr (.inr ⟨_, _, _, _, _, _, rfl, by decide⟩)

def packet0 : Packet :=
  { bytes := List.replicate 128 0, bad := [], failed := false, tenant := 0, owner := none, node := none, from_ := none, impure := false
    arrived := true, gone := false }

def launch0 : Launch :=
  { queue := 0, part := 0, tenant := 0, lv := .u, pkt := packet0, n := 4, placed := 3, live := 2, halted := 1, fault := none
    cancelled := false, groups := [], purity := false }

/-- A task of launch 9 has ended. -/
def ending : State :=
  { one (fun sl => { sl with st := .drain, exit := .halt, task := { sl.task with launch := some 9 } }) with
    disp := { State.reset.disp with launches := [(9, launch0)] } }

theorem test_hyps_TaskRetires : (ending.slot (8 * 0 + 0)).st = .drain ∧
    (ending.slot (8 * 0 + 0)).cnt = { ld := 0, st := 0, cp := 0, tl := 0 } ∧ (ending.slot (8 * 0 + 0)).latch = none ∧
    (ending.slot (8 * 0 + 0)).vbusy = 0 ∧ (ending.slot (8 * 0 + 0)).late = [] ∧ (ending.slot (8 * 0 + 0)).task.launch = some 9 ∧
    get? ending.disp.launches 9 = some launch0 ∧ launch0.live > 1 ∧ (ending.slot (8 * 0 + 0)).task.evt = none ∧
    (ending.slot (8 * 0 + 0)).task.groups = [] ∧ (ending.core 0).wakeQ = [] := by decide

/-- x2 holds the format words FP32 for the source and, in bits 31:16, `g`; the task is pure or not. -/
def converting (g : BitVec 16) (pure : Bool) : State :=
  one fun sl => { setX [(1, 0x3FC00000), (2, g.setWidth 64 <<< 16 ||| 1)] sl with task := { sl.task with pure := pure } }

theorem test_hyps_Conversions :
    (converting 3 false).able [.x 1, .x 2] [.x 3] ∧ (∃ f, Scalar (((converting 3 false).rv (.x 2)).extractLsb' 0 16) f) ∧
    (∃ g, Scalar (((converting 0xC01 true).rv (.x 2)).extractLsb' 16 16) g ∧ g.rm = 3) ∧ ((converting 0xC01 true).slot 0).task.pure = true ∧
    ((converting 0x2000 false).slot 0).task.pure = false ∧ (¬ ∃ f, Scalar 0x2000 f) := by
  refine ⟨⟨?_, ?_⟩, ⟨_, rfl, ?_⟩, ⟨_, ⟨rfl, ?_⟩, ?_⟩, ?_, ?_, ?_⟩
  · decide
  · decide
  · decide
  · decide
  · decide
  · decide
  · decide
  · rintro ⟨f, h, -⟩
    exact absurd ((by decide : Fmt.parse 0x2000 = none).symm.trans h) (by simp)

theorem test_hyps_CodesSurvive : ∃ f, Fmt.parse 3 = some f ∧ f.elem.isTab = false ∧ f.rm < 4 ∧ 2 ^ 32 - 1 < 2 ^ 32 ∧
    1 < 2 ^ f.elem.width ∧ (f.decode [] 1).isNan = false := by
  refine ⟨_, rfl, ?_, ?_, ?_, ?_, ?_⟩ <;> decide

/-- x1 names the decode table image at offset 0x1FC00 of the own local memory. -/
def tabled (use : BitVec 2) : State :=
  one fun sl => { setX [(1, 0x00FFFF000001FC00)] sl with task := { sl.task with dtuse := use } }

theorem test_hyps_DecodeTables : (tabled 0).able [.x 1] [.x 3] ∧ ((tabled 0).slot 0).task.pure = false ∧
    0x1FC00 % 1024 = 0 ∧ 0x1FC00 < 0x20000 ∧ (tabled 0).role 0 (0x1FC00 / 4096) = 0 ∧
    ((tabled 0).rv (.x 1)).toNat = 0x00FFFF0000000000 + 0x1FC00 ∧ (tabled 0).poisoned (lmAddr 0 0x1FC00) 1024 = false ∧
    (∃ j, j / 8 = 0 ∧ ((tabled 2).slot j).task.dtuse.getLsbD (1 : BitVec 1).toNat = true) ∧
    (¬ ∃ j, j / 8 = 0 ∧ ((tabled 2).slot j).task.dtuse.getLsbD (0 : BitVec 1).toNat = true) := by
  refine ⟨⟨?_, ?_⟩, ?_, ?_, ?_, ?_, ?_, ?_, ⟨0, ?_⟩, ?_⟩
  · decide
  · decide
  · decide
  · decide
  · decide
  · decide
  · decide
  · decide
  · decide
  · rintro ⟨j, hj, h⟩
    have : j = 0 ∨ j = 1 ∨ j = 2 ∨ j = 3 ∨ j = 4 ∨ j = 5 ∨ j = 6 ∨ j = 7 := by omega
    obtain rfl | rfl | rfl | rfl | rfl | rfl | rfl | rfl := this <;> exact absurd h (by decide)

/-! Vector and matrix instructions. -/

def latch0 (ins : Instr) (long : Bool) : Latch :=
  { instr := ins, xa := 0, xb := 0, mask := 0xFFFF, vctl := 0, dst := .x 3, draws := [], pc := 65, seq := 0, long := long, issued := 0
    sent := false, res := none }

theorem test_hyps_VectorIssue : ((one id).slot (one id).cur).unstepped = true ∧ ((one id).slot (one id).cur).latch = none ∧
    ((one id).slot (one id).cur).task.pure = false ∧ ((one id).slot (one id).cur).longMode = false ∧
    (one id).portCheck (one id).cur [] [.x 31] = .ok ∧
    ((one fun sl => { sl with latch := some (latch0 (.vidx .w32 1 none) false) }).slot 0).latch ≠ none ∧
    ((one fun sl => { sl with ctl := { sl.ctl with vctl := 1 } }).slot 0).longMode = true ∧
    get? ((one fun sl => { sl with ctl := { sl.ctl with vctl := 1 } }).core 0).ring
      ((one fun sl => { sl with ctl := { sl.ctl with vctl := 1 } }).core 0).ringNext = none ∧ plainReg (.x 31) = true := by
  decide

theorem test_hyps_VectorConversions : ((one id).slot (one id).cur).unstepped = true ∧ ((one id).slot (one id).cur).task.pure = false ∧
    ((one id).slot (one id).cur).latch = none ∧ ((one id).slot (one id).cur).longMode = false ∧ Fmt.parse ((one id).slot 0).task.kfa = none ∧
    (∃ f, Fmt.parse 2 = some f ∧ f.sk = 0) ∧ (∃ f, Fmt.parse 0x24 = some f ∧ f.sk = 1) ∧
    ((setX [(15, 0x240002)] slotS).readX ((15 : BitVec 4).setWidth 5)).setWidth 16 = (2 : BitVec 16) ∧
    ((setX [(15, 0x240002)] slotS).readX ((15 : BitVec 4).setWidth 5)).extractLsb' 16 16 = (0x24 : BitVec 16) := by
  refine ⟨?_, ?_, ?_, ?_, ?_, ⟨_, rfl, ?_⟩, ⟨_, rfl, ?_⟩, ?_, ?_⟩ <;> decide

/-- Slot 0 has `l` in its latch, in core cycle 8. -/
def latched (l : Latch) : State := { one (fun sl => { sl with latch := some l }) with dclk := 8 }

theorem test_hyps_VectorGrant :
    let l := latch0 (.vadd .w32 1 2 3 none .is) false
    ((latched l).slot (8 * 0 + 0)).latch = some l ∧ l.long = false ∧ l.res = none ∧ (latched l).octRuns 0 = true ∧
    ((latched l).core 0).vfree ≤ (latched l).dclk ∧ ((latched l).effEntry 0 ((latched l).dclk % 32)).getLsbD 3 = false ∧
    fld ((latched l).effEntry 0 ((latched l).dclk % 32)) 2 0 = 0 ∧ ((latched l).core 0).sfree ≤ (latched l).dclk ∧
    ((latched l).effEntry 0 ((latched l).dclk % 32)).getLsbD 7 = false ∧ fld ((latched l).effEntry 0 ((latched l).dclk % 32)) 6 4 = 0 := by
  decide

theorem test_hyps_VectorResult :
    let r : VResult := { until_ := 8, vw := some (1, 5), lanes := 0xFFFFFFFF, xw := none, nans := 1 }
    let l := { latch0 (.vadd .w32 1 2 3 none .is) false with res := some r }
    ((latched l).slot (8 * 0 + 0)).latch = some l ∧ l.res = some r ∧ r.until_ ≤ (latched l).dclk := by decide

/-- Slot 0 has windows as `w` says and `busy` long-mode commands. -/
def longWith (w : AMap LvWin) (mode : BitVec 16) (busy : Nat) : State :=
  { one (fun sl => { sl with ctl := { sl.ctl with vctl := mode }, vbusy := busy }) with
    octets := [(0, { Octet.reset with part := some 0, wins := w })] }

def winOf (i : Nat) : LvWin := { holder := some i, regs := Vector.replicate 16 0, queue := [] }

theorem test_hyps_LongMode :
    ((longWith [(0, winOf 9)] 0 0).able [] [.x 3] ∧ ((longWith [(0, winOf 9)] 0 0).slot 0).longMode = false ∧
      ((longWith [(0, winOf 9)] 0 0).win 0 1).holder = none ∧ ((longWith [(0, winOf 9)] 0 0).win 0 0).holder ≠ none) ∧
    (∀ w, w < 8 → ((longWith ((List.range 8).map fun w => (w, winOf (8 + w))) 0 0).win 0 w).holder ≠ none) ∧
    ((longWith [(0, winOf 0)] 1 0).able [] [] ∧ ((longWith [(0, winOf 0)] 1 0).slot 0).longMode = true ∧
      ((longWith [(0, winOf 0)] 1 0).slot 0).vbusy = 0 ∧ (longWith [(0, winOf 0)] 1 0).window? 0 = some 0) ∧
    ((longWith [(0, winOf 0)] 1 2).slot 0).vbusy ≠ 0 ∧ (longWith [] 0 0).window? 0 = none ∧ ((longWith [] 0 0).oct 0).lvRun = none := by
  refine ⟨⟨⟨?_, ?_⟩, ?_, ?_, ?_⟩, ?_, ⟨⟨?_, ?_⟩, ?_, ?_, ?_⟩, ?_, ?_, ?_⟩ <;> decide

/-- Slot 0 has a long-mode VAND in its latch, another in its window's queue, and a third running. -/
def longRun : State :=
  let l := latch0 (.vand .w32 1 2 3 none) true
  { one (fun sl => { sl with ctl := { sl.ctl with vctl := 1 }, vbusy := 3, latch := some l }) with
    dclk := 8
    octets := [(0, { Octet.reset with
      part := some 0, wins := [(0, { winOf 0 with queue := [{ slot := 0, cmd := l }] })]
      lvRun := some { win := 0, cmd := { slot := 0, cmd := l }, until_ := 8, src := List.replicate 16 0, dead := false } })] }

theorem test_hyps_LongModeCommands :
    let l := latch0 (.vand .w32 1 2 3 none) true
    let idle : State := { longRun with octets := [(0, { (longRun.oct 0) with lvRun := none })] }
    ((longRun.slot (8 * 0 + 0)).latch = some l ∧ l.long = true ∧ l.sent = false ∧ longRun.window? 0 = some 0 ∧
      (longRun.oct 0).accepted 0 < 8) ∧
    (idle.dclk % 2 = 0 ∧ idle.sched.begun = false ∧ (idle.oct 0).lvRun = none ∧ idle.octRuns 0 = true ∧ idle.nextWindow 0 = some 0 ∧
      (idle.win 0 0).queue = [{ slot := 0, cmd := l }]) ∧
    ((longRun.oct 0).lvRun = some { win := 0, cmd := { slot := 0, cmd := l }, until_ := 8, src := List.replicate 16 0, dead := false } ∧
      (longRun.slot (8 * 0 + 0)).st = .ready) := by
  refine ⟨⟨?_, ?_, ?_, ?_, ?_⟩, ⟨?_, ?_, ?_, ?_, ?_, ?_⟩, rfl, ?_⟩ <;> decide

/-- x1 names the start of the own local memory, x2 holds 4. -/
theorem test_hyps_VectorMemory :
    ((atLm 0 4).slot 0).longMode = false ∧ (atLm 0 4).able [.x 1] [] ∧ (atLm 0 4).able [.x 1, .x 2] [] ∧
    InOwnMemory (atLm 0 4) (0x00FFFF0000000000 + BitVec.ofNat 64 0) 32 (lmAddr 0 0) ∧ (atLm 0 4).poisoned (lmAddr 0 0) 32 = false ∧
    (∀ j, j < 32 / 4 → InOwnMemory (atLm 0 4) ((atLm 0 4).rv (.x 1) + BitVec.ofInt 64 (0 : BitVec 16).toInt +
      BitVec.ofNat 64 j * (atLm 0 4).rv (.x 2)) 4 (lmAddr 0 (4 * j))) ∧
    (∀ j, j < 32 / 4 → (atLm 0 4).poisoned (lmAddr 0 (4 * j)) 4 = false) ∧
    (∀ j l, j < 32 / 4 → l < j → lmAddr 0 (4 * l) ≠ lmAddr 0 (4 * j)) := by
  refine ⟨?_, ⟨?_, ?_⟩, ⟨?_, ?_⟩, inOwn _ _ _ ?_, ?_, ?_, ?_, ?_⟩
  · decide
  · decide
  · decide
  · decide
  · decide
  · decide
  · decide
  · intro j hj
    have : j = 0 ∨ j = 1 ∨ j = 2 ∨ j = 3 ∨ j = 4 ∨ j = 5 ∨ j = 6 ∨ j = 7 := by omega
    obtain rfl | rfl | rfl | rfl | rfl | rfl | rfl | rfl := this <;>
      exact ⟨by decide, ⟨_, rfl, by decide, by decide, .inl (by decide), .inl (by decide)⟩, by decide, by decide, rfl⟩
  · decide
  · intro j l hj hl
    simp only [lmAddr]
    omega

theorem test_hyps_MatrixIssue :
    let full : MatOp := { slot := 0, seq := 0, pc := 0, instr := .tzero (.x 0), a := 0, b := 0, c := 0, ti := slotS.task, lv := .s
                          epoch := 0, order := 0, issued := 0 }
    ((one id).slot (one id).cur).unstepped = true ∧ ((one id).slot (one id).cur).task.pure = false ∧
    ((one id).core 0).mat.busy (one id).dclk < 16 ∧ get? ((one id).core 0).ring ((one id).core 0).ringNext = none ∧
    ((one id).slot (one id).cur).cnt.tl < 15 ∧ (one id).portCheck (one id).cur [.x 1, .x 2, .x 3] [] = .ok ∧
    ¬ (({ one id with cores := [(0, { CoreState.reset with mat := { MatCore.empty with queue := List.replicate 16 full } })] } : State).core
      0).mat.busy 0 < 16 := by decide

theorem test_hyps_MatrixState : (one id).able [] [] ∧ ((one id).slot (one id).cur).cnt.tl = 0 ∧
    ((one fun sl => { sl with cnt := { sl.cnt with tl := 15 } }).slot 0).cnt.tl ≠ 0 ∧ (one id).able [] [.x 3] ∧
    ((one id).core 0).mat.queue.length ≤ 16 ∧ (one id).able [.x 1, .x 2] [.x 3] := by
  refine ⟨⟨?_, ?_⟩, ?_, ?_, ⟨?_, ?_⟩, ?_, ?_, ?_⟩ <;> decide

def matOp (ins : Instr) (a b c : Word) : MatOp :=
  { slot := 0, seq := 5, pc := 65, instr := ins, a := a, b := b, c := c, ti := { slotS.task with kfa := 2, kfb := 2, kfo := 2 }, lv := .s
    epoch := 0, order := 0, issued := 0 }

def tile0 : Tile := { fw := 2, elems := [], scales := [], sk3 := 0 }

/-- The matrix unit of octet 0 with `op` at the head of core 0's queue and latch 0 in the state `st`. -/
def matHead (op : MatOp) (st : LatchSt) : State :=
  { one id with
    dclk := 8
    octets := [(0, { Octet.reset with
      part := some 0, mat := { Octet.reset.mat with l0 := { BLatch.empty with st := st, tile := some tile0 } } }),
      (1, { Octet.reset with part := some 0 })]
    parts := [(0, { part0 with octets := [0, 1] })]
    cores := [(0, { CoreState.reset with brole := 3, mat := { MatCore.empty with queue := [op] } })] }

def okIs {α β : Type} (e : Except α β) : Bool :=
  match e with
  | .ok _ => true
  | .error _ => false

theorem okIs_iff {α β : Type} {e : Except α β} (h : okIs e = true) : ∃ x, e = .ok x := by
  cases e with
  | ok x => exact ⟨x, rfl⟩
  | error _ => cases h

theorem test_hyps_MatrixStarts :
    (∀ i ∈ [Instr.tzero (.x 0), .tdrain (.x 1) (.x 2) (.x 3) 0 false false false, .tbpass true 0, .tbpass false 0,
      .tmma (.x 1) (.x 0) 127 0 false 0],
      (matHead (matOp i 0x00FFFF0000000000 0x100 0) .full).matrixStarts 0 = true) ∧
    (matHead (matOp (.tbld (.x 1) (.x 0) .ef 0) 0x00FFFF0000000000 0 0) .empty).matrixStarts 0 = true ∧
    ((one id).slot 0).st = .ready ∧
    (∃ p, (matHead (matOp (.tdrain (.x 1) (.x 2) (.x 3) 0 false false false) 0x00FFFF0000000000 0x100 0) .full).drainPlan
      (matOp (.tdrain (.x 1) (.x 2) (.x 3) 0 false false false) 0x00FFFF0000000000 0x100 0) false = .ok p) ∧
    (∃ x, ((matHead (matOp (.tmma (.x 1) (.x 0) 127 0 false 0) 0x00FFFF0000000000 0 0) .full).tmmaTile
      (matOp (.tmma (.x 1) (.x 0) 127 0 false 0) 0x00FFFF0000000000 0 0) (.x 0) 1 tile0).1 = .ok x) ∧
    (∃ sk, ((matHead (matOp (.tbld (.x 1) (.x 0) .ef 0) 0x00FFFF0000000000 0 0) .empty).tbldStart
      (matOp (.tbld (.x 1) (.x 0) .ef 0) 0x00FFFF0000000000 0 0) (.x 0)).1 = .ok sk) ∧
    ((matHead (matOp (.tbld (.x 1) (.x 0) .ef 0) 0x20 0 0) .empty).tbldStart (matOp (.tbld (.x 1) (.x 0) .ef 0) 0x20 0 0) (.x 0)).1 =
      .error (some (.misalign, 0x20)) ∧
    ((matHead (matOp (.tmma (.x 1) (.x 0) 127 0 false 0) 0x20 0 0) .full).tmmaTile
      (matOp (.tmma (.x 1) (.x 0) 127 0 false 0) 0x20 0 0) (.x 0) 1 tile0).1 = .error (some (.misalign, 0x20)) ∧
    (((matHead (matOp (.tzero (.x 0)) 0 0 0) .full).oct 0).mat.latch 0).tile = some tile0 ∧
    (∀ f, tileFmt (tileWord (.x 0) 0 2) = some f → f.sk ≠ 3) := by
  refine ⟨?_, ?_, ?_, okIs_iff ?_, okIs_iff ?_, okIs_iff ?_, ?_, ?_, ?_, fun f h => by
    obtain rfl := Option.some.inj ((rfl : tileFmt (tileWord (.x 0) 0 2) = some _).symm.trans h); decide⟩ <;> decide

def matRun (op : MatOp) (t : Option Tile) : MatRun :=
  { op := op, until_ := 8, tile := t, btile := t, sent := false, quiet := false, fault := none, sk3 := 0, rows := 0 }

/-- Core 0's unit runs `r`. -/
def matRuns (r : MatRun) : State :=
  { one id with dclk := 8, cores := [(0, { CoreState.reset with mat := { MatCore.empty with run := some r } })] }

theorem test_hyps_RowsAreWritten :
    let z := matRun (matOp (.tzero (.x 1)) 0x17F 0 0) none
    let m := matRun (matOp (.tmma (.x 1) (.x 0) 127 0 false 0) 0x00FFFF0000000000 0 0) (some tile0)
    ((matRuns z).core 0).mat.run = some z ∧ ((matRuns m).core 0).mat.run = some m ∧ z.op.slot / 8 = 0 ∧ z.until_ ≤ (matRuns z).dclk ∧
    ((matRuns z).slot 0).st = .ready ∧ ((matRuns z).slot 0).exit = .none ∧ m.fault = none ∧ m.tile = some tile0 ∧ m.btile = some tile0 ∧
    (tileFmt tile0.fw).isSome = true ∧
    ((matRuns { m with fault := some (.misalign, 0x20) }).core 0).mat.run = some { m with fault := some (.misalign, 0x20) } ∧
    m.quiet = false := by decide

/-- Latch 0 of octet 0 is loading or sending for `r`. -/
def latchRuns (r : MatRun) : State :=
  { one id with
    dclk := 8
    octets := [(0, { Octet.reset with
      part := some 0, mat := { Octet.reset.mat with l0 := { BLatch.empty with st := .loading, run := some (0, r) } } })] }

theorem test_hyps_LatchesFill :
    let p := matRun (matOp (.tbpass false 0) 0 0 0) none
    let b := { matRun (matOp (.tbld (.x 1) (.x 0) .ef 0) 0x20 0 0) none with fault := some (.misalign, 0x20) }
    let g := matRun (matOp (.tbld (.x 1) (.x 0) .ef 0) 0x00FFFF0000000000 0 0) none
    (((latchRuns p).oct 0).mat.latch 0).run = some (0, p) ∧ p.until_ ≤ (latchRuns p).dclk ∧ ((latchRuns p).slot 0).st = .ready ∧
    (((latchRuns p).oct 0).mat.latch 0).inc = none ∧ (((latchRuns b).oct 0).mat.latch 0).run = some (0, b) ∧
    ((latchRuns b).tbldTile b (.x 0) .ef).1 = .error (some (.misalign, 0x20)) ∧ (((latchRuns g).oct 0).mat.latch 0).run = some (0, g) ∧
    ∃ x, ((latchRuns g).tbldTile g (.x 0) .ef).1 = .ok x := by
  refine ⟨rfl, ?_, ?_, rfl, rfl, rfl, rfl, okIs_iff ?_⟩ <;> decide +kernel

/-! Drains, the copy engine, mailboxes, the shared cache. -/

/-- A TDRAIN of no row to the start of the own local memory. -/
def drainRun : MatRun := matRun (matOp (.tdrain (.x 1) (.x 2) (.x 3) 0 false true false) 0x00FFFF0000000000 0 0x1001) none

theorem test_hyps_DrainEnds :
    let s := matRuns drainRun
    (s.core 0).mat.run = some drainRun ∧ drainRun.op.slot / 8 = 0 ∧ drainRun.sent = false ∧ drainRun.quiet = false ∧ drainRun.fault = none ∧
    drainRun.rows = 0 ∧ drainRun.until_ ≤ s.dclk ∧ s.drawsLate 0 drainRun.op = false ∧
    (∃ p, s.drainPlan drainRun.op false = .ok p ∧ ∀ b, b < 32 → s.role p.target b = 0) ∧ (∀ x, isLm x = true → s.pageBusy x = false) ∧
    s.mm.feq = [] := by
  refine ⟨rfl, rfl, rfl, rfl, rfl, rfl, ?_, ?_, ⟨_, rfl, ?_⟩, fun x _ => rfl, rfl⟩ <;> decide

/-- A wake-up message to core 0 in flight, from the TDRAIN that core 0 runs; `slots` are the module's slots. -/
def waking (w : WakeMsg) (slots : AMap Slot) : State :=
  { matRuns { drainRun with sent := true } with slots := slots, net := { State.reset.net with wakes := [(3, w)] } }

def wakeMsg (pc : Option Word) (dead : Bool) : WakeMsg :=
  { target := 0, pc := pc, dst := 0x00FFFF0000000000, sender := 0, ti := slotS.task, core := 0, dead := dead }

theorem test_hyps_WakeUpMessages :
    let busy : AMap Slot := (List.range 8).map fun n => (n, slotS)
    let r := { drainRun with sent := true }
    (get? (waking (wakeMsg none false) [(0, slotS)]).net.wakes 3 = some (wakeMsg none false) ∧ (one id).part? 0 = some part0 ∧
      part0.gang = .running ∧ ((waking (wakeMsg none false) [(0, slotS)]).core 0).mat.run = some r ∧ r.op.slot / 8 = 0 ∧
      ((waking (wakeMsg none false) [(0, slotS)]).slot 0).st = .ready) ∧
    (get? (waking (wakeMsg (some 65) false) busy).net.wakes 3 = some (wakeMsg (some 65) false) ∧
      ((waking (wakeMsg (some 65) false) busy).core 0).wakeQ.length < 16 ∧
      (waking (wakeMsg (some 65) false) busy).corePart 0 = some 0 ∧ (waking (wakeMsg (some 65) false) busy).freeTaskSlot 0 = none ∧
      ((waking (wakeMsg (some 65) false) busy).slot 0).st = .ready) ∧
    (((waking (wakeMsg (some 65) false) [(0, slotS)]).core 0).wakeQ = [] ∧
      (waking (wakeMsg (some 65) false) [(0, slotS)]).freeTaskSlot 0 = some 1) ∧
    get? (waking (wakeMsg (some 65) true) [(0, slotS)]).net.wakes 3 = some (wakeMsg (some 65) true) := by decide

def request (what : CopyWhat) (w0 w1 w2 w3 : Word) : CopyReq :=
  { slot := 0, pc := 65, ti := slotS.task, lv := .s, what := what, w0 := w0, w1 := w1, w2 := w2, w3 := w3, u1 := 7, u2 := 9, order := 1
    issued := 0, dead := false }

/-- Core 0's FIFO holds `l`. -/
def fifo (l : List CopyReq) : State := { oneX 0 with cores := [(0, { CoreState.reset with cpy := { fifo := l } })] }

theorem test_hyps_CopyRequestsArePushed :
    ((fifo []).slot (fifo []).cur).task.pure = false ∧ ((fifo []).slot (fifo []).cur).unstepped = true ∧
    ¬ 8 ≤ ((fifo []).core 0).cpy.fifo.length ∧ ¬ 15 ≤ ((fifo []).slot 0).cnt.cp ∧
    ¬ 16 ≤ ((fifo []).slot 0).mbox.length + ((fifo []).slot 0).mboxRsv ∧ (fifo []).able [] [.x 3] ∧ (fifo []).able [.x 1, .x 2] [] ∧
    (fifo []).able [.x 1] [] ∧ 8 ≤ ((fifo (List.replicate 8 (request .words 0 0 0 0))).core 0).cpy.fifo.length ∧
    15 ≤ ((one fun sl => { sl with cnt := { sl.cnt with cp := 15 } }).slot 0).cnt.cp ∧
    16 ≤ ((one fun sl => { sl with mboxRsv := 16 }).slot 0).mbox.length + ((one fun sl => { sl with mboxRsv := 16 }).slot 0).mboxRsv := by
  refine ⟨?_, ?_, ?_, ?_, ?_, ⟨?_, ?_⟩, ⟨?_, ?_⟩, ⟨?_, ?_⟩, ?_, ?_, ?_⟩ <;> decide

def outIs (s : State) (k : Nat) (o : CopyEnd) : Bool :=
  match o with
  | .ok o => (o.s.core k).cpy = (s.core k).cpy ∧ (o.s.oct (octetOf k)).cpy = (s.oct (octetOf k)).cpy
  | .error _ => false

theorem outIs_iff {s : State} {k : Nat} {o : CopyEnd} (h : outIs s k o = true) : ∃ x, o = .ok x ∧ Undisturbed s x.s k := by
  cases o with
  | error _ => cases h
  | ok x => exact ⟨x, rfl, by simpa [outIs, Undisturbed] using h⟩

/-- A request of kind `kind` with parameter `p`, on the own local memory, of 8 bytes or elements. -/
def own8 (kind p : Word) : CopyReq :=
  request .words (kind ||| p <<< 16) 0x00FFFF0000001000 0x00FFFF0000002000 8

/-- A request for whose source there is no translation. -/
def noSource (kind p w2 w3 : Word) : CopyReq := request .words (kind ||| p <<< 16) 0x1000 w2 w3

theorem test_hyps_CopyRequestsStart :
    (∀ r ∈ [own8 0 1, own8 0 0, own8 3 0, own8 8 0, own8 9 0, request (.tokacc 4 0) 8 0 0 0, request (.pft 4 .ef) 0x200 0 0 0],
      (fifo [r]).copyHead 0 = some r) ∧
    (own8 0 1).refused = true ∧ (own8 0 0).refused = false ∧ (own8 0 0).kind = 0 ∧ (own8 9 0).kind = 9 ∧
    (∃ out, copyCopy (fifo [own8 0 0]) (own8 0 0) = .ok out ∧ Undisturbed (fifo [own8 0 0]) out.s 0) ∧
    (∃ out, copyFill (fifo [own8 3 0]) (own8 3 0) = .ok out ∧ Undisturbed (fifo [own8 3 0]) out.s 0) ∧
    (∃ out, copyHash (fifo [noSource 5 0 0x2000 8]) (noSource 5 0 0x2000 8) = .ok out ∧
      Undisturbed (fifo [noSource 5 0 0x2000 8]) out.s 0) := by
  refine ⟨?_, ?_, ?_, ?_, ?_, outIs_iff ?_, outIs_iff ?_, outIs_iff ?_⟩ <;> decide

theorem test_hyps_MoreCopyRequestsStart :
    (own8 1 0x80).refused = false ∧ (own8 2 0x83).refused = false ∧ (noSource 6 1 0 8).refused = false ∧
    (noSource 7 0x11 0x2000 0x3F80000000000008).refused = false ∧
    (∃ out, copyIndexed true (fifo [noSource 1 0x12 0x2000 0x3000]) (noSource 1 0x12 0x2000 0x3000) = .ok out ∧
      Undisturbed (fifo [noSource 1 0x12 0x2000 0x3000]) out.s 0) ∧
    (∃ out, copySelacc (fifo [noSource 6 1 0 8]) (noSource 6 1 0 8) = .ok out ∧ Undisturbed (fifo [noSource 6 1 0 8]) out.s 0) ∧
    (∃ out, copyTokacc 0x1000 0x2000 (fifo [request (.tokacc 0x1000 0x2000) 8 0 0 0]) (request (.tokacc 0x1000 0x2000) 8 0 0 0) = .ok out ∧
      Undisturbed (fifo [request (.tokacc 0x1000 0x2000) 8 0 0 0]) out.s 0) ∧
    ((request (.tokacc 4 0) 8 0 0 0).what = .tokacc 4 0 ∧ (4 : Word).toNat % 8 ≠ 0) ∧
    (∃ u, copyPft 8 .ef (fifo [request (.pft 8 .ef) 0x200 0 0 0]) (request (.pft 8 .ef) 0x200 0 0 0) = some u ∧
      Undisturbed (fifo [request (.pft 8 .ef) 0x200 0 0 0]) u 0) := by
  refine ⟨?_, ?_, ?_, ?_, outIs_iff ?_, outIs_iff ?_, outIs_iff ?_, ⟨?_, ?_⟩, ⟨_, rfl, ?_, ?_⟩⟩ <;> decide

theorem test_hyps_CopyOfOneWord :
    (∀ r ∈ [own8 0 0, own8 3 0], (fifo [r]).copyHead 0 = some r ∧ r.slot / 8 = 0 ∧ r.what = .words ∧ r.refused = false ∧ r.w3 = 8 ∧
      (fifo [r]).mm.feq = [] ∧ (fifo [r]).pageBusy (lmAddr 0 0x2000) = false ∧ (fifo [r]).pageBusy (lmAddr 0 0x1000) = false) ∧
    (own8 0 0).kind = 0 ∧ (own8 3 0).kind = 3 ∧
    OwnWord (fifo [own8 0 0]) 0 (own8 0 0).w2 (lmAddr 0 0x2000) ∧ OwnWord (fifo [own8 0 0]) 0 (own8 0 0).w1 (lmAddr 0 0x1000) := by
  refine ⟨?_, ?_, ?_, ⟨?_, _, rfl, ?_, ?_, .inl ?_, .inl ?_⟩, ?_, _, rfl, ?_, ?_, .inl ?_, .inl ?_⟩ <;> decide

/-- A request in flight, with this fault not yet met. -/
def flies (f : Option (TrapCode × Word)) : State :=
  { one (fun sl => { sl with cnt := { sl.cnt with cp := 1 }, mboxRsv := 1 }) with
    octets := [(0, { Octet.reset with
      part := some 0
      cpy := { flight := [{ core := 0, req := own8 0 0, status := 0, tag := 7, extra := 0, word1 := 8, flag := none, fault := f }]
               last := 0, started := 0 } })] }

theorem test_hyps_CopyRequestsComplete :
    let r (f : Option (TrapCode × Word)) : CopyRun :=
      { core := 0, req := own8 0 0, status := 0, tag := 7, extra := 0, word1 := 8, flag := none, fault := f }
    ((flies (some (.misalign, 0x1000))).oct 0).cpy.flight[0]? = some (r (some (.misalign, 0x1000))) ∧
    ((flies none).oct 0).cpy.flight[0]? = some (r none) ∧ (r none).req.dead = false ∧ (r none).req.nt = false ∧ (r none).req.qt = false ∧
    ((flies none).slot 0).exit ≠ .cancelled ∧ (∀ q ∈ ((flies none).oct 0).cpy.flight.take 0, q.core ≠ (r none).core) ∧
    ((flies none).slot 0).st = .ready ∧ ((flies none).slot 0).park = .none := by decide

theorem test_hyps_Mailbox : (one id).able [] [] ∧ ((one id).slot (one id).cur).mbox = [] ∧
    ((one fun sl => { sl with mbox := [{ w0 := 1, w1 := 2 }] }).slot 0).mbox = { w0 := 1, w1 := 2 } :: [] := by
  refine ⟨⟨?_, ?_⟩, ?_, ?_⟩ <;> decide

theorem test_hyps_UserInterrupts :
    let h := one fun sl => { sl with ctl := { sl.ctl with uictl := 3, uipc := 66 } }
    let m := one fun sl => { sl with ctl := { sl.ctl with uictl := 1, uivec := 0x2001 }, mbox := [{ w0 := 1, w1 := 2 }] }
    (one id).portCheck 0 [.x 1, .x 2] [.x 3] = .ok ∧ ((one id).slot 0).unstepped = true ∧ (h.slot h.cur).inUi = true ∧
    (h.slot h.cur).unstepped = true ∧ ((one id).slot 0).inUi = false ∧ (m.slot (8 * 0 + 0)).uiResume = some 65 ∧
    (m.slot (8 * 0 + 0)).st = .ready ∧ (m.slot (8 * 0 + 0)).ctl.uictl = 1 ∧ (m.slot (8 * 0 + 0)).inh = false ∧
    (m.slot (8 * 0 + 0)).mbox ≠ [] := by decide

/-! Descriptors: 16 words at the start of bank 1 of the own local memory. -/

/-- x1 is `a`, and 128 bytes at offset 0x1000 of the own local memory hold the bytes `m` lists; a stack, slot or partition may differ. -/
def described (a : Word) (m : Memory) : State :=
  { one (setX [(1, a), (2, 0x00FFFF0000001000)]) with mm := { State.reset.mm with bytes := m } }

theorem rdWord_byte (s : State) (a x : Nat) (h : x < 8) : (s.rdWord a).extractLsb' (8 * x) 8 = s.mm.bytes.byte (a + x) := by
  have e : s.rdWord a = BitVec.ofNat 64 (bytesNat [s.mm.bytes.byte (a + 0), s.mm.bytes.byte (a + 1), s.mm.bytes.byte (a + 2),
      s.mm.bytes.byte (a + 3), s.mm.bytes.byte (a + 4), s.mm.bytes.byte (a + 5), s.mm.bytes.byte (a + 6), s.mm.bytes.byte (a + 7)]) := rfl
  rw [e]
  generalize h0 : s.mm.bytes.byte (a + 0) = b0
  generalize h1 : s.mm.bytes.byte (a + 1) = b1
  generalize h2 : s.mm.bytes.byte (a + 2) = b2
  generalize h3 : s.mm.bytes.byte (a + 3) = b3
  generalize h4 : s.mm.bytes.byte (a + 4) = b4
  generalize h5 : s.mm.bytes.byte (a + 5) = b5
  generalize h6 : s.mm.bytes.byte (a + 6) = b6
  generalize h7 : s.mm.bytes.byte (a + 7) = b7
  have := b0.isLt; have := b1.isLt; have := b2.isLt; have := b3.isLt
  have := b4.isLt; have := b5.isLt; have := b6.isLt; have := b7.isLt
  have hx : x = 0 ∨ x = 1 ∨ x = 2 ∨ x = 3 ∨ x = 4 ∨ x = 5 ∨ x = 6 ∨ x = 7 := by omega
  obtain rfl | rfl | rfl | rfl | rfl | rfl | rfl | rfl := hx <;> simp only [h0, h1, h2, h3, h4, h5, h6, h7] <;>
    apply BitVec.eq_of_toNat_eq <;>
    simp only [BitVec.extractLsb'_toNat, BitVec.toNat_ofNat, bytesNat, Nat.shiftRight_eq_div_pow, Nat.reducePow, Nat.reduceMul] <;> omega

/-- The words of the descriptor of `described`. -/
def wordsAt (m : Memory) (j : Nat) : Word := (described 0 m).rdWord (lmAddr 0 0x1000 + 8 * j)

/-- With no page in a flip none is busy. -/
theorem not_busy {s : State} {x : Nat} (h : s.bias = []) : s.pageBusy x = false := by
  simp [State.pageBusy, State.page, look, h, BiasPage.fresh]

theorem described_at {s : State} (m : Memory) (n : Nat) (hn : 0 < n ∧ n ≤ 0x1000) (h1 : s.cur = 0) (h2 : (s.slot 0).pend = [])
    (h3 : s.role 0 1 = 0) (h4 : s.mm.bytes = m) (h5 : s.poisoned (lmAddr 0 0x1000) n = false) (h6 : s.bias = [] := by rfl) :
    DescriptorAt s 0x00FFFF0000001000 n (wordsAt m) where
  core := by rw [h1]; decide
  idle := by rw [h1]; exact h2
  place := by
    rw [h1]
    refine ⟨0x1000, by decide, by omega, .inl (by decide), fun b h7 h8 => .inl ?_, h5, fun x _ => not_busy h6, fun j x hj hx => ?_⟩
    · have : b = 1 := by omega
      subst this
      exact h3
    · rw [h4]
      exact rdWord_byte (described 0 m) (lmAddr 0 0x1000 + 8 * j) x hx

/-! Pins and queues. -/

/-- The bytes of the words `ws` from address `a`. -/
def memOf (a : Nat) (ws : List Word) : Memory := Memory.setBytes [] a (ws.flatMap wordBytes)

/-- x1 names a descriptor with the words `ws`, at offset 0x1000 of the own local memory. -/
def given (ws : List Word) : State := described 0x00FFFF0000001000 (memOf (lmAddr 0 0x1000) ws)

theorem given_at (ws : List Word) (n : Nat) (hn : 0 < n ∧ n ≤ 0x1000) :
    DescriptorAt (given ws) 0x00FFFF0000001000 n (wordsAt (memOf (lmAddr 0 0x1000) ws)) := by
  have hr : (given ws).role 0 1 = 0 := by
    simp [State.role, given, described, State.core, look, one, State.reset, CoreState.reset, fld]
  exact described_at _ _ hn (by simp only [given, described, one, State.reset])
    (by simp [given, described, one, State.slot, look, setX, slotS, Slot.idle]) hr (by simp only [given, described])
    (by simp [State.poisoned, given, described, one, State.reset])

def pinDesc : List Word := [0x10000, 0x1F500000001, 0xFF, 0]

/-- `given`, with the page at 0x10000 in the octet's TLB. -/
def givenPage (ws : List Word) : State :=
  { given ws with octets := [(0, { Octet.reset with part := some 0, tlb := [leaf1] })] }

theorem test_hyps_Pins :
    (oneX 15).able [.x 1] [.x 3] ∧ ((oneX 15).slot 0).task.pure = false ∧ (oneX 15).part? 0 = some part0 ∧
    ((oneX 15).rv (.x 1)).toNat < 16 ∧ get? part0.pins 15 = none ∧ ((oneX 16).rv (.x 1)).toNat = 16 ∧
    ((oneX 17).rv (.x 1)).toNat = 17 ∧ 17 < ((oneX allOnes).rv (.x 1)).toNat ∧
    DescriptorAt (givenPage pinDesc) 0x00FFFF0000001000 32 (wordsAt (memOf (lmAddr 0 0x1000) pinDesc)) ∧
    (givenPage pinDesc).able [.x 1] [.x 3] ∧ ((givenPage pinDesc).slot 0).lv ≠ .u ∧ (givenPage pinDesc).rv (.x 1) = 0x00FFFF0000001000 ∧
    fld (wordsAt (memOf (lmAddr 0 0x1000) pinDesc) 0) 15 0 = 0 ∧ fld (wordsAt (memOf (lmAddr 0 0x1000) pinDesc) 1) 63 40 ≠ 0 := by
  refine ⟨⟨?_, ?_⟩, ?_, ?_, ?_, ?_, ?_, ?_, ?_, described_at _ _ ?_ rfl rfl rfl rfl ?_, ⟨?_, ?_⟩, ?_, ?_, ?_, ?_⟩ <;> decide

def pinDesc2 : List Word := [0x10000, 0xF500000001, 0xFF, 0]

theorem test_hyps_PinsSet :
    DescriptorAt (givenPage pinDesc2) 0x00FFFF0000001000 32 (wordsAt (memOf (lmAddr 0 0x1000) pinDesc2)) ∧
    fld (wordsAt (memOf (lmAddr 0 0x1000) pinDesc2) 1) 63 40 = 0 ∧ wordsAt (memOf (lmAddr 0 0x1000) pinDesc2) 3 = 0 ∧
    fld (wordsAt (memOf (lmAddr 0 0x1000) pinDesc2) 1) 31 0 = 1 ∧ fld (wordsAt (memOf (lmAddr 0 0x1000) pinDesc2) 1) 39 36 ≠ 0 ∧
    wordsAt (memOf (lmAddr 0 0x1000) pinDesc2) 2 ≠ 0 ∧ ((givenPage pinDesc2).pinPages 0 (wordsAt (memOf (lmAddr 0 0x1000) pinDesc2) 0) 1).1.isSome ∧
    ((given pinDesc2).pinPages 0 (wordsAt (memOf (lmAddr 0 0x1000) pinDesc2) 0) 1).1 = none ∧
    (wordsAt (memOf (lmAddr 0 0x1000) [0x10000]) 2 = 0 ∧ DescriptorAt (given [0x10000]) 0x00FFFF0000001000 32
      (wordsAt (memOf (lmAddr 0 0x1000) [0x10000]))) := by
  refine ⟨described_at _ _ ?_ rfl rfl rfl rfl ?_, ?_, ?_, ?_, ?_, ?_, ?_, ?_, ?_, described_at _ _ ?_ rfl rfl rfl rfl ?_⟩ <;> decide

/-- x1 and x2 hold `a` and `b`, and core 0 has a dirty line. -/
def cached (a b : Word) : State :=
  { one (setX [(1, a), (2, b)]) with cores := [(0, { CoreState.reset with cache := [{ pa := 0x1000, bank := 2, dirty := true, owned := true }] })] }

theorem test_hyps_CacheMaintenance : (cached 0 (2 ^ 40)).able [.x 1, .x 2] [.x 3] ∧ ((cached 0 (2 ^ 40)).rv (.x 2)).toNat ≤ 2 ^ 40 ∧
    2 ^ 40 < ((cached 0 (2 ^ 40 + 1)).rv (.x 2)).toNat ∧ ((cached 0 0).slot 0).task.pure = false ∧ (cached 0 0).able [.x 1, .x 2] [] ∧
    ((cached 0 0).slot 0).lv ≠ .u ∧ (∀ e ∈ (cached 0 0).slots, e.2.pend = []) ∧ ((cached 0 0).slot 0).pend = [] := by
  refine ⟨⟨?_, ?_⟩, ?_, ?_, ?_, ⟨?_, ?_⟩, ?_, ?_, ?_⟩ <;> decide

/-- A device-fed queue of partition 0 with `b` packets in its head buffer and `sp` in its ring. -/
def queue0 (b sp : List Packet) : Queue :=
  { Queue.unset with part := 0, df := true, en := true, ring := 0x80000, rsz := 3, buf := b, spill := sp }

/-- `s` with queue 7, and the partition's device queue. -/
def withQueue (s : State) (v : Queue) : State := { s with disp := { s.disp with queues := [(7, v), (4096, { v with part := 0 })] } }

def enqX : State := withQueue (described 7 (memOf (lmAddr 0 0x1000) [0, 1])) (queue0 [packet0] [])

theorem test_hyps_Enq : (enqX.slot 0).task.pure = false ∧ enqX.able [.x 1, .x 2] [.x 3] ∧
    DescriptorAt enqX (enqX.rv (.x 2)) 128 (wordsAt (memOf (lmAddr 0 0x1000) [0, 1])) ∧ (enqX.rv (.x 2)).toNat % 64 = 0 ∧
    fld (enqX.rv (.x 1)) 63 12 = 0 ∧ fld (enqX.rv (.x 1)) 11 0 = 7 ∧ (enqX.queue 7).part = 0 ∧ (enqX.queue 7).df = true ∧
    (enqX.queue 7).en = true ∧ (enqX.queue 7).isFull = false ∧ ((withQueue enqX (queue0 (List.replicate 8 packet0) (List.replicate 8 packet0))).queue 7).isFull = true := by
  refine ⟨?_, ⟨?_, ?_⟩, described_at _ _ ?_ rfl rfl rfl rfl ?_, ?_, ?_, ?_, ?_, ?_, ?_, ?_, ?_⟩ <;> decide

/-- x1 names the packet at offset 0x1000 of the own local memory. -/
def launchX : State := withQueue (given [0, 1]) (queue0 [packet0] [])

theorem test_hyps_LaunchAndQstat : launchX.able [.x 1] [.x 3] ∧
    DescriptorAt launchX (launchX.rv (.x 1)) 128 (wordsAt (memOf (lmAddr 0 0x1000) [0, 1])) ∧ (launchX.rv (.x 1)).toNat % 64 = 0 ∧
    (launchX.queue 4096).isFull = false ∧ (launchX.queue 4096).df = true ∧ launchX.able [] [] ∧
    ¬ (∃ q ∈ launchX.disp.queues, ∃ p ∈ q.2.spill, p.from_ = some 0 ∧ p.arrived = false) ∧
    (∃ q ∈ (withQueue launchX (queue0 [] [{ packet0 with from_ := some 0, arrived := false }])).disp.queues, ∃ p ∈ q.2.spill,
      p.from_ = some 0 ∧ p.arrived = false) ∧
    (enqX.rv (.x 1)).toNat ≤ 0x1000 ∧ (enqX.queue 7).tickets < 2 ^ 13 ∧ (enqX.queue 7).buf.length < 16 ∧ (enqX.queue 7).depth < 2 ^ 36 := by
  refine ⟨⟨?_, ?_⟩, described_at _ _ ?_ rfl rfl rfl rfl ?_, ?_, ?_, ?_, ⟨?_, ?_⟩, ?_, ?_, ?_, ?_, ?_, ?_⟩ <;> decide

/-- The task is a member of group 5 by GRP entry 0; `a` of its two members have arrived. -/
def barring (a : Nat) : State :=
  { one (fun sl => { sl with task := { sl.task with grp := 0x100000005 } }) with
    parts := [(0, { part0 with groups := [(5, { m := 2, a := a, launch := none })] })] }

theorem test_hyps_Barriers :
    ((barring 1).able [] [.x 3] ∧ ((barring 1).slot 0).task.grp.getLsbD (32 + (1 : BitVec 2).toNat) = false ∧
      ((barring 1).slot 0).task.grp.getLsbD (32 + (0 : BitVec 2).toNat) = true ∧ ((barring 1).slot 0).pend = [] ∧
      ((barring 1).part? 0).any (fun p => get? p.groups 5 = some { m := 2, a := 1, launch := none }) = true ∧ 1 + 1 = 2) ∧
    ((barring 0).part? 0).any (fun p => get? p.groups 5 = some { m := 2, a := 0, launch := none }) = true := by
  refine ⟨⟨⟨?_, ?_⟩, ?_, ?_, ?_, ?_, ?_⟩, ?_⟩ <;> decide

theorem test_hyps_BarrierRelease :
    let s := one fun sl => { sl with st := .parked, park := .bar 0 5 (.x 3), barAt := some 0 }
    (s.slot (8 * 0 + 0)).park = .bar 0 5 (.x 3) ∧ (s.slot (8 * 0 + 0)).barAt = some 0 ∧ 0 ≤ s.dclk ∧ (s.slot (8 * 0 + 0)).st = .parked ∧
    (s.slot (8 * 0 + 0)).unstepped = true := by decide

theorem test_hyps_QueueHappenings :
    let h : Queue := { queue0 [] [] with df := false, tail := 9, head := 1 }
    let t : Queue := { queue0 [] [] with df := false, tw := true, taila := 0x10000 }
    let s := withQueue (one id) h
    (7 < 4096 ∧ h.part < 16 ∧ (s.queue 7) = h ∧ h.df = false ∧ h.tw = false ∧ ((9 : BitVec 32) - h.head).toNat ≤ 2 ^ h.rsz ∧
      2 ^ h.rsz < ((10 : BitVec 32) - h.head).toNat ∧ h.buf.length < 8 ∧ h.tail ≠ h.head) ∧
    (t.df = false ∧ t.tw = true) ∧
    ((queue0 [] [packet0]).df = true ∧ (queue0 [] [packet0]).spill = packet0 :: [] ∧ packet0.arrived = true ∧
      (queue0 [] [{ packet0 with arrived := false }]).spill = { packet0 with arrived := false } :: []) := by decide

/-- The tail word of queue 7, at 0x10000, holds 3; its line has been written. -/
def tailWord : State :=
  let s := withQueue tables { queue0 [] [] with df := false, tw := true, taila := 0x10000, watch := some 0x2FFFFF0000 }
  { s with
    mm := { tables.mm with bytes := tables.mm.bytes ++ [(0x2FFFFF0000, 3)] }
    disp := { s.disp with wrote := [7] } }

theorem test_hyps_TailWord : (tailWord.sysRead 0 0x10000 8).1 = .ok [3, 0, 0, 0, 0, 0, 0, 0] ∧ 7 ∈ tailWord.disp.wrote ∧
    8 ∉ tailWord.disp.wrote := by
  refine ⟨rfl, ?_, ?_⟩ <;> decide

def launchPacket : Packet := { packet0 with bytes := (memOf 0 [0x100000001, 65, 9]).bytes 0 128 }

/-- Queue 7 holds a launch of one task; slot 0 of core 0 is busy, and the stacks have reported. -/
def dispatching : State :=
  { one id with disp := { State.reset.disp with freeRep := [(0, [1])], queues := [(7, queue0 [launchPacket] [])] } }

theorem test_hyps_Dispatch : 3 < 4 ∧ dispatching.dclk % 64 = 0 ∧ dispatching.unplaced = none ∧ dispatching.disp.selAt ≤ dispatching.dclk ∧
    dispatching.selectQueue = some 7 ∧ (dispatching.queue 7).buf = launchPacket :: [] ∧ launchPacket.gone = false ∧
    launchPacket.failed = false ∧ launchPacket.bad = [] ∧ dispatching.packetFails 0 launchPacket = false ∧ launchPacket.n = 1 ∧
    (dispatching.candidates 0).head? = some 1 ∧ dispatching.sched.choices = [] := by decide

/-! Graphs and the reuse table. -/

/-- x1 is 0x10000, an address in the page that the tables and the octet's TLB map, x2 is `b`, and the page's words are `ws`. -/
def paged (b : Word) (ws : List Word) : State :=
  { tables with
    slots := [(0, setX [(1, 0x10000), (2, b)] slotS)]
    octets := [(0, { Octet.reset with part := some 0, tlb := [leaf1] })]
    mm := { tables.mm with bytes := tables.mm.bytes ++ memOf 0x2FFFFF0000 ws } }

/-- The words of the page. -/
def pageWord (ws : List Word) (j : Nat) : Word := (paged 0 ws).rdWord (0x2FFFFF0000 + 8 * j)

theorem block_at {s : State} (ws : List Word) (h1 : s.cur = 0) (h2 : (s.slot 0).pend = []) (h3 : s.tlb? 0 (s.slot 0).task.part 0x10000 = some leaf1)
    (h4 : s.mm.bytes = tables.mm.bytes ++ memOf 0x2FFFFF0000 ws) (h5 : s.poisoned 0x2FFFFF0000 64 = false) (h6 : s.bias = [] := by rfl) :
    BlockAt s 0x10000 0x2FFFFF0000 (pageWord ws) where
  core := by rw [h1]; decide
  idle := by rw [h1]; exact h2
  place := by decide
  page := by
    have hc : s.readsHome (some (s.cur / 8)) leaf1.leaf.c 0x2FFFFF0000 = false := rfl
    refine ⟨leaf1, by rw [h1]; exact h3, by decide, by decide, fun _ => by decide, by decide, by decide, ?_, fun j x hj hx => ?_⟩
    · rw [State.viewPoison, hc]; exact h5
    · rw [State.viewBytes, hc, State.rdBytes, h4]
      have h7 : 8 * j + x < 64 := by omega
      have h8 := rdWord_byte (paged 0 ws) (0x2FFFFF0000 + 8 * j) x hx
      rw [pageWord, h8]
      simp [Memory.bytes, List.getD_eq_getElem?_getD, h7, paged, Nat.add_assoc]
  still := not_busy h6

/-- A graph with these nodes, its header at 0x10000 and its records from 0x10040 on. -/
def graph0 (st : GStatus) (ns : List GNode) : Graph :=
  { part := 0, hdr := 0x10000, hpa := 0x2FFFFF0000, nodes := 0x10040, count := ns.length, tenant := 0, fcode := 0, status := st, cwa := 0
    ctag := 0, cursor := 0xFFFFFFFF, waves := 0, ns := ns, wave := none, cone := [], held := [], owner := none }

def node0 (st : NodeSt) (expected pending : Nat) : GNode := { GNode.zero with st := st, expected := expected, pending := pending }

/-- `paged`, with graph 2 live. -/
def graphed (b : Word) (v : Graph) : State := { paged b [] with sk := { State.reset.sk with graphs := [(2, v)] } }

theorem test_hyps_GraphInstructionsOffGraph : (paged 0 [0, 0]).able [.x 1, .x 2] [.x 3] ∧ ((paged 0 [0, 0]).slot 0).task.pure = false ∧
    BlockAt (paged 0 [0, 0]) ((paged 0 [0, 0]).rv (.x 1)) 0x2FFFFF0000 (pageWord [0, 0]) ∧ (paged 0 [0, 0]).mm.feq = [] ∧
    (paged 0 [0, 0]).liveGraph 0x2FFFFF0000 = none ∧ fld (pageWord [0, 0] 1) 31 24 ≠ 5 ∧
    fld (pageWord [0, 0] 1) 23 0 ≤ ((paged 0 [0, 0]).rv (.x 2)).toNat := by
  refine ⟨⟨?_, ?_⟩, ?_, block_at _ rfl rfl ?_ rfl ?_, ?_, ?_, ?_, ?_⟩ <;> decide

theorem test_hyps_GraphInstructions :
    let s := graphed 1 (graph0 .running [node0 .done 1 0, node0 .wait 2 2])
    s.able [.x 1, .x 2] [.x 3] ∧ (s.slot 0).task.pure = false ∧ BlockAt s (s.rv (.x 1)) 0x2FFFFF0000 (pageWord []) ∧ s.mm.feq = [] ∧
    s.liveGraph 0x2FFFFF0000 = some (2, graph0 .running [node0 .done 1 0, node0 .wait 2 2]) ∧
    s.graph? 2 = some (graph0 .running [node0 .done 1 0, node0 .wait 2 2]) ∧ (s.rv (.x 2)).toNat = 1 ∧
    (graph0 .running [node0 .done 1 0, node0 .wait 2 2]).ns.length = 2 ∧ (graph0 .running [node0 .done 1 0, node0 .wait 2 2]).count = 2 ∧
    (∀ m ∈ (graph0 .running [node0 .done 1 0, node0 .wait 2 2]).ns, m.st = .ready → m.lookup = true) ∧
    (node0 .wait 2 2).st = .wait ∧ 1 < (node0 .wait 2 2).pending ∧ (node0 .done 1 0).st = .done ∧
    (graphed 2 (graph0 .running [node0 .done 1 0, node0 .wait 2 2])).rv (.x 2) = 2 ∧
    (graphed 0 (graph0 .wave [node0 .wait 1 1])).heldAt (stackOfPa 0x2FFFFF0000) < 4096 ∧
    fld ((graphed 0xFFFD00000001 (graph0 .running [])).rv (.x 2)) 63 48 = 0 ∧
    fld ((graphed 0xFFFD00000001 (graph0 .running [])).rv (.x 2)) 31 0 = 1 ∧
    (node0 .wait 2 2).expected + fld ((graphed 0xFFFD00000001 (graph0 .running [])).rv (.x 2)) 47 32 ≤ 65535 ∧
    65535 < (node0 .wait 2 2).expected + fld ((graphed 0xFFFE00000001 (graph0 .running [])).rv (.x 2)) 47 32 ∧
    fld ((graphed 0x1000000000000 (graph0 .running [])).rv (.x 2)) 63 48 ≠ 0 := by
  refine ⟨⟨?_, ?_⟩, ?_, block_at _ rfl rfl ?_ (by simp [graphed, paged, memOf, Memory.setBytes]) ?_, ?_⟩
  all_goals decide

theorem test_hyps_GraphRetry :
    let v := graph0 .running [node0 .fault 1 0]
    (graphed 0 v).liveGraph 0x2FFFFF0000 = some (2, v) ∧ (v.node 0).st = .fault ∧ v.status = .running ∧ 0 < v.count ∧
    v.ns.length = v.count ∧ (graphed 0 v).mm.homes = [] ∧ ((graphed 0 v).reachable (Eng.sys v.part) v (v.count + 1) [0] [0]).1 = some [0] := by
  refine ⟨?_, ?_, ?_, ?_, ?_, ?_, ?_⟩ <;> decide

/-- The header of a graph with one node, whose record expects one token, as GLAUNCH may find it. -/
def launchWords : List Word := [0x10040, 1, 0, 0, 0, 0, 0, 0, 0x1000000000000]

theorem walk_table {s : State} {va : Word} {left table ix : Nat} (e : Word) (h1 : walkIndex va (4 - left) = ix)
    (h2 : isDev (table + 8 * ix) = true ∧ s.poisoned (table + 8 * ix) 8 = false ∧ s.rdWord (table + 8 * ix) = e)
    (h3 : e.getLsbD 0 = true ∧ e.getLsbD 1 = true ∧ fld e 11 2 = 0 ∧ fld e 63 56 = 0) (h4 : left ≠ 0 ∧ left < 4)
    (next : Nat) (h6 : fld e 55 12 * 4096 = next) : s.walkFrom 0 va (left + 1) table = s.walkFrom 0 va left next := by
  subst h6
  have h5 : ¬ 4 - left = 4 := by omega
  rw [State.walkFrom, h1]
  have e0 : e[0] = true := by simpa using h3.1
  have e1 : e[1] = true := by simpa using h3.2.1
  simp [h2, e0, e1, h3.2.2, h5]

theorem walk_leaf {s : State} {va : Word} {table ix : Nat} (e : Word) (h1 : walkIndex va 4 = ix)
    (h2 : isDev (table + 8 * ix) = true ∧ s.poisoned (table + 8 * ix) 8 = false ∧ s.rdWord (table + 8 * ix) = e)
    (h3 : e.getLsbD 0 = true ∧ e.getLsbD 1 = false) : s.walkFrom 0 va 1 table = leafEnd 0 va e 4 := by
  rw [State.walkFrom, h1]
  have e0 : e[0] = true := by simpa using h3.1
  have e1 : e[1] = false := by simpa using h3.2
  simp [h2, e0, e1]

theorem leaf1_true {s : State} (h1 : (s.oct 0).tlb = [leaf1]) (h2 : (s.die 0).tlb = []) (h3 : s.parts = [(0, part0)])
    (h4 : s.mm.poison = []) (h5 : s.rdWord 0x40000 = 0x50003 ∧ s.rdWord 0x50000 = 0x60003 ∧ s.rdWord 0x60000 = 0x70003 ∧
      s.rdWord 0x70008 = 0x2FFFFF007D) : TlbsTrue s 0 0 := by
  intro t ht _ va h6 h7
  have e : t = leaf1 := by
    rcases ht with h | h
    · rw [show octetOf 0 = 0 from rfl, h1] at h
      simpa using h
    · rw [show stackOf 0 = 0 from rfl, h2] at h
      cases h
  subst e
  simp only [leaf1] at h6 h7
  have hp (a : Nat) : s.poisoned a 8 = false := by simp [State.poisoned, h4]
  have i1 : walkIndex va (4 - 3) = 0 := by simp [walkIndex, fld, Nat.shiftRight_eq_div_pow]; omega
  have i2 : walkIndex va (4 - 2) = 0 := by simp [walkIndex, fld, Nat.shiftRight_eq_div_pow]; omega
  have i3 : walkIndex va (4 - 1) = 0 := by simp [walkIndex, fld, Nat.shiftRight_eq_div_pow]; omega
  have i4 : walkIndex va 4 = 1 := by simp [walkIndex, fld, Nat.shiftRight_eq_div_pow]; omega
  have hw : s.walk 0 va = s.walkFrom 0 va 4 0x40000 := by
    simp [State.walk, State.walkAt, State.rootOf, Machine.Part.ctlAt, State.part?, h3, get?, part0, fld]
  rw [hw, walk_table 0x50003 i1 ⟨by decide, hp _, h5.1⟩ (by decide) (by decide) 0x50000 (by decide),
    walk_table 0x60003 i2 ⟨by decide, hp _, h5.2.1⟩ (by decide) (by decide) 0x60000 (by decide),
    walk_table 0x70003 i3 ⟨by decide, hp _, h5.2.2.1⟩ (by decide) (by decide) 0x70000 (by decide),
    walk_leaf 0x2FFFFF007D i4 ⟨by decide, hp _, h5.2.2.2⟩ (by decide)]
  have hv : va.toNat / 65536 = 1 := by omega
  simp [leafEnd, leaf1, hv, fld, pteLeaf, devEnd]

/-- x1 names the header of a graph that may be launched. -/
def launchable : State := paged 0 launchWords

theorem test_hyps_GraphLaunch : launchable.able [.x 1] [.x 3] ∧ (launchable.slot 0).task.pure = false ∧
    BlockAt launchable (launchable.rv (.x 1)) 0x2FFFFF0000 (pageWord launchWords) ∧ launchable.mm.feq = [] ∧
    TlbsTrue launchable 0 (launchable.slot 0).task.part ∧ launchable.liveGraph 0x2FFFFF0000 = none ∧
    fld (pageWord launchWords 1) 31 24 = 0 ∧ fld (pageWord launchWords 1) 63 56 = 0 ∧ fld (pageWord launchWords 0) 5 0 = 0 ∧
    fld (pageWord launchWords 2) 2 0 = 0 ∧ launchable.sk.graphs = [] ∧ fld (pageWord launchWords 1) 23 0 = 1 ∧ launchable.mm.homes = [] := by
  refine ⟨⟨?_, ?_⟩, ?_, block_at _ rfl rfl ?_ rfl ?_, ?_, leaf1_true rfl rfl rfl rfl ?_, ?_, ?_, ?_, ?_, ?_, ?_, ?_, ?_⟩ <;> decide

/-- The walk of GLAUNCH found one node, which expects a token. -/
def isLaunch (r : Except Word (List GNode × List (List Nat))) : Bool :=
  match r with
  | .ok (ns, _) => decide (ns.length = 1) && ns.all fun n => decide (n.expected = 1)
  | .error _ => false

theorem test_hyps_GraphLaunchWalk : ∃ ns ls, (launchable.walkGraph (launchable.slotEng 0) (pageWord launchWords 0) 1).1 = .ok (ns, ls) ∧
    ns.length = 1 ∧ ∀ n ∈ ns, n.expected = 1 := by
  have h : isLaunch (launchable.walkGraph (launchable.slotEng 0) (pageWord launchWords 0) 1).1 = true := by decide
  unfold isLaunch at h
  split at h
  · rename_i ns ls heq
    exact ⟨ns, ls, heq, by simpa using h⟩
  · cases h

theorem test_hyps_GraphHappenings :
    let v := graph0 .running [node0 .done 1 0, node0 .wait 2 2]
    let s : State := { graphed 0 v with sk := { State.reset.sk with
      graphs := [(2, v)], tokens := [(0, { hpa := 0x2FFFFF0000, node := 1 }), (1, { hpa := 0x2FFFFF0000, node := 0 }),
        (2, { hpa := 0x1000, node := 0 }), (3, { hpa := 0x2FFFFF0000, node := 2 })] } }
    (s.graph? 2 = some v ∧ v.ns.length = v.count ∧ s.mm.feq = [] ∧ s.part? v.part = some part0 ∧ part0.gang = .running) ∧
    (get? s.sk.tokens 0 = some { hpa := 0x2FFFFF0000, node := 1 } ∧ s.liveGraph 0x2FFFFF0000 = some (2, v) ∧ 1 < v.count ∧
      v.status = .running ∧ (v.node 1).st = .wait ∧ 1 < (v.node 1).pending ∧ (v.node 0).st = .done ∧
      ∀ m ∈ v.ns, m.st = .ready → m.lookup = true) ∧
    (get? s.sk.tokens 2 = some { hpa := 0x1000, node := 0 } ∧ s.liveGraph 0x1000 = none) ∧
    (get? s.sk.tokens 3 = some { hpa := 0x2FFFFF0000, node := 2 } ∧ v.count ≤ 2) ∧ s.heldAt (stackOfPa 0x2FFFFF0000) < 4096 := by decide

theorem test_hyps_NodeCompletion :
    let v := graph0 .running [node0 .run 1 0, node0 .wait 2 2]
    let s : State := { graphed 0 v with sk := { State.reset.sk with
      graphs := [(2, v)], done := [(0, { graph := 2, node := 0, st := 0, launch := 0 }), (1, { graph := 2, node := 0, st := 3, launch := 0 })] } }
    s.graph? 2 = some v ∧ get? s.sk.done 0 = some { graph := 2, node := 0, st := 0, launch := 0 } ∧
    get? s.sk.done 1 = some { graph := 2, node := 0, st := 3, launch := 0 } ∧ 0 < v.count ∧ (v.node 0).st = .run ∧
    (v.node 0).missed = false ∧ (s.succList (Eng.sys v.part) v 0).1 = .ok [] ∧ (∃ m ∈ v.ns, m.st = .wait) ∧
    (∀ m ∈ v.ns, m.st = .ready → m.lookup = true) := by
  exact ⟨rfl, rfl, rfl, by decide, rfl, rfl, by decide +kernel, by decide, by decide⟩

/-- Node 0 has faulted, and a wave has started at it. -/
def waveGraph (retries : Nat) : Graph :=
  { graph0 .wave [{ node0 .fault 1 0 with retryable := true, retries := retries, fcode := 3 }, node0 .wait 2 2] with
    wave := some { origin := some 0, level := [0], cone := [], listFault := none, rollback := false } }

/-- The successor list of node 0 of `waveGraph` names node 1. -/
def waveSucc : State :=
  { paged 0 [0x10040, 2, 0, 0, 0, 0, 0, 0, 0, 0, 0x10100, 1, 0, 0, 0, 0, 0, 0, 0, 0, 0, 0, 0, 0, 0, 0, 0, 0, 0, 0, 0, 0, 1] with
    sk := { State.reset.sk with graphs := [(2, waveGraph 0)] } }

theorem test_hyps_WaveLevel :
    let s := graphed 0 (waveGraph 1)
    (s.graph? 2 = some (waveGraph 1) ∧ (waveGraph 1).ns.length = (waveGraph 1).count ∧
      (s.succLists (Eng.sys 0) (waveGraph 1) [0]).1 = [[]].map .ok ∧
      ((waveGraph 1).node 0).st = .fault ∧ ((waveGraph 1).node 0).retryable = true ∧ 0 < ((waveGraph 1).node 0).retries ∧
      ((waveGraph 1).node 0).fcode ≠ 0x12 ∧ ¬ 0 < ((waveGraph 0).node 0).retries ∧ (waveGraph 0).held = [] ∧
      (∃ m ∈ (waveGraph 0).ns, m.st = .wait) ∧ (∀ m ∈ (waveGraph 0).ns, m.st = .ready → m.lookup = true)) ∧
    ((waveSucc.succLists (Eng.sys 0) (waveGraph 0) [0]).1 = [[1]].map .ok ∧
      ([0] : List Nat).Nodup ∧ (∀ j ∈ ([0] : List Nat), j < (waveGraph 0).count) ∧ (∃ y ∈ ([[1]] : List (List Nat)).flatten, y ∉ ([] ++ [0] : List Nat))) := by
  exact ⟨⟨rfl, rfl, by decide +kernel, rfl, rfl, by decide, by decide, by decide, rfl, by decide, by decide⟩,
    by decide +kernel, by decide, by decide, by decide⟩

theorem test_hyps_Rearm :
    let v := { graph0 .retrying [{ node0 .retry 1 1 with retryable := true }] with cone := [0] }
    let s := graphed 0 v
    s.graph? 2 = some v ∧ v.status = .retrying ∧ v.cone = [0] ∧ (v.node 0).st = .retry ∧ v.held = [] ∧
    (∀ m ∈ v.ns, m.st = .ready → m.lookup = true) ∧ (s.succLists (Eng.sys v.part) v [0]).1 = [.ok []] ∧ (v.node 0).pending + 0 ≠ 0 := by
  exact ⟨rfl, rfl, rfl, rfl, rfl, by decide, by decide +kernel, by decide⟩

/-! SHAKE256 of the empty message, from the standard that R189 names. -/

theorem test_shake256 : (digest16 []).toNat = bytesNat [0x46, 0xB9, 0xDD, 0x2B, 0x0B, 0xA8, 0x8D, 0x13, 0x23, 0x3B, 0x3F, 0xEB, 0x74, 0x3E, 0xEB, 0x24] := by
  decide +kernel

/-! The reuse table. -/

/-- A block at offset 0x1000 of the own local memory, and behind it a descriptor list of one tile of no bytes. -/
def reuseWords (raddr n : Word) : List Word :=
  [0xC0DE, 0, 0x00FFFF0000001080, 0, raddr, n, 0, 0, 0, 0, 0, 0, 0, 0, 0, 0, 0x10000, 0x200000000, 0, 0]

def reuseMem (ws : List Word) : Memory := tables.mm.bytes ++ memOf (lmAddr 0 0x1000) ws

/-- x1 names the block; `q` is the tenant's quota and `es` the entries of every stack. -/
def reusing (ws : List Word) (q : Nat) (es : List PewEntry) : State :=
  { tables with
    slots := [(0, setX [(1, 0x00FFFF0000001000)] slotS)]
    octets := [(0, { Octet.reset with part := some 0, tlb := [leaf1] })]
    dies := (List.range 4).map fun d => (d, { Stack.reset with pew := { entries := es } })
    pw := { State.reset.pw with tenants := [(0, { PewTenant.zero with quota := q })] }
    mm := { tables.mm with bytes := reuseMem ws } }

def tile0d : Desc := { addr := 0x10000, bytes := 0, dv := false, res := false, sc := 0, dig := 0 }

theorem test_hyps_Rudrop : (reusing (reuseWords 0x10000 8) 0 []).able [.x 1] [.x 3] ∧
    ((reusing (reuseWords 0x10000 8) 0 []).slot 0).task.pure = false ∧
    DescriptorAt (reusing (reuseWords 0x10000 8) 0 []) 0x00FFFF0000001000 16 (wordsAt (reuseMem (reuseWords 0x10000 8))) := by
  refine ⟨⟨?_, ?_⟩, ?_, described_at _ _ ?_ rfl rfl rfl rfl ?_⟩ <;> decide

theorem test_hyps_Rulook :
    let s := reusing (reuseWords 0x10000 8) 1 []
    let w := wordsAt (reuseMem (reuseWords 0x10000 8))
    DescriptorAt s 0x00FFFF0000001000 128 w ∧ s.rv (.x 1) = 0x00FFFF0000001000 ∧ (0x00FFFF0000001000 : Word).toNat % 64 = 0 ∧
    fld (w 3) 63 48 = 0 ∧ fld (w 5) 63 32 = 0 ∧ (∀ j, 10 ≤ j → j < 16 → w j = 0) ∧
    (s.slot 0).look = none ∧ (s.descList (s.slotEng 0) (w 2) true).1 = some [tile0d] ∧ (∀ x ∈ [tile0d], x.res = false) ∧
    s.isDemoted 0 (w 1 ++ w 0) = false ∧ (s.pewTenant 0).quota ≠ 0 ∧
    ((s.descList (s.slotEng 0) (w 2) true).2.tileDigests (s.slotEng 0) [tile0d]).1.isSome = true ∧ s.mm.feq = [] ∧
    ((reusing (reuseWords 0x10000 8) 0 []).pewTenant 0).quota = 0 ∧
    fld (wordsAt (reuseMem (reuseWords 0x10000 0x100000008)) 5) 63 32 ≠ 0 := by
  refine ⟨described_at _ _ ?_ rfl rfl rfl rfl ?_, ?_, ?_, ?_, ?_, ?_, ?_, ?_, ?_, ?_, ?_, ?_, ?_, ?_, ?_⟩
  · decide +kernel
  · decide +kernel
  · decide +kernel
  · decide +kernel
  · decide +kernel
  · decide +kernel
  · intro j h1 h2
    have : j = 10 ∨ j = 11 ∨ j = 12 ∨ j = 13 ∨ j = 14 ∨ j = 15 := by omega
    obtain rfl | rfl | rfl | rfl | rfl | rfl := this <;> decide +kernel
  all_goals decide +kernel

/-- An entry that has the key `k` and the block's result region. -/
def entryOf (k : BitVec 128) : PewEntry :=
  { id := 0, key := k, raddr := 0x10000, part := 0, tenant := 0, rbytes := 8, rdig := 5, last := 0, hits := 0, pages := [] }

theorem block_words : fld (wordsAt (reuseMem (reuseWords 0x10000 8)) 5) 31 0 = 8 ∧ wordsAt (reuseMem (reuseWords 0x10000 8)) 4 = 0x10000 := by
  decide +kernel

theorem entry_found (k : BitVec 128) : ((reusing (reuseWords 0x10000 8) 1 [entryOf k]).die (k.toNat % 4)).pew.entries = [entryOf k] := by
  have : k.toNat % 4 = 0 ∨ k.toNat % 4 = 1 ∨ k.toNat % 4 = 2 ∨ k.toNat % 4 = 3 := by omega
  obtain h | h | h | h := this <;> rw [h] <;> rfl

theorem test_hyps_RulookHit (k : BitVec 128) :
    let s := reusing (reuseWords 0x10000 8) 1 [entryOf k]
    let w := wordsAt (reuseMem (reuseWords 0x10000 8))
    (s.die (k.toNat % 4)).pew.entries.find? (fun x => x.key = k && x.tenant = 0) = some (entryOf k) ∧
    (entryOf k).rbytes = fld (w 5) 31 0 ∧ (entryOf k).raddr = w 4 ∧ (entryOf k).part = 0 := by
  intro s w
  refine ⟨?_, block_words.1.symm, block_words.2.symm, rfl⟩
  rw [entry_found]
  simp [entryOf]

/-- RUKEY holds the key of a miss of the block. -/
def missed : State :=
  { reusing (reuseWords 0x10000 8) 1 [] with
    slots := [(0, { setX [(1, 0x00FFFF0000001000)] slotS with rukey := some (5, 0x00FFFF0000001000) })] }

theorem test_hyps_Ruput :
    (missed.slot 0).rukey = some (5, 0x00FFFF0000001000) ∧ missed.rv (.x 1) = 0x00FFFF0000001000 ∧
    DescriptorAt missed 0x00FFFF0000001000 128 (wordsAt (reuseMem (reuseWords 0x10000 8))) ∧
    (missed.watchResult (missed.slotEng 0) 0x10000 8).1 = some [0x2FFFFF] ∧
    ((reusing (reuseWords 0x10000 8) 1 []).slot 0).rukey = none ∧
    (0x2000 : Word) ≠ missed.rv (.x 1) := by
  refine ⟨rfl, rfl, described_at _ _ ?_ rfl rfl rfl rfl ?_, ?_, ?_, ?_⟩ <;> decide +kernel

/-- Node 0 of graph 2 is READY and asks Pewter: its record, at 0x10040, names the packet at 0x10100, whose argument list at 0x10200 has one
tile of no bytes; its result goes to 0x10000. -/
def probeWords : List Word :=
  List.replicate 8 0 ++ [0, 0x10100, 0, 0, 0x10000, 8, 0, 0] ++ List.replicate 16 0 ++ [1, 65, 0x10200, 0, 0, 0, 0xC0DE, 0] ++
    List.replicate 24 0 ++ [0x10000, 0x200000000, 0, 0]

def probeGraph : Graph := graph0 .running [{ node0 .ready 1 0 with lookup := true, pure := true }, node0 .wait 1 1]

def probing (es : List PewEntry) : State :=
  { paged 0 probeWords with
    sk := { State.reset.sk with graphs := [(2, probeGraph)] }
    dies := (List.range 4).map fun d => (d, { Stack.reset with pew := { entries := es } }) }

/-- The key is the one that R287 gives for these words. -/
def probe0 : Probe := { key := 0x88F6957AB87B846B0B364671702418D2, tenant := 0, part := 0, dst := 0x10000, bytes := 8 }

theorem test_hyps_NodeReuse :
    (probing []).graph? 2 = some probeGraph ∧ probeGraph.ns.length = probeGraph.count ∧ 0 < probeGraph.count ∧
    probeGraph.status = .running ∧ (probeGraph.node 0).lookup = true ∧ (probing []).mm.feq = [] ∧
    (probing []).part? probeGraph.part = some part0 ∧ part0.gang = .running ∧ ((probing []).nodeProbe probeGraph 0).1 = some probe0 ∧
    (probeGraph.node 0).copy = none ∧
    (((probing []).nodeProbe probeGraph 0).2.engDrop (Eng.sys 0) (probeGraph.recVa 0 + 0x30) (natBytes 16 probe0.key.toNat)).pewProbe probe0.tenant probe0.key = none := by
  exact ⟨rfl, rfl, by decide, rfl, rfl, rfl, rfl, rfl, by decide +kernel, rfl, by decide +kernel⟩

theorem test_hyps_NodeReuseHit :
    let s := probing [entryOf probe0.key]
    let m := (s.nodeProbe probeGraph 0).2.engDrop (Eng.sys 0) (probeGraph.recVa 0 + 0x30) (natBytes 16 probe0.key.toNat)
    (s.nodeProbe probeGraph 0).1 = some probe0 ∧ m.pewProbe probe0.tenant probe0.key = some (entryOf probe0.key) ∧
    (entryOf probe0.key).rbytes = probe0.bytes ∧ (entryOf probe0.key).raddr = probe0.dst ∧ (entryOf probe0.key).part = probe0.part ∧
    (m.succList (Eng.sys 0) probeGraph 0).1 = .ok [] ∧ (∃ x ∈ probeGraph.ns, x.st = .wait) ∧ (probeGraph.node 0).st ≠ .wait ∧
    (∀ x ∈ probeGraph.ns, x.st = .ready → x.lookup = true) := by
  refine ⟨?_, ?_, ?_, ?_, ?_, ?_, ?_, ?_, ?_⟩ <;> decide +kernel

theorem test_hyps_NodeReuseCopy :
    let en := { entryOf probe0.key with raddr := 0x10080 }
    let s := probing [en]
    let m := (s.nodeProbe probeGraph 0).2.engDrop (Eng.sys 0) (probeGraph.recVa 0 + 0x30) (natBytes 16 probe0.key.toNat)
    (s.nodeProbe probeGraph 0).1 = some probe0 ∧ m.pewProbe probe0.tenant probe0.key = some en ∧ en.rbytes = probe0.bytes ∧
    ¬ (en.raddr = probe0.dst ∧ en.part = probe0.part) := by
  refine ⟨?_, ?_, ?_, ?_⟩ <;> decide +kernel

/-- A pending insert of a region of 8 bytes at 0x10000. -/
def insert0 (spoiled : Bool) : PewInsert :=
  { key := 5, tenant := 0, part := 0, raddr := 0x10000, rbytes := 8, pages := [0x2FFFFF], spoiled := spoiled }

def inserting (b : Bool) : State :=
  { reusing (reuseWords 0x10000 8) 1 [] with pw := { (reusing [] 1 []).pw with inserts := [(3, insert0 b)] } }

theorem test_hyps_PewterInsert :
    get? (inserting true).pw.inserts 3 = some (insert0 true) ∧ get? (inserting false).pw.inserts 3 = some (insert0 false) ∧
    (∃ bs, ((inserting false).engReadClean (Eng.sys 0) 0x10000 8).1 = .ok bs) ∧ ((inserting false).pewTenant 0).quota ≠ 0 ∧
    ((inserting false).die ((insert0 false).key.toNat % 4)).pew.entries = [] ∧
    (∀ j d, ((inserting false).slot j).hold ≠ .insert 3 d) := by
  refine ⟨rfl, rfl, okIs_iff ?_, ?_, ?_, fun j d => ?_⟩
  · decide +kernel
  · decide +kernel
  · decide +kernel
  · rcases Nat.eq_zero_or_pos j with rfl | h
    · exact fun e => nomatch e
    · rw [show (inserting false).slot j = Slot.idle (resetDuty (j % 8)) by
        simp [State.slot, inserting, reusing, given, described, one, look, get?, show ¬ 0 = j by omega]]
      exact fun e => nomatch e

/-- A RUPUT in slot 0 holds the slot until insert 3 ends; an entry of another tenant is there. -/
def insertHeld (b : Bool) : State :=
  { inserting b with
    slots := [(0, { slotS with st := .stall, hold := .insert 3 (.x 3) })]
    dies := (List.range 4).map fun d => (d, { Stack.reset with pew := { entries := [{ entryOf 1 with tenant := 9 }] } }) }

theorem test_hyps_HeldInserts :
    Inserting (insertHeld true) 0 3 (.x 3) (insert0 true) ∧ Inserting (insertHeld false) 0 3 (.x 3) (insert0 false) ∧
    (∃ bs, ((insertHeld false).engReadClean { (insertHeld false).slotEng 0 with part := 0 } 0x10000 8).1 = .ok bs) ∧
    ((insertHeld false).pewTenant 0).quota ≠ 0 ∧
    (∀ x ∈ ((insertHeld false).die ((insert0 false).key.toNat % 4)).pew.entries, x.tenant ≠ 0) ∧
    (((insertHeld false).die ((insert0 false).key.toNat % 4)).pew.entries.filter fun x =>
      x.key.toNat / 4 % 2 ^ 14 = (insert0 false).key.toNat / 4 % 2 ^ 14).length < 16 := by
  have h (b : Bool) (j : Nat) (x : Dst) (hj : j ≠ 0) : ((insertHeld b).slot j).hold ≠ .insert 3 x := by
    rw [show (insertHeld b).slot j = Slot.idle (resetDuty (j % 8)) by simp [State.slot, insertHeld, look, get?, show ¬ 0 = j by omega]]
    exact fun e => nomatch e
  refine ⟨⟨rfl, rfl, h true, rfl⟩, ⟨rfl, rfl, h false, rfl⟩, okIs_iff ?_, ?_, ?_, ?_⟩ <;> decide +kernel

/-! Agents, events and global virtual time. -/

/-- An agent image: home stack 0, room for 16 log entries and 16 events, a context of 5 bytes. -/
def imageWords (home : Word) : List Word := [3, home <<< 32, 0x90000, 0xA0000, 0, 0xB0000, 0, 0, 0, 0, 0, 0, 0x40400000000, 0, 5]

def imaged (home : Word) : State := given (imageWords home)

theorem test_hyps_Agnew :
    let s := imaged 0xFF
    let w := wordsAt (memOf (lmAddr 0 0x1000) (imageWords 0xFF))
    s.able [.x 1] [.x 3] ∧ (s.slot 0).task.pure = false ∧ s.part? 0 = some part0 ∧ DescriptorAt s 0x00FFFF0000001000 256 w ∧
    (s.rv (.x 1)).toNat % 64 = 0 ∧ TlbsTrue s 0 0 ∧ ImageGood s 0 (s.slot 0).lv w ∧ BitVec.ofNat 16 (fld (w 12) 63 48) = (s.slot 0).task.tenant ∧
    newt0.next ≠ newt0.cap ∧
    newt0.free + 64 * 2 ^ fld (w 12) 39 32 + 64 * 2 ^ fld (w 12) 47 40 ≤ newt0.size - 4096 * newt0.pool := by
  refine ⟨⟨?_, ?_⟩, ?_, ?_, given_at _ _ (by decide), ?_, fun t h => (h.elim (fun h => nomatch h) fun h => nomatch h),
    ⟨?_, ?_, .inr ?_, ?_, ?_, ?_, ?_, ?_, ?_, ?_, ?_, ?_, ?_, ?_, ?_, ?_, ?_⟩, ?_, ?_, ?_⟩
  · decide +kernel
  · decide +kernel
  · decide +kernel
  · rfl
  · decide +kernel
  · decide +kernel
  · decide +kernel
  · decide +kernel
  · decide +kernel
  · decide +kernel
  · decide +kernel
  · intro j h1 h2
    have : j = 6 ∨ j = 7 ∨ j = 8 ∨ j = 9 ∨ j = 10 ∨ j = 11 := by omega
    obtain rfl | rfl | rfl | rfl | rfl | rfl := this <;> decide +kernel
  · decide +kernel
  · decide +kernel
  · decide +kernel
  · decide +kernel
  · decide +kernel
  · decide +kernel
  · decide +kernel
  · decide +kernel
  · have h : ∀ j, j < 32 → 15 ≤ j → wordsAt (memOf (lmAddr 0 0x1000) (imageWords 0xFF)) j = 0 := by decide +kernel
    exact fun j h1 h2 => h j h2 h1
  · intro j h
    have h0 : (wordsAt (memOf (lmAddr 0 0x1000) (imageWords 0xFF)) 4).toNat / 4096 = 0 := by decide +kernel
    rw [h0] at h
    cases h
  · decide +kernel
  · decide +kernel
  · decide +kernel

theorem test_hyps_AgnewRefuses :
    (¬ ImageGood (imaged 4) 0 .s (wordsAt (memOf (lmAddr 0 0x1000) (imageWords 4)))) ∧
    DescriptorAt (imaged 4) 0x00FFFF0000001000 256 (wordsAt (memOf (lmAddr 0 0x1000) (imageWords 4))) ∧
    ({ newt0 with next := 16 } : NewtPart).next = newt0.cap := by
  refine ⟨fun h => ?_, given_at _ _ (by decide), rfl⟩
  exact absurd h.2.2.1 (by decide +kernel : ¬ (fld (wordsAt (memOf (lmAddr 0 0x1000) (imageWords 4)) 1) 39 32 < 4 ∨
    fld (wordsAt (memOf (lmAddr 0 0x1000) (imageWords 4)) 1) 39 32 = 0xFF))

/-- `handling`, with x1 and x2. -/
def handlingX (a b : Word) : State := handling (setX [(1, a), (2, b)])

def newtOpen : NewtPart := { newt0 with next := 1, agents := [(0, agentOpen)] }

theorem test_hyps_Agstat :
    (handlingX 0 9).able [.x 1, .x 2] [.x 3] ∧ (handlingX 0 9).part? 0 = some { part0 with newt := newtOpen } ∧
    get? newtOpen.agents ((handlingX 0 9).rv (.x 1)).toNat = some agentOpen ∧ ((handlingX 0 9).rv (.x 2)).toNat = 9 ∧
    ((handlingX 0 31).rv (.x 2)).toNat ≤ 31 ∧ 31 < ((handlingX 0 32).rv (.x 2)).toNat ∧
    get? newtOpen.agents ((handlingX 1 0).rv (.x 1)).toNat = none ∧
    (∀ e ∈ agent0.events, e.st = .unprocessed ∨ e.st = .anti ∨ ∃ j, e.st = .placed j) := by
  refine ⟨⟨?_, ?_⟩, rfl, rfl, ?_, ?_, ?_, rfl, fun e h => by cases h⟩ <;> decide +kernel

/-- An event image with timestamp `ts` for agent 0; x1 names it. -/
def sending (ts : Word) (opened : Bool) : State :=
  { given [ts, 0x100000000, 0, 0, 1, 2, 3, 4] with
    slots := [(0, { setX [(1, 0x00FFFF0000001000)] slotS with task := { slotS.task with evt := if opened then some 0 else none } })]
    parts := [(0, { part0 with newt := { newtOpen with gvt := 4 } })] }

theorem sending_at (ts : Word) (b : Bool) : DescriptorAt (sending ts b) 0x00FFFF0000001000 64
    (wordsAt (memOf (lmAddr 0 0x1000) [ts, 0x100000000, 0, 0, 1, 2, 3, 4])) := by
  refine described_at _ _ (by decide) rfl ?_ ?_ (by simp only [sending, given, described]) ?_
  · cases b <;> rfl
  · simp [State.role, sending, given, described, State.core, look, one, State.reset, CoreState.reset, fld]
  · simp [State.poisoned, sending, given, described, one, State.reset]

theorem test_hyps_Evsend :
    let w := wordsAt (memOf (lmAddr 0 0x1000) [6, 0x100000000, 0, 0, 1, 2, 3, 4])
    (sending 6 false).able [.x 1] [.x 3] ∧ ((sending 6 false).slot 0).task.pure = false ∧ DescriptorAt (sending 6 false) 0x00FFFF0000001000 64 w ∧
    (sending 6 false).part? 0 = some { part0 with newt := { newtOpen with gvt := 4 } } ∧ fld (w 1) 31 24 = 0 ∧ w 2 = 0 ∧ w 3 = 0 ∧
    fld (w 1) 23 0 < newtOpen.next ∧ w 0 ≠ BitVec.allOnes 64 ∧ (sending 6 false).openEvent 0 = none ∧ (4 : Word) ≤ w 0 ∧
    ((sending 6 false).nmsgs.filter fun m => m.2.stack = 0).length < 4096 ∧ (sending 6 true).openEvent 0 = some event0 ∧
    event0.msg.ts < w 0 ∧ (agentOpen.events.map fun e => e.log.length).sum + agentOpen.owed < 2 ^ agentOpen.olcap ∧
    agentOpen.nseq < 0xFFFFFFFF ∧ (sending 6 true).able [.x 1] [.x 3] ∧
    (wordsAt (memOf (lmAddr 0 0x1000) [3, 0x100000000, 0, 0, 1, 2, 3, 4]) 0 < (4 : Word)) := by
  refine ⟨⟨?_, ?_⟩, ?_, sending_at _ _, rfl, ?_, ?_, ?_, ?_, ?_, ?_, ?_, ?_, ?_, ?_, ?_, ?_, ⟨?_, ?_⟩, ?_⟩ <;> decide +kernel

theorem test_hyps_EventInstructions :
    let g := { agent0 with ccur := 8, ccom := 3 }
    let s := { handlingX 0 8 with parts := [(0, { part0 with newt := { newtOpen with agents := [(0, g)] } })], slots := (oneX 0).slots }
    ((one id).slot 0).task.evt = none ∧ ((handlingX 0 9).slot 0).task.evt ≠ none ∧
    ((handlingX 0 9).slot 0).cnt = { ld := 0, st := 0, cp := 0, tl := 0 } ∧ ((handlingX 0 9).slot 0).vbusy = 0 ∧
    ((handling fun sl => { sl with vbusy := 1 }).slot 0).vbusy ≠ 0 ∧
    (s.openEvent 0 = none ∧ (∀ e ∈ g.events, e.st = .anti) ∧ g.ccom ≤ 8 ∧ 8 ≤ g.ccur ∧ g.ccur + 8 ≤ g.ccap ∧ g.ccap < g.ccur + 9 ∧
      g.ccur < 9 ∧ 2 < g.ccom) ∧
    ((handlingX 0 9).openEvent 0 = some event0 ∧ ((handlingX 0 9).slot 0).task.agent = 0 ∧ agentOpen.ccur + 9 ≤ agentOpen.ccap) ∧
    (∃ r, get? ([(9, { en := true, home := 0, base := 0, rsz := 4, pidxa := 0, cidxa := 0, statwa := 0, p := 0, cidx := 0, nstall := 0
                       ndel := 0, stall := false, pollAt := 0, recs := [] })] : AMap Ring) 9 = some r ∧ r.en = true) ∧
    ((one id).slot 0).lv ≠ .u ∧ ((one id).slot 0).unstepped = true ∧ newt0.act = false := by
  refine ⟨?_, ?_, ?_, ?_, ?_, ⟨?_, ?_, ?_, ?_, ?_, ?_, ?_, ?_⟩, ⟨?_, ?_, ?_⟩, ⟨_, rfl, rfl⟩, ?_, ?_, ?_⟩ <;> decide +kernel

/-- x1 names 48 bytes, x2 is a ring. -/
theorem test_hyps_Irrev :
    let s := { given [1, 2, 3, 4, 5, 6] with
      slots := [(0, { setX [(1, 0x00FFFF0000001000), (2, 9)] slotS with task := { slotS.task with evt := some 0 } })]
      parts := [(0, { part0 with newt := newtOpen })] }
    s.able [.x 1, .x 2] [.x 3] ∧ DescriptorAt s 0x00FFFF0000001000 48 (wordsAt (memOf (lmAddr 0 0x1000) [1, 2, 3, 4, 5, 6])) ∧
    s.openEvent 0 = some event0 ∧ (s.rv (.x 2)).toNat ≤ 255 := by
  refine ⟨⟨?_, ?_⟩, described_at _ _ ?_ rfl rfl rfl rfl ?_, ?_, ?_⟩ <;> decide +kernel

/-- An event message for agent 0, whose events are `es` and whose state is `st`. -/
def arriving (m : NMsg) (es : List NEvent) (st : AgentSt) : State :=
  { one id with nmsgs := [(7, m)], parts := [(0, { part0 with newt := { newt0 with next := 1, agents := [(0, { agent0 with events := es, st := st, eqcap := 4 })] } })] }

def message (ts : Word) (snd : Nat) (sign held : Bool) : NMsg :=
  { part := 0, stack := 0, msg := { event0.msg with ts := ts, snd := snd, seq := 3, sign := sign }, held := held }

theorem test_hyps_MessagesArrive :
    let e := { event0 with st := .processed }
    let u := { event0 with st := .unprocessed }
    let n := { event0 with st := .anti }
    (get? (arriving (message 5 2 false false) [e] .idle).nmsgs 7 = some (message 5 2 false false) ∧
      ((arriving (message 5 2 false false) [e] .idle).part? 0).any (fun v => v.gang = .running && (get? v.newt.agents 0).isSome) = true ∧
      (∀ f ∈ [e], ¬ (f.msg.ts = 5 ∧ f.msg.snd = 2 ∧ f.msg.seq = 3)) ∧ e.msg.before (message 5 2 false false).msg ∧ [e].length < 2 ^ 4) ∧
    (n.st = .anti ∧ n.msg.ts = (message 5 1 false false).msg.ts ∧ n.msg.snd = (message 5 1 false false).msg.snd ∧
      n.msg.seq = (message 5 1 false false).msg.seq ∧ ([n].map (·.num)).Nodup ∧ (∀ f ∈ [n], f.st = .anti → f = n)) ∧
    ¬ (List.replicate 16 u).length < 2 ^ 4 ∧
    (u.st = .unprocessed ∧ (message 5 1 true false).msg.sign = true ∧ (message 5 1 true false).held = false) ∧
    ((message 5 2 false true).held = true ∧ ∀ f ∈ [u], ¬ (f.msg.ts = 5 ∧ f.msg.snd = 2 ∧ f.msg.seq = 3) ∧ f.st = .unprocessed) ∧
    ((message 4 2 false false).msg.before e.msg ∧ e.copies = [] ∧ e.log = [] ∧ 1 < 2 ^ 4) := by
  refine ⟨⟨rfl, ?_, ?_, .inr ⟨rfl, .inl ?_⟩, ?_⟩, ⟨rfl, rfl, rfl, rfl, ?_, ?_⟩, ?_, ⟨rfl, rfl, rfl⟩, ⟨rfl, ?_⟩, ⟨.inl ?_, rfl, rfl, ?_⟩⟩ <;> decide +kernel

def granule0 : Granule := { pa := devEnd - 4096, taken := true, bad := [], old := List.replicate 4096 1 }

theorem test_hyps_Rollback :
    let e := { event0 with st := .processed, copies := [granule0] }
    let r : Rollback := { ts := 5, snd := 1, seq := 3, remove := [], forced := false }
    let g := { agent0 with events := [e], rb := some r, st := .rollback }
    let s : State := { one id with parts := [(0, { part0 with newt := { newt0 with next := 1, agents := [(0, g)] } })] }
    s.part? 0 = some { part0 with newt := { newt0 with next := 1, agents := [(0, g)] } } ∧ g.rb = some r ∧ g.events = [e] ∧ e.st = .processed ∧
    e.copies = [granule0] ∧ e.log = [] ∧ r.remove = [] ∧ part0.gang = .running ∧ ¬ (e.msg.ts < r.ts ∨ e.msg.ts = r.ts ∧ (e.msg.snd < r.snd ∨ e.msg.snd = r.snd ∧ e.msg.seq < r.seq)) ∧
    granule0.old.length = 4096 ∧ granule0.pa % 4096 = 0 ∧ granule0.pa + 4096 ≤ devEnd ∧ s.sk.graphs = [] ∧ s.disp.launches = [] := by
  refine ⟨rfl, rfl, rfl, rfl, rfl, rfl, rfl, rfl, ?_, List.length_replicate, ?_, ?_, rfl, rfl⟩ <;> decide +kernel

/-- Slot 0 is a handler slot, with the auto code, that holds `intake`; agent 0 has one event; the handler table at 0x10000 has one entry. -/
def placing (est : EvSt) (intake : List Nat) (ast : AgentSt) : State :=
  { paged 0 [1, 0, 1, 65] with
    slots := [(0, { Slot.idle 2 with intake := intake })]
    cores := [(0, { CoreState.reset with ah := true, ahEff := true })]
    parts := [(0, { part0 with newt := { newt0 with
      next := 1, agents := [(0, { agent0 with st := ast, htab := 0x10000, events := [{ event0 with st := est }] })] } })] }

theorem test_hyps_EventPlace :
    ((placing .unprocessed [] .ready).part? 0).isSome = true ∧ event0.msg.ts.toNat ≤ min (newt0.gvt.toNat + newt0.w.toNat) (2 ^ 64 - 1) ∧
    8 * 0 + 0 ∈ (placing .unprocessed [] .ready).intakeSlots 0 0 ∧
    (∀ j ∈ (placing .unprocessed [] .ready).intakeSlots 0 0,
      ((placing .unprocessed [] .ready).slot 0).intake.length < ((placing .unprocessed [] .ready).slot j).intake.length ∨
      ((placing .unprocessed [] .ready).slot 0).intake.length = ((placing .unprocessed [] .ready).slot j).intake.length ∧ 0 ≤ j) := by
  refine ⟨rfl, ?_, ?_, ?_⟩ <;> decide +kernel

theorem test_hyps_EventOpen :
    let s := placing (.placed 0) [0] .ready
    (s.slot (8 * 0 + 0)).st = .idle ∧ (s.slot (8 * 0 + 0)).intake = event0.num :: [] ∧ (s.oct 0).part = some 0 ∧ event0.copies = [] ∧
    0 < newt0.pool ∧ (s.findHandler 0 agent0.tenant 0x10000 event0.msg.sel).1 = some 65 := by
  refine ⟨rfl, rfl, rfl, rfl, by decide, ?_⟩
  decide +kernel

/-- The Newt record of partition 0 is `n`, in core cycle 128. -/
def virtual (n : NewtPart) : State := { one id with dclk := 128, parts := [(0, { part0 with newt := n })] }

theorem test_hyps_Rounds :
    let t := { newt0 with period := 100, timerAt := 128 }
    let u : NewtPS := { NewtPS.zero with cut := true, cutAt := 64 }
    let n := { newt0 with act := true, ps := [(0, u)] }
    (t.period ≠ 0 ∧ t.timerAt ≤ (virtual t).dclk ∧ t.act = false ∧ { t with act := true }.pend = false) ∧ (virtual t).part? 0 = some { part0 with newt := t } ∧
    (n.act = true ∧ (look newt0.ps 0 NewtPS.zero).cut = false ∧ (look n.ps 0 NewtPS.zero).cut = true ∧
      (look n.ps 0 NewtPS.zero).report = none ∧ (look n.ps 0 NewtPS.zero).cutAt < (virtual n).dclk ∧ ((virtual n).dclk - 64) % 64 = 0) := by
  refine ⟨⟨?_, ?_, ?_, ?_⟩, rfl, ?_, ?_, ?_, ?_, ?_, ?_⟩ <;> decide +kernel

/-- Every stack of partition 0 has reported; stack 0 has sent `d` events more than it received. -/
def reported (d : Int) : NewtPart :=
  { newt0 with act := true, ps := (List.range 4).map fun j => (j, { NewtPS.zero with cut := true, report := some (if j = 0 then d else 0, 9) }) }

theorem test_hyps_GvtPass (d : Int) :
    ([0] : List Nat).Pairwise (· < ·) ∧ (virtual (reported d)).part? 0 = some { part0 with newt := reported d } ∧
    (∀ q, q ∈ ([0] : List Nat) ↔ RunsWith (virtual (reported d)) 0 { part0 with newt := reported d } q ∧
      ∃ w, (virtual (reported d)).part? q = some w ∧ w.newt.act = true) ∧
    (∀ q ∈ ([0] : List Nat), ∀ w, (virtual (reported d)).part? q = some w → w.gang = .running ∧
      ∀ j, j < 4 → (look w.newt.ps j NewtPS.zero).report ≠ none) ∧
    (∀ x ∈ (reported d).domain, x.1 = (virtual (reported d)).host.module.toNat) ∧
    (passReports (virtual (reported 0)) [0]).map (·.1) = [0, 0, 0, 0] ∧ (passReports (virtual (reported 1)) [0]).map (·.1) = [1, 0, 0, 0] ∧
    9 ∈ (passReports (virtual (reported 0)) [0]).map (·.2) ∧ (∀ r ∈ passReports (virtual (reported 0)) [0], 9 ≤ r.2) ∧
    LargestOf ([0].flatMap fun q => (((virtual (reported 0)).part? q).elim [] fun w => w.newt.agents).map fun a => a.2.lvt) 0 := by
  refine ⟨by decide, rfl, fun q => ⟨fun h => ?_, fun h => ?_⟩, fun q h w hw => ?_, fun x h => ?_, by decide +kernel, by decide +kernel,
    by decide +kernel, by decide +kernel, .inl rfl, fun x h => nomatch h⟩
  · obtain rfl := List.mem_singleton.1 h
    exact ⟨.inl rfl, _, rfl, rfl⟩
  · rcases h.1 with rfl | ⟨h1, -⟩
    · exact List.mem_singleton.2 rfl
    · exact List.mem_singleton.2 (Prod.mk.inj (List.mem_singleton.1 h1)).2
  · obtain rfl := List.mem_singleton.1 h
    obtain rfl := Option.some.inj hw
    refine ⟨rfl, fun j hj => ?_⟩
    have : j = 0 ∨ j = 1 ∨ j = 2 ∨ j = 3 := by omega
    obtain rfl | rfl | rfl | rfl := this <;> exact fun e => nomatch e
  · obtain rfl := List.mem_singleton.1 h
    rfl

def ring0 (p : BitVec 32) (stall : Bool) : Ring :=
  { en := true, home := 0, base := 0x1000, rsz := 4, pidxa := 0x2000, cidxa := 0x3000, statwa := 0x4000, p := p, cidx := 0, nstall := 0
    ndel := 0, stall := stall, pollAt := 128, recs := [((5, 1, 3), .irrev 5 0 0 0 0 (List.replicate 48 0))] }

/-- The consumer index of a ring is 4; it stands at 0x10000, in the page that the tables map. -/
def ringWord : State := { paged 0 [4] with slots := [] }

theorem test_hyps_Commit :
    let g := { agent0 with events := [{ event0 with st := .processed }] }
    let c := { newt0 with commitM := [(0, [0])], agents := [(0, g)] }
    let n := { newt0 with rings := [(1, ring0 15 false), (2, ring0 16 false), (3, ring0 16 true)] }
    let full (g : Machine.Ring) : Bool := (g.p - g.cidx).toNat = 2 ^ g.rsz
    (get? c.commitM 0 = some [0] ∧ c.agents = [(0, g)] ∧ (c.agents.map (·.1)).Nodup ∧ (g.events.map (·.num)).Nodup) ∧
    (get? n.rings 1 = some (ring0 15 false) ∧ (ring0 15 false).recs = ((5, 1, 3), .irrev 5 0 0 0 0 (List.replicate 48 0)) :: [] ∧
      n.commitM = [] ∧ (virtual n).mm.feq = [] ∧ full (ring0 15 false) = false) ∧
    (full (ring0 16 false) = true ∧ full ((virtual n).readCidx 0 (ring0 16 false)).1 = true) ∧
    full (ringWord.readCidx 0 { ring0 16 false with cidxa := 0x10000 }).1 = false ∧
    ((ring0 16 true).stall = true ∧ (ring0 16 true).pollAt ≤ (virtual n).dclk) := by
  refine ⟨⟨rfl, rfl, ?_, ?_⟩, ⟨rfl, rfl, rfl, rfl, ?_⟩, ⟨?_, ?_⟩, ?_, rfl, ?_⟩ <;> decide +kernel

/-! Links, streams and collectives. -/

/-- A stream of one set with port 1 of core 0. -/
def streamWords : List Word := [3, 0, 0x80202000]

theorem stream_good : StreamGood (wordsAt (memOf (lmAddr 0 0x1000) streamWords)) := by
  have hw : ∀ j, j < 16 → wordsAt (memOf (lmAddr 0 0x1000) streamWords) j = if j = 0 then 3 else if j = 2 then 0x80202000 else 0 := by
    decide +kernel
  have hz : ∀ j, 10 ≤ j → j < 16 → wordsAt (memOf (lmAddr 0 0x1000) streamWords) j = 0 := fun j h1 h2 => by
    rw [hw j h2, if_neg (by omega), if_neg (by omega)]
  have h0 : fld (wordsAt (memOf (lmAddr 0 0x1000) streamWords) 0) 13 12 = 0 := by decide +kernel
  have hs : streamSets (wordsAt (memOf (lmAddr 0 0x1000) streamWords)) = [[{ loc := true, mod := 0, port := 1, core := 0 }]] := by
    decide +kernel
  have hu : ∀ i, i < 4 → endpointWord (wordsAt (memOf (lmAddr 0 0x1000) streamWords)) 0 i / 2 ^ 22 % 512 = 0 ∧
      ((endpointWord (wordsAt (memOf (lmAddr 0 0x1000) streamWords)) 0 i).testBit 31 = true →
        (endpointIn (endpointWord (wordsAt (memOf (lmAddr 0 0x1000) streamWords)) 0 i)).port ≠ 3 ∧
        ((endpointIn (endpointWord (wordsAt (memOf (lmAddr 0 0x1000) streamWords)) 0 i)).loc = true →
          (endpointIn (endpointWord (wordsAt (memOf (lmAddr 0 0x1000) streamWords)) 0 i)).mod = 0)) := by
    decide +kernel
  have hn : ∀ j, j < 4 → 0 < j → ∀ i, i < 4 → endpointWord (wordsAt (memOf (lmAddr 0 0x1000) streamWords)) j i = 0 := by decide +kernel
  refine ⟨⟨by decide +kernel, by decide +kernel, hz⟩, fun j i hj hi => ?_, fun j i h1 h2 h3 => hn j h2 (by omega) i h3, fun l hl => ?_⟩
  · have : j = 0 := by omega
    subst this
    exact hu i hi
  · rw [hs] at hl
    simp only [List.mem_singleton] at hl
    subst hl
    exact ⟨by decide, fun _ => rfl⟩

/-- x1 names the descriptor; `bound` are core 0's bound ports and `l` the stack's streams. -/
def streaming (bound : AMap Nat) (l : AMap StreamEntry) : State :=
  { given streamWords with
    cores := [(0, { CoreState.reset with net := { NetCore.empty with bound := bound } })]
    dies := [(0, { Stack.reset with net := { streams := l } })] }

theorem streaming_at (bound : AMap Nat) (l : AMap StreamEntry) :
    DescriptorAt (streaming bound l) 0x00FFFF0000001000 128 (wordsAt (memOf (lmAddr 0 0x1000) streamWords)) := by
  refine described_at _ _ (by decide) rfl ?_ ?_ (by simp only [streaming, given, described]) ?_
  · rfl
  · simp [State.role, streaming, State.core, look, CoreState.reset, fld]
  · simp [State.poisoned, streaming, given, described, one, State.reset]

def stream0 (core : Nat) (coll : Bool) : StreamEntry :=
  { part := 0, core := core, port := some 0, sets := [[{ loc := true, mod := 0, port := 1, core := 0 }]], j := 0, coll := coll, disc := 0
    words := 0 }

theorem test_hyps_Streamset :
    ((streaming [] []).slot 0).task.pure = false ∧ ((streaming [] []).slot 0).portRights 0 = true ∧
    (streaming [] []).able [.x 1] [.x 3] ∧ (streaming [] []).rv (.x 1) = 0x00FFFF0000001000 ∧ Reg.x 1 ≠ .x 0 ∧
    (∀ l ∈ streamSets (wordsAt (memOf (lmAddr 0 0x1000) streamWords)), ∀ e ∈ l, (streaming [] []).isOwnEp e = true →
      ((streaming [] []).oct (e.core / 8)).part = some 0) ∧ (streaming [] []).outletOf 0 0 = [] ∧
    get? ((streaming [] []).die 0).net.streams 3 = none ∧ get? ((streaming [] []).core 0).net.bound 0 = none ∧
    (get? ((streaming [] [(3, stream0 1 false)]).die 0).net.streams 3 = some (stream0 1 false) ∧ (stream0 1 false).core ≠ 0) ∧
    get? ((streaming [(0, 3)] []).core 0).net.bound 0 = some 3 ∧
    (atU.slot 0).portRights 0 = false ∧ atU.portCheck 0 [.x 1] [.x 3] = .ok := by
  refine ⟨rfl, ?_, ⟨?_, ?_⟩, rfl, ?_, ?_, rfl, rfl, rfl, ⟨rfl, ?_⟩, rfl, ?_, ?_⟩ <;> decide +kernel

theorem test_hyps_BadStream : ¬ StreamGood (wordsAt (memOf (lmAddr 0 0x1000) [3, 0])) := fun h => by
  have hs : streamSets (wordsAt (memOf (lmAddr 0 0x1000) [3, 0])) = [[]] := by decide +kernel
  exact (h.sets [] (by rw [hs]; simp)).1 rfl

theorem test_hyps_StreamsetAtTheRing :
    ((streaming [] []).slot 0).portRights 0 = true ∧
    ¬ (∀ l ∈ streamSets (wordsAt (memOf (lmAddr 0 0x1000) streamWords)), l.length = 1 ∧ ∀ e ∈ l, e.port = 2) ∧
    (∀ q, (some (stream0 0 false)).bind (·.port) = some q → q < 3 ∧ (streaming [(0, 3)] [(3, stream0 0 false)]).outletOf 0 q = []) ∧
    (¬ (0 : Nat) ≠ 0 ∧ (stream0 0 false).coll = false ∧ get? ((streaming [(0, 3)] []).core 0).net.bound 0 = some 3) := by
  refine ⟨?_, ?_, fun q h => ?_, ?_⟩
  · decide +kernel
  · decide +kernel
  · obtain rfl := Option.some.inj h
    exact ⟨by decide, rfl⟩
  · decide +kernel

theorem test_hyps_MarkAndNstat :
    let s := { streaming [(0, 3)] [(0, stream0 1 false), (0xFFF, stream0 1 true)] with slots := (oneX 0xFFF).slots }
    s.able [] [.x 3] ∧ (0 : BitVec 2).toNat < 3 ∧ get? (s.core 0).net.bound 0 ≠ none ∧ (s.outletOf 0 0).length < 8 ∧ s.able [.x 1] [.x 3] ∧
    (s.rv (.x 1)).toNat < 0x1000 ∧ get? (s.die 0).net.streams 0xFFF = some (stream0 1 true) ∧ (stream0 1 true).coll = true ∧
    ((oneX 0x100F).rv (.x 1)).toNat < 0x1010 ∧ ((oneX 0x2000).rv (.x 1)).toNat = 0x2000 ∧ (oneX 0x2000).cores = [] ∧
    (0x1010 ≤ ((oneX 0x1010).rv (.x 1)).toNat ∧ ((oneX 0x1010).rv (.x 1)).toNat ≠ 0x2000) := by
  refine ⟨⟨?_, ?_⟩, ?_, ?_, ?_, ⟨?_, ?_⟩, ?_, rfl, rfl, ?_, ?_, rfl, ?_⟩ <;> decide

def collWords : List Word := [0x500010000, 1, 0x00FFFF0000004000, 0x00FFFF0000005000]

/-- x1 of core 0's communication slot names the descriptor. -/
def colling (n : Nat) : State :=
  { given collWords with
    cur := 7, slots := [(7, setX [(1, 0x00FFFF0000001000)] { slotS with task := { slotS.task with grp := 0x100000005 } })]
    cores := [(0, { CoreState.reset with net := { NetCore.empty with coll := (List.range n).map fun j =>
      { slot := 7, desc := collWords, ti := slotS.task, lv := .u, pc := 0, launch := none, seq := j, issued := 0, dead := false } } })] }

theorem colling_at (n : Nat) : DescriptorAt (colling n) 0x00FFFF0000001000 64 (wordsAt (memOf (lmAddr 0 0x1000) collWords)) where
  core := (by decide : 7 < 65536)
  idle := rfl
  place := by
    have hc : (colling n).cur / 8 = 0 := by rw [show (colling n).cur = 7 by simp only [colling]]
    have hb : (colling n).mm.bytes = memOf (lmAddr 0 0x1000) collWords := by simp only [colling, given, described]
    rw [hc, hb]
    refine ⟨0x1000, by decide, by decide, .inl (by decide), fun b h6 h7 => .inl ?_, ?_, fun x _ => not_busy rfl, fun j x hj hx => ?_⟩
    · have : b = 1 := by omega
      subst this
      simp [State.role, colling, State.core, look, CoreState.reset, fld]
    · simp [State.poisoned, colling, given, described, one, State.reset]
    · exact rdWord_byte (described 0 (memOf (lmAddr 0 0x1000) collWords)) (lmAddr 0 0x1000 + 8 * j) x hx

/-- `colling`, where core 1 has a member of the group too. -/
def collingMore : State :=
  { colling 0 with
    slots := (colling 0).slots ++ [(15, { slotS with task := { slotS.task with grp := 0x100000005 } })]
    parts := [(0, { part0 with groups := [(5, { m := 2, a := 0, launch := none })] })] }

theorem test_hyps_Coll :
    (colling 0).able [.x 1] [.x 3] ∧ (colling 0).cur % 8 = 7 ∧ ((colling 0).slot 7).task.pure = false ∧
    (colling 0).rv (.x 1) = 0x00FFFF0000001000 ∧ ((colling 3).core 0).net.coll.length < 4 ∧ 4 ≤ ((colling 4).core 0).net.coll.length ∧
    ¬ (15 ≤ ((colling 0).slot 7).cnt.cp ∨ 16 ≤ ((colling 0).slot 7).mbox.length + ((colling 0).slot 7).mboxRsv) ∧
    fld (wordsAt (memOf (lmAddr 0 0x1000) collWords) 1) 31 0 ≠ 0 ∧ (one id).cur % 8 ≠ 7 ∧
    (colling 0).groupLaunch 0 5 = none ∧ (collingMore.groupLaunch 0 5 = some none ∧ collingMore.memberCores (collingMore.roundParts 0) 5 ≠ [0]) := by
  refine ⟨⟨?_, ?_⟩, ?_, rfl, rfl, ?_, ?_, ?_, ?_, ?_, ?_, ?_, ?_⟩ <;> decide +kernel

/-- Port 0 of core 0 is bound to stream 3, and its outlet holds a marker and three words. -/
def outgoing : State :=
  { one id with
    cores := [(0, { CoreState.reset with net := { NetCore.empty with
      bound := [(0, 3)], outlet := #v[[.marker, .word 7, .word 8, .word 9], [], []] } })]
    dies := [(0, { Stack.reset with net := { streams := [(3, stream0 0 false)] } })]
    net := { State.reset.net with flits := [(4, { part := 0, core := 0, stack := 0, stream := 3, heads := [0x120000030], far := [], words := [5], due := 0
                                                  ejected := false })] } }

/-- Stream 3's flit 4 goes to module 9, by port 2. -/
def outFar : State :=
  { outgoing with
    host := { State.reset.host with routes := [(9, [2])] }
    net := { State.reset.net with flits := [(4, { part := 0, core := 0, stack := 0, stream := 3, heads := [], far := [9], words := [5], due := 0
                                                  ejected := false })] } }

theorem test_hyps_StreamFlits :
    (get? (outgoing.core 0).net.bound 0 = some 3 ∧ get? (outgoing.die 0).net.streams 3 = some (stream0 0 false) ∧
      outgoing.part? 0 = some part0 ∧ part0.gang = .running ∧
      outgoing.outletOf 0 0 = List.replicate 1 .marker ++ [7, 8, 9].map .word ++ [] ∧
      ([7, 8, 9] : List Word).length = 3 ∧ outgoing.endpointsTake 0 3 3 ((stream0 0 false).sets.getD ((0 + 1) % max 1 1) []) = true) ∧
    (([.marker, .word 7] : List OutItem) = List.replicate 1 .marker ++ [7].map .word ++ [] ∧
      (outgoing.core 0).net.outAt.getD 0 0 + 1 > outgoing.dclk) ∧
    (∃ f, get? outgoing.net.flits 4 = some f ∧ f.heads = [0x120000030] ∧ f.far = [] ∧ f.ejected = false ∧ f.due ≤ outgoing.dclk ∧
      fld (0x120000030 : Word) 30 29 = 1 ∧ fld (0x120000030 : Word) 28 16 = 0 ∧ (∀ g ∈ outgoing.net.flits, 4 ≤ g.1)) ∧
    (outgoing.oct 0).part = some 0 ∧
    (∃ f, get? outFar.net.flits 4 = some f ∧ f.heads = [] ∧ f.far = [9] ∧ outFar.routePort 9 f.stream = some 2) := by
  refine ⟨⟨rfl, rfl, rfl, rfl, rfl, rfl, ?_⟩, ⟨rfl, ?_⟩, ⟨_, rfl, rfl, rfl, rfl, ?_, ?_, ?_, ?_⟩, rfl, ⟨_, rfl, rfl, rfl, ?_⟩⟩ <;> decide

/-- Port 15 has failed to replay `n` times, at `l` lanes. -/
def failing (n l : Nat) : State :=
  { one id with net := { State.reset.net with ports := [(15, { FPort.fresh with fails := n, lanes := l })] } }

theorem test_hyps_Links :
    15 < 16 ∧ (look (failing 8 1).net.ports 15 FPort.fresh).up = true ∧ (look (failing 8 1).net.ports 15 FPort.fresh).lanes = 1 ∧
    8 ≤ (look (failing 8 1).net.ports 15 FPort.fresh).fails ∧ (look (failing 7 8).net.ports 15 FPort.fresh).fails < 8 ∧
    (look (failing 8 8).net.ports 15 FPort.fresh).lanes ≠ 1 ∧
    fld ((0 : BitVec 1024).extractLsb' (64 * 0) 64 : Word) 47 32 = (look (failing 0 8).net.ports 15 FPort.fresh).rxSeq.toNat ∧
    fld ((0x100000000 : BitVec 1024).extractLsb' (64 * 0) 64 : Word) 47 32 ≠ (look (failing 0 8).net.ports 15 FPort.fresh).rxSeq.toNat ∧
    fld ((0 : BitVec 1024).extractLsb' (64 * 0) 64 : Word) 21 16 = (failing 0 8).host.module.toNat ∧
    fld ((0 : BitVec 1024).extractLsb' (64 * 0) 64 : Word) 3 0 ≠ 2 ∧ (look (failing 0 8).net.ports 15 FPort.fresh).asked = false ∧
    { FPort.fresh with asked := true }.up = true := by
  refine ⟨?_, ?_, ?_, ?_, ?_, ?_, ?_, ?_, ?_, ?_, ?_, ?_⟩ <;> decide +kernel

theorem crc64_zero (n : Nat) : (List.replicate n (0 : Byte)).foldl crc64Byte 0 = 0 := by
  induction n with
  | zero => rfl
  | succ n ih => rw [List.replicate_succ, List.foldl_cons, show crc64Byte 0 0 = 0 by decide]; exact ih

/-- The all-zero flit's CRC is right. -/
theorem test_hyps_LinkCrc : ((0 : BitVec 1024).extractLsb' (64 * 15) 64 : Word) =
    crc64 ((List.range 120).map fun j => ((0 : BitVec 1024).extractLsb' (8 * j) 8 : Byte)) := by
  rw [show (List.range 120).map (fun j => ((0 : BitVec 1024).extractLsb' (8 * j) 8 : Byte)) = List.replicate 120 0 by simp]
  rw [crc64, crc64_zero]
  simp

def post0 (slot : Nat) : CollPost :=
  { slot := slot, desc := collWords, ti := { slotS.task with grp := 0x100000005 }, lv := .u, pc := 65, launch := some none, seq := 0, issued := 0, dead := false }

/-- The communication slots of cores 0 and 1 are the members of group 5, and both have posted. -/
def gathered (streams : AMap StreamEntry) : State :=
  let c (k : Nat) : CoreState := { CoreState.reset with net := { NetCore.empty with coll := [post0 (8 * k + 7)], collSeq := [(5, none, 1)] } }
  let sl : Slot := { slotS with lv := .u, task := { slotS.task with grp := 0x100000005 } }
  { one id with
    slots := [(7, sl), (15, sl)], cores := [(0, c 0), (1, c 1)]
    parts := [(0, { part0 with groups := [(5, { m := 2, a := 0, launch := none })] })]
    dies := [(0, { Stack.reset with net := { streams := streams } })] }

theorem test_hyps_CollStart :
    (gathered []).collReady 0 5 = some (true, [post0 7, post0 15], false) ∧ [post0 7, post0 15].head? = some (post0 7) ∧
    (∀ c ∈ [post0 7, post0 15], c.group = 5) ∧ (∀ q ∈ [post0 7, post0 15], q.bad 2 = false ∧ q.agrees (post0 7) = true) ∧
    (post0 7).count ≠ 0 ∧ get? ((gathered [(1, stream0 9 false)]).die 0).net.streams ((post0 7).stream + 1) ≠ none ∧
    (∀ q ∈ [post0 7, post0 15], get? ((gathered []).die (stackOf (q.slot / 8))).net.streams (post0 7).stream = none ∧
      get? ((gathered []).die (stackOf (q.slot / 8))).net.streams ((post0 7).stream + 1) = none) ∧
    ((gathered []).part? 0).any (fun v => v.gang = .running) = true ∧ (gathered []).farMembers 0 = false ∧
    1 < [post0 7, post0 15].length := by
  decide +kernel

def member0 (slot : Nat) : CollMember := { mod := 0, post := some (post0 slot), status := 0, wrote := 0, done := false }

def coll0 : Coll := { part := 0, group := 5, held := none, stream := 0, det := true, members := [member0 7, member0 15] }

/-- A collective runs; a chunk of one word is on its way to rank 0. -/
def collRuns (ch : AMap Chunk) : State := { gathered [] with net := { State.reset.net with colls := [(2, coll0)], chunks := ch } }

def chunk0 : Chunk :=
  { coll := 2, dst := 0, va := 0x00FFFF0000005000, parts := [List.replicate 8 (1, false)], plan := [0], piece := 0, srcs := [1], back := false }

theorem test_hyps_CollChunk :
    get? (collRuns [(6, chunk0)]).net.chunks 6 = some chunk0 ∧ get? (collRuns [(6, chunk0)]).net.colls 2 = some coll0 ∧ coll0.part = 0 ∧
    coll0.members[0]? = some (member0 7) ∧ OwnWord (collRuns [(6, chunk0)]) 0 chunk0.va (lmAddr 0 0x5000) ∧
    chunk0.parts = [List.replicate 8 (1, false)] ∧ (∀ b ∈ List.replicate 8 ((1 : Byte), false), b.2 = false) ∧
    (collRuns [(6, chunk0)]).mm.feq = [] ∧ (collRuns [(6, chunk0)]).pageBusy (lmAddr 0 0x5000) = false := by
  refine ⟨rfl, rfl, rfl, rfl, ⟨?_, 0x5000, rfl, ?_, ?_, .inl ?_, .inl ?_⟩, rfl, ?_, rfl, rfl⟩ <;> decide +kernel

theorem test_hyps_CollComplete :
    get? (collRuns []).net.colls 2 = some coll0 ∧ coll0.members[1]? = some (member0 15) ∧ (member0 15).done = false ∧
    (∀ x ∈ (collRuns []).net.chunks, x.2.coll = 2 → x.2.dst ≠ 1 ∧ 1 ∉ x.2.srcs) ∧ (member0 15).post = some (post0 15) ∧
    ((post0 15).w 0).getLsbD 13 = false ∧ (post0 15).w 5 = 0 ∧ (post0 15).dead = false ∧ ((collRuns []).slot 15).st = .ready ∧ ((collRuns []).slot 15).park = .none := by
  refine ⟨rfl, rfl, rfl, ?_, rfl, ?_, ?_, rfl, rfl, rfl⟩ <;> decide

/-! Gang switches, deadlocks, replay and the trap record. -/

/-- x1 and x2 hold `a` and `b`; the partition is `v`. -/
def switching (a b : Word) (v : Machine.Part) : State := { one (setX [(1, a), (2, b)]) with parts := [(0, v)] }

theorem test_hyps_GangSwitch :
    (switching 0 0 part0).able [.x 1, .x 2] [.x 3] ∧ ((switching 0 0 part0).slot 0).task.pure = false ∧ ((switching 0 0 part0).slot 0).lv ≠ .u ∧
    (switching 0 0 part0).part? 0 = some part0 ∧ (switching 0 0 part0).rv (.x 1) = 0 ∧ part0.armed = none ∧
    ({ part0 with armed := some (5, 9) }).armed = some (5, 9) ∧ (switching 5 5 part0).rv (.x 1) ≠ 0 ∧
    ({ part0 with armed := some (5, 9) }).armed ≠ none ∧ part0.gang = .running ∧ (switching 5 5 part0).rv (.x 2) ≠ 0 ∧
    ((switching 5 5 part0).rv (.x 2)).toNat ≤ ((switching 5 5 part0).rv (.x 1)).toNat ∧
    ((switching 5 6 part0).rv (.x 1)).toNat < ((switching 5 6 part0).rv (.x 2)).toNat := by
  refine ⟨⟨?_, ?_⟩, ?_⟩ <;> decide

theorem test_hyps_GangStop :
    let v := { part0 with armed := some (8, 20) }
    let w := { part0 with gang := .stopping 20 }
    let s := { switching 0 0 v with dclk := 8 }
    (w.gang ≠ .running ∧ ((switching 0 0 w).oct (0 / 64)).part = some 0 ∧ (switching 0 0 w).part? 0 = some w ∧
      ((switching 0 0 w).slot 0).look = none) ∧
    (s.part? 0 = some v ∧ v.gang = .running ∧ v.armed = some (8, 20) ∧ s.dclk % 8 = 0 ∧ (8 : Word).toNat ≤ s.dclk ∧ s.sched.begun = false) ∧
    (∀ o ∈ w.octets, (switching 0 0 w).octQuiet o = true) ∧ 0 / 64 ∈ w.octets ∧ (get? (switching 0 0 w).slots 0).isSome ∧
    (∀ l, (switching 0 0 w).stashHolders l = []) ∧ ∀ o ∈ w.octets, o < 1024 := by
  refine ⟨⟨?_, ?_, rfl, rfl⟩, ⟨rfl, ?_, ?_, ?_, ?_, ?_⟩, ?_, ?_, ?_, fun _ => rfl, ?_⟩ <;> decide

/-- A stopped partition, with the image of each of its cores and of its octet. -/
def stopped0 (r : Word) (given : Bool) : Machine.Part :=
  { part0 with
    gang := .stopped r, given := given, octs := [(0, { Octet.reset with part := some 0 })]
    images := (List.range 8).map fun k => (k, { core := k, c := CoreState.reset, slots := [(0, slotS.stop)], mem := [(8, 3)], full := []
                                                poison := [], wins := [], resume := 0 }) }

theorem test_hyps_GangResume :
    let v := stopped0 0 true
    let s := { switching 0 0 v with octets := [], slots := [], dclk := 16 }
    s.part? 0 = some v ∧ v.gang = .stopped 0 ∧ v.octets.Nodup ∧ (0 = (0 : Word) ∧ v.given = true) ∧ ((16 : Word) ≠ 0 ∧ (16 : Word).toNat ≤ s.dclk) ∧
    (stopped0 16 false).gang = .stopped 16 ∧ s.dclk % 8 = 0 ∧ s.sched.begun = false ∧ s.host.standby = false ∧ s.host.clocksStopped = false ∧
    s.host.trip = false ∧ (∀ o ∈ v.octets, (s.oct o).part = none ∧ (s.die (o / 256)).on = true) ∧ AMap.wf v.images = true ∧
    (∀ x ∈ v.images, x.1 < 8192 ∧ x.2.c.rp.mode = .off ∧ x.2.c.wakeQ = [] ∧ AMap.wf x.2.slots = true ∧
      (∀ y ∈ x.2.slots, y.1 < 8) ∧ x.2.mem.wf = true ∧ (∀ c ∈ x.2.mem, c.1 < 0x20000)) ∧
    (∀ o ∈ v.octets, ∀ j, j < 8 → get? v.images (8 * o + j) ≠ none) ∧ v.octs = [(0, { Octet.reset with part := some 0 })] ∧
    ∀ l ∈ s.disp.launches, l.2.cancelled = false := by
  refine ⟨rfl, rfl, ?_, ⟨rfl, rfl⟩, ⟨?_, ?_⟩, rfl, rfl, rfl, rfl, rfl, rfl, ?_, ?_, ?_, ?_, rfl, ?_⟩ <;> decide +kernel

/-- Slot 0 alone is in group 5 and waits at its barrier, and slot 3 waits for a deadlock check that began in core cycle 0. -/
def locked : State :=
  let t : TaskInfo := { slotS.task with grp := 0x100000005 }
  { one id with
    dclk := 256
    slots := [(0, { slotS with st := .parked, park := .bar 0 5 (.x 3), task := t }), (3, { slotS with st := .stall, hold := .scan })]
    parts := [(0, { part0 with groups := [(5, { m := 2, a := 1, launch := none })], scan := some { at_ := 0, joined := [3] } })] }

theorem test_hyps_DeadlockChecks :
    (((one id).slot 0).task.pure = false ∧ ((one id).slot 0).task.part = 0 ∧ (one id).part? 0 = some part0 ∧ part0.scan = none) ∧
    ((locked.part? 0).any (fun v => v.scan = some { at_ := 0, joined := [3] } && v.gang = .running) = true ∧ 0 + 256 ≤ locked.dclk ∧
      locked.slotNums.Nodup ∧ locked.deadlocked 0 0 = [0] ∧
      (∀ i ∈ [0], (locked.slot i).exit ≠ .cancelled ∧ (locked.slot i).hold ≠ .scan) ∧
      (∀ i ∈ [3], (locked.slot i).unstepped = true ∧ (locked.slot i).hold = .scan)) ∧
    (0 ∈ locked.slotNums ∧ (locked.slot 0).parkedAt ≤ 0 ∧ locked.releasers 0 0 = some []) := by
  refine ⟨⟨?_, ?_, rfl, rfl⟩, ⟨?_, ?_, ?_, ?_, ?_, ?_⟩, ?_, ?_, ?_⟩ <;> decide +kernel

theorem test_hyps_Faultget : (oneX 7).able [.x 1] [.x 3] ∧ 7 < 8 ∧ (oneX 7).rv (.x 1) = BitVec.ofNat 64 7 ∧ 8 ≤ ((oneX 8).rv (.x 1)).toNat := by
  refine ⟨⟨?_, ?_⟩, ?_⟩ <;> decide

/-- A log descriptor: mode and core, then the log's base, its bytes, the checkpoint's address and that of STATUS. -/
def logWords (w : Word) : List Word := [w, 0x00FFFF0000002000, 64, 0x30000, 0x00FFFF0000003000]

/-- An image of core 1, made at its core cycle 64. -/
def image1 : CoreImage :=
  { core := 1, c := CoreState.reset, slots := [(2, slotS.stop)], mem := [], full := [], poison := [], wins := [], resume := 64 }

/-- `given`, where partition 0 has made a checkpoint image of id 7. -/
def logging (w : Word) : State :=
  { given (logWords w) with parts := [(0, { part0 with ckpts := [(7, image1)] })] }

theorem logging_at (w : Word) : DescriptorAt (logging w) 0x00FFFF0000001000 64 (wordsAt (memOf (lmAddr 0 0x1000) (logWords w))) := by
  refine described_at _ _ (by decide) rfl rfl ?_ (by simp only [logging, given, described]) ?_
  · simp [State.role, logging, given, described, State.core, look, one, State.reset, CoreState.reset, fld]
  · simp [State.poisoned, logging, given, described, one, State.reset]

/-- The words that a log descriptor keeps free are zero, and the octet of its core is the partition's. -/
def LogGood (s : State) (w : Nat → Word) : Prop :=
  fld (w 0) 63 29 = 0 ∧ fld (w 0) 15 2 = 0 ∧ w 5 = 0 ∧ w 6 = 0 ∧ w 7 = 0 ∧ (s.oct (fld (w 0) 28 16 / 8)).part = some 0 ∧ fld (w 0) 1 0 ≠ 3

theorem test_hyps_Rplog :
    let w (x : Word) := wordsAt (memOf (lmAddr 0 0x1000) (logWords x))
    ((logging 3).able [.x 1] [.x 3] ∧ ((logging 3).slot 0).task.pure = false ∧ ((logging 3).slot 0).lv ≠ .u ∧ ((logging 3).slot 0).st = .ready ∧
      (logging 3).rv (.x 1) = 0x00FFFF0000001000 ∧ (0x00FFFF0000001000 : Word).toNat % 64 = 0 ∧ (logging 3).mm.feq = []) ∧
    fld (w 3 0) 1 0 = 3 ∧
    (LogGood (logging 2) (w 2) ∧ fld (w 2 0) 1 0 = 2 ∧ ((logging 2).slot (8 * 0 + 0)).st ≠ .idle ∧ fld (w 2 0) 28 16 = 0) ∧
    (LogGood (logging 0x10000) (w 0x10000) ∧ fld (w 0x10000 0) 1 0 = 0) ∧
    (LogGood (logging 0x10001) (w 0x10001) ∧ fld (w 0x10001 0) 1 0 = 1 ∧ ((logging 1).core 1).rp.mode = .off) ∧
    (LogGood (logging 0x10002) (w 0x10002) ∧ fld (w 0x10002 0) 1 0 = 2 ∧ fld (w 0x10002 0) 28 16 = 1 ∧
      (∀ j, j < 8 → ((logging 0x10002).slot (8 * 1 + j)).st = .idle)) := by
  refine ⟨⟨⟨?_, ?_⟩, ?_, ?_, ?_, ?_, ?_, ?_⟩, ?_, ⟨⟨?_, ?_, ?_, ?_, ?_, ?_, ?_⟩, ?_, ?_, ?_⟩, ⟨⟨?_, ?_, ?_, ?_, ?_, ?_, ?_⟩, ?_⟩,
    ⟨⟨?_, ?_, ?_, ?_, ?_, ?_, ?_⟩, ?_, ?_⟩, ⟨?_, ?_, ?_, ?_, ?_, ?_, ?_⟩, ?_, ?_, ?_⟩ <;> decide +kernel

/-! A replay that finds its image (R378). -/

/-- The leaf that maps the lowest GiB of device memory at its own addresses. -/
def wide : Tlb := { leaf1 with vbase := 0, size := 2 ^ 30, leaf := { leaf1.leaf with pbase := 0, level := 2 } }

/-- The octet whose TLB holds `wide` alone. -/
def wideOct : AMap Octet := [(0, { Octet.reset with part := some 0, tlb := [wide] })]

/-- What the reading of an image keeps: the bytes, that none is poisoned, the TLB, and the partition of core 1's log. -/
structure Reads (m : Memory) (s : State) : Prop where
  bytes : s.mm.bytes = m
  clean : s.mm.poison = []
  octets : s.octets = wideOct
  part : (s.core 1).rp.part = 0

theorem reads_flip {m : Memory} {s : State} (h : Reads m s) (b : Bool) : Reads m (s.meetFlip b) := by
  cases b
  · exact h
  · exact ⟨h.1, h.2, h.3, h.4⟩

theorem reads_llc {m : Memory} {s : State} (h : Reads m s) (a : Nat) (x : Hint) (t : BitVec 16) (w : Bool) : Reads m (s.llcAccess a x t w) := by
  rw [llcAccess_only]
  exact ⟨h.1, h.2, h.3, h.4⟩

theorem reads_clean {m : Memory} {s : State} (h : Reads m s) (a : Nat) : Reads m (s.cleanCopies a none) := by
  have h1 : Reads m (s.writeHome a none) := by
    unfold State.writeHome
    split
    · exact reads_llc h ..
    · exact h
  unfold State.cleanCopies
  dsimp only
  rw [settleHome_only]
  refine ⟨h1.1, h1.2, h1.3, ?_⟩
  unfold State.core
  dsimp only
  have hp : (look (s.writeHome a none).cores 1 CoreState.reset).rp.part = 0 := h1.4
  rw [look_mapVals]
  rw [look_eq_get?] at hp
  cases hc : get? (s.writeHome a none).cores 1 with
  | none => rfl
  | some c =>
    rw [hc] at hp
    exact hp

theorem reads_lines {m : Memory} {s : State} (h : Reads m s) (l : List Nat) :
    Reads m (l.foldl (fun s a => ((s.meetFlip (s.pageBusy a)).cleanCopies a none).llcAccess a .none 0 false) s) :=
  foldl_keeps (Reads m) _ (fun _ a h => reads_llc (reads_clean (reads_flip h _) a) ..) l s h

/-- The address of a part of the image at 0x30000 leads to the same place of device memory. -/
theorem reads_xlate {m : Memory} {s : State} (h : Reads m s) (va : Word) (h1 : va.toNat < 2 ^ 30) :
    ∃ t l, s.engXlate (s.logEng 1) .r va = (.ok (va.toNat, some l), t) ∧ l.tgt = 0 ∧ Reads m t := by
  have e0 : fld va 63 56 = 0 := by
    unfold fld
    omega
  have e1 : inWindows va = false := by
    unfold inWindows fld
    simp only [decide_eq_false_iff_not]
    omega
  have ef : tlbFind (s.oct (octetOf 1)).tlb 0 va = some wide := by
    unfold State.oct
    rw [h.octets]
    show List.find? _ [wide] = _
    rw [List.find?_cons_of_pos]
    simp only [wide, leaf1]
    simp
    omega
  have ex : s.xlate 1 0 .s .r va = .ok (leafPhys va wide) := by
    unfold State.xlate
    rw [if_neg (by omega), e1]
    simp only [Bool.false_eq_true, if_false, State.tlb?, ef]
    rfl
  refine ⟨s.tlbUse 1 0 va, wide.leaf, ?_, rfl, ?_⟩
  · unfold State.engXlate State.logEng
    rw [h.part]
    dsimp only
    rw [if_neg (by omega), e1]
    simp only [Bool.false_eq_true, if_false, State.xlateNow, ex]
    simp [leafPhys, wide, leaf1]
  · unfold State.tlbUse
    rw [ef]
    refine ⟨h.1, h.2, ?_, h.4⟩
    show put s.octets _ _ = _
    unfold State.oct
    rw [h.octets]
    rfl

theorem reads_part {m : Memory} {s : State} (h : Reads m s) (x : Nat × Nat) (bs : List Byte) (hx : 0x30000 + x.1 < 2 ^ 30)
    (r : Word) (hr : r = 0x30000) :
    ∃ t, (match some bs, s.engXlate (s.logEng 1) .r (r + BitVec.ofNat 64 x.1) with
      | some bs, (.ok (pa, some l), s) =>
        if l.tgt ≠ 0 || s.poisoned pa x.2 then (none, s)
        else
          let s := (linesOf pa x.2).foldl (init := s) fun s a =>
            ((s.meetFlip (s.pageBusy a)).cleanCopies a none).llcAccess a .none 0 false
          (some (bs ++ s.rdBytes pa x.2), s)
      | _, (_, s) => (none, s)) = (some (bs ++ m.bytes (0x30000 + x.1) x.2), t) ∧ Reads m t := by
  subst hr
  have hv : (0x30000 + BitVec.ofNat 64 x.1 : Word).toNat = 0x30000 + x.1 := by
    rw [BitVec.toNat_add, BitVec.toNat_ofNat]
    show (0x30000 + _) % _ = _
    omega
  obtain ⟨t, l, e, hl, ht⟩ := reads_xlate h (0x30000 + BitVec.ofNat 64 x.1) (by omega)
  rw [e, hv]
  have hp : t.poisoned (0x30000 + x.1) x.2 = false := by
    unfold State.poisoned
    rw [ht.clean]
    simp
  simp only [hl, hp]
  have hf := reads_lines ht (linesOf (0x30000 + x.1) x.2)
  refine ⟨_, ?_, hf⟩
  simp only [State.rdBytes, hf.bytes]
  rfl

/-- R378: where the TLB holds `wide`, the bytes of the image at 0x30000 are those that memory holds there. -/
theorem reads_image {m : Memory} {s : State} (h : Reads m s) (hi : (s.core 1).rp.image = 0x30000) :
    (s.readImage 1).1 = some (m.bytes 0x30000 imageSize) := by
  have hp : imageParts ((0x30000 : Word).toNat) = (List.range 8).map fun j => (65536 * j, 65536) := by decide +kernel
  unfold State.readImage
  rw [hi, hp]
  have key : ∀ (l : List (Nat × Nat)) (bs : List Byte) (s : State), Reads m s → (∀ x ∈ l, 0x30000 + x.1 < 2 ^ 30) →
      (l.foldl (init := ((some bs : Option (List Byte)), s)) fun r x =>
        match r.1, r.2.engXlate (r.2.logEng 1) .r ((0x30000 : Word) + BitVec.ofNat 64 x.1) with
        | some bs, (.ok (pa, some l), s) =>
          if l.tgt ≠ 0 || s.poisoned pa x.2 then (none, s)
          else
            let s := (linesOf pa x.2).foldl (init := s) fun s a =>
              ((s.meetFlip (s.pageBusy a)).cleanCopies a none).llcAccess a .none 0 false
            (some (bs ++ s.rdBytes pa x.2), s)
        | _, (_, s) => (none, s)).1 = some (bs ++ l.flatMap fun x => m.bytes (0x30000 + x.1) x.2) := by
    intro l
    induction l with
    | nil => intro bs s _ _; simp
    | cons x l ih =>
      intro bs s hs hl
      obtain ⟨t, e, ht⟩ := reads_part hs x bs (hl x (.head _)) _ rfl
      rw [List.foldl_cons]
      dsimp only at e ⊢
      rw [e, ih _ t ht fun y hy => hl y (.tail _ hy)]
      simp
  refine (key _ _ _ h fun x hx => ?_).trans ?_
  · obtain ⟨j, hj, rfl⟩ := List.mem_map.1 hx
    have := List.mem_range.1 hj
    dsimp only
    omega
  refine congrArg some ?_
  have hb : ∀ n, ((List.range n).map fun j => ((65536 * j, 65536) : Nat × Nat)).flatMap (fun x => m.bytes (0x30000 + x.1) x.2) =
      m.bytes 0x30000 (65536 * n) := by
    intro n
    induction n with
    | zero => rfl
    | succ n ih =>
      rw [List.range_succ, List.map_append, List.flatMap_append, ih, Nat.mul_succ]
      unfold Memory.bytes
      rw [List.range_add, List.map_append]
      simp [Nat.add_assoc, Function.comp_def]
  have h8 : imageSize = 65536 * 8 := by decide
  rw [h8]
  exact (List.nil_append _).trans (hb 8)

theorem bytes_are {m : Memory} {f : Nat → Byte} (n : Nat) (hm : ∀ j, j < n → m.byte (0x30000 + j) = f j) :
    m.bytes 0x30000 n = (List.range n).map f :=
  List.map_congr_left fun j hj => hm j (List.mem_range.1 hj)

theorem imageWith_one {bs : List Byte} {id : Nat} {im : CoreImage} (h : bs = imageList id) : imageWith [(id, im)] bs = some im := by
  unfold imageWith
  rw [List.findSome?_cons, if_pos h]

theorem findImage_is (s : State) (k : Nat) :
    (s.findImage k).1 = (s.readImage k).1.bind fun bs => imageWith ((s.part? (s.core k).rp.part).elim [] (·.ckpts)) bs := rfl

theorem finds_image {m : Memory} {s : State} {v : Machine.Part} {id : Nat} {im : CoreImage} (h : Reads m s) (hi : (s.core 1).rp.image = 0x30000)
    (hv : s.part? 0 = some v) (hc : v.ckpts = [(id, im)]) (hm : ∀ j, j < imageSize → m.byte (0x30000 + j) = imageByte id j) :
    (s.findImage 1).1 = some im := by
  rw [findImage_is, reads_image h hi, h.part, hv, Option.elim_some, hc, Option.bind_some]
  exact imageWith_one (bytes_are imageSize hm)

/-- `logging`, with `wide` in the octet's TLB and the bytes of the image of id 7 at 0x30000. -/
def replayed : State :=
  let s := logging 0x10002
  { s with octets := wideOct, mm := { s.mm with bytes := s.mm.bytes.fill 0x30000 imageSize (imageByte 7) } }

/-- The image lies below the core's local memory, so the words of the descriptor stay. -/
theorem words_replayed (j : Nat) : wordsAt replayed.mm.bytes j = wordsAt (memOf (lmAddr 0 0x1000) (logWords 0x10002)) j := by
  have hs : imageSize = 0x80000 := rfl
  have hl : lmAddr 0 0x1000 ≥ 0x1000000 := by decide
  have hb (x : Nat) (h : lmAddr 0 0x1000 ≤ x) : replayed.mm.bytes.byte x = (memOf (lmAddr 0 0x1000) (logWords 0x10002)).byte x := by
    refine (byte_fill ..).trans (if_neg ?_)
    rw [hs]
    omega
  have e (m : Memory) : wordsAt m j = BitVec.ofNat 64 (bytesNat ((List.range 8).map fun x => m.byte (lmAddr 0 0x1000 + 8 * j + x))) := rfl
  rw [e, e]
  exact congrArg (fun l => BitVec.ofNat 64 (bytesNat l)) (List.map_congr_left fun x _ => hb _ (by omega))

theorem test_hyps_RplogReplays :
    (replayed.able [.x 1] [.x 3] ∧ (replayed.slot 0).task.pure = false ∧ (replayed.slot 0).lv ≠ .u ∧ (replayed.slot 0).st = .ready ∧
      replayed.rv (.x 1) = 0x00FFFF0000001000 ∧ replayed.mm.feq = []) ∧
    LogGood replayed (wordsAt (memOf (lmAddr 0 0x1000) (logWords 0x10002))) ∧
    ((∀ j, j < 8 → (replayed.slot (8 * 1 + j)).st = .idle) ∧ (replayed.core 1).rp.mode = .off) ∧
    DescriptorAt replayed 0x00FFFF0000001000 64 (wordsAt (memOf (lmAddr 0 0x1000) (logWords 0x10002))) ∧
    ∀ rp : ReplayCore, rp.part = 0 → rp.image = wordsAt (memOf (lmAddr 0 0x1000) (logWords 0x10002)) 3 →
      ((replayed.modCore 1 fun c => { c with rp := rp }).findImage 1).1 = some image1 := by
  have h3 : wordsAt (memOf (lmAddr 0 0x1000) (logWords 0x10002)) 3 = 0x30000 := by decide +kernel
  refine ⟨⟨⟨?_, ?_⟩, ?_, ?_, ?_, ?_, ?_⟩, ⟨?_, ?_, ?_, ?_, ?_, ?_, ?_⟩, ⟨?_, ?_⟩, ?_, fun rp hp hi => ?_⟩
  all_goals try decide +kernel
  · rw [← funext words_replayed]
    exact described_at _ _ (by decide) rfl rfl rfl rfl rfl
  · have hc : (replayed.modCore 1 fun c => { c with rp := rp }).core 1 = { CoreState.reset with rp := rp } := rfl
    refine finds_image (m := replayed.mm.bytes) (v := { part0 with ckpts := [(7, image1)] }) ⟨rfl, rfl, rfl, ?_⟩ ?_ rfl rfl fun j hj => ?_
    · rw [hc]; exact hp
    · rw [hc]; exact hi.trans h3
    · refine (byte_fill ..).trans (if_pos (by omega) |>.trans ?_)
      rw [Nat.add_sub_cancel_left]

/-- Core 0 replays the log at offset 0x2000 of its local memory, whose first record is `x`. -/
def replaying (x : LogRec) (n : Nat) : State :=
  { one id with
    mm := { (one id).mm with bytes := Memory.setBytes [] (lmAddr 0 0x2000) x.bytes }
    cores := [(0, { CoreState.reset with rp :=
      { mode := .replay, lbase := 0x00FFFF0000002000, lbytes := n, image := 0x30000, status := 0x00FFFF0000003000, part := 0, count := 0
        base := 0, after := 0, count0 := 0, buf := [] } })] }

theorem test_hyps_ReplayAppliesItsLog :
    let x (k sl : Nat) (src : BitVec 15) : LogRec := { off := 0, r := { kind := k, slot := sl, src := src, data := 0xABCD } }
    let s := replaying (x 2 1 0) 16
    ((s.core 0).rp.mode = .replay ∧ (s.core 0).rp.base ≤ s.dclk ∧ (s.core 0).rp.after ≤ s.dclk ∧ s.mm.feq = [] ∧ 0 < 8192 ∧ s.mm.bytes.wf = true ∧ AMap.wf s.slots = true) ∧
    (s.recordAt 0 0 = some (x 2 1 0) ∧ (x 2 1 0).off ≤ s.dclk - 0 ∧ (x 2 1 0).r.slot < 3) ∧
    (replaying (x 5 0 0x4001) 16).recordAt 0 0 = some (x 5 0 0x4001) ∧ (replaying (x 10 0 0) 16).recordAt 0 0 = some (x 10 0 0) ∧
    ((replaying (x 2 1 0) 0).recordAt 0 0 = none ∧ (replaying (x 2 1 0) 0).part? 0 = some part0) := by
  refine ⟨⟨?_, ?_, ?_, ?_, ?_, ?_, ?_⟩, ⟨?_, ?_, ?_⟩, ?_, ?_, ?_, rfl⟩ <;> decide +kernel

/-! The host link, Cybel, power and resets. -/

/-- The page at 0x10000 is host memory over the link where `tgt` is 1; the bias page of its place is `b`. -/
def biased (tgt : Nat) (b : BiasPage) : State :=
  { paged 0 [] with
    octets := [(0, { Octet.reset with part := some 0, tlb := [{ leaf1 with leaf := { leaf1.leaf with tgt := tgt } }] })]
    bias := [(0x2FFFFF, b)] }

theorem test_hyps_Biasf :
    let b := BiasPage.fresh
    (biased 0 b).able [.x 1] [.x 3] ∧ ((biased 0 b).slot 0).task.pure = false ∧ ((biased 0 b).slot 0).lv ≠ .u ∧
    ((biased 0 b).rv (.x 1)).toNat < 2 ^ 56 ∧ ((biased 0 b).rv (.x 1)).toNat / 2 ^ 48 ≠ 0xFF ∧
    (biased 0 b).tlb? 0 0 ((biased 0 b).rv (.x 1)) = some leaf1 ∧ leaf1.leaf.w = true ∧ leaf1.leaf.sealed_ = false ∧
    ((biased 1 b).tlb? 0 0 ((biased 1 b).rv (.x 1))).any (fun e => e.leaf.tgt ≠ 0) = true ∧ leaf1.leaf.tgt = 0 ∧
    (leaf1.leaf.pbase + (((biased 0 b).rv (.x 1)).toNat - leaf1.vbase)) / 65536 = 0x2FFFFF ∧
    ((biased 0 { b with locked := true }).page 0x2FFFFF).locked = true ∧ ((biased 0 b).page 0x2FFFFF).locked = false ∧
    ((biased 0 b).slot 0).pend = [] ∧ ((biased 0 b).page 0x2FFFFF).flips = [] ∧
    ((biased 0 b).page 0x2FFFFF).st = .device ∧ ((biased 0 { b with st := .host }).page 0x2FFFFF).st = .host := by
  refine ⟨⟨?_, ?_⟩, ?_⟩ <;> decide +kernel

/-- A flip of page 9 to host bias drains; slot 0 or the host asked for it. -/
def flipping (slot : Option Nat) : State :=
  { one (fun sl => { sl with st := .stall, hold := .reply (.x 3) }) with
    bias := [(9, { BiasPage.fresh with st := .toHost, flips := [{ slot := slot, host := true }] })]
    host := { State.reset.host with pendingBias := if slot.isSome then none else some { pages := [9], host := true, lock := true } } }

theorem test_hyps_BiasDrains :
    (((flipping (some 0)).page 9).flips = [{ slot := some 0, host := true }] ∧ ((flipping (some 0)).page 9).st = .toHost ∧
      (flipping (some 0)).host.pendingBias = none ∧ ((flipping (some 0)).slot 0).hold = .reply (.x 3) ∧
      ((flipping (some 0)).slot 0).unstepped = true) ∧
    (((flipping none).page 9).flips = [{ slot := none, host := true }] ∧ ((flipping none).page 9).st = .toHost ∧
      (flipping none).host.pendingBias = some { pages := [9], host := true, lock := true }) := by
  decide +kernel

/-- x1 is a signal vector; the partition's ring has the producer index `p`, and vector 15 is mapped. -/
def signalling (v : Word) (p : BitVec 32) : State :=
  { oneX v with parts := [(0, { part0 with sig :=
      { base := 0x1000, k := 10, pidx := 0, cidx := 8, p := p, vectors := List.replicate 16 7 } })] }

theorem test_hyps_Hostsig :
    (signalling 15 1024).able [.x 1, .x 2] [.x 3] ∧ ((signalling 15 1024).slot 0).task.pure = false ∧ ((signalling 15 1024).slot 0).pend = [] ∧
    (∀ l, (signalling 15 1024).stashHolders l = []) ∧ 16 ≤ ((signalling 16 0).rv (.x 1)).toNat ∧
    ((signalling 15 1024).rv (.x 1)).toNat < 16 ∧ (List.replicate 16 7)[15]? = some 7 ∧
    (1024 - ((signalling 15 1024).rdWord (hostBase + 8)).setWidth 32 : BitVec 32).toNat = 2 ^ 10 ∧
    ¬ (0 - ((signalling 15 0).rdWord (hostBase + 8)).setWidth 32 : BitVec 32).toNat = 2 ^ 10 ∧
    hostBase + 0 + 8 ≤ hostBase + 0x1000 + 16 * ((0 : BitVec 32).toNat % 2 ^ 10) := by
  refine ⟨⟨?_, ?_⟩, ?_, ?_, fun _ => rfl, ?_⟩ <;> decide +kernel

/-- The host has put a request with code `c` into the mailbox of `s` and rung its doorbell. -/
def asking (s : State) (c : Nat) : State := { s with host := { s.host with box := [(0, BitVec.ofNat 64 c), (511, 1)] } }

theorem asking_takes {s : State} {c : Nat} (h1 : s.host.ready = true) (h2 : s.host.pendingBias = none) (h3 : s.host.clocksStopped = false)
    (h4 : fld (BitVec.ofNat 64 c) 15 0 = c) : (asking s c).takes c := ⟨h1, h2, h3, h4, rfl⟩

theorem test_hyps_HostAccesses :
    let s := withQueue (one id) { queue0 [] [] with df := false }
    let e := { queue0 [] [] with df := false }
    (∀ l, s.stashHolders l = []) ∧ (0 < 16 ∧ 0x1000 + 16 ≤ devEnd ∧ ∀ x, 0x1000 ≤ x → x < 0x1000 + 16 → s.pageBusy x = false) ∧
    0x1000 % 16 = 0 ∧ s.queue 7 = e ∧ e.part < 16 ∧ e.df = false ∧ e.tw = false ∧ ((8 : BitVec 32) - e.head).toNat ≤ 2 ^ e.rsz ∧
    2 ^ e.rsz < ((9 : BitVec 32) - e.head).toNat := by
  refine ⟨fun _ => rfl, ⟨?_, ?_, fun x _ _ => rfl⟩, ?_⟩ <;> decide

/-- Core 0 has a bank of each role: 0 plain, 1 in the cache role with line 5 of the page at 0x10000, 3 a stash bank with that line; it holds the
line dirty, and its home bytes are kept. -/
def struck : State :=
  { one id with
    mm := { (one id).mm with homes := [(0x10280, List.replicate 128 (7, false))] }
    cores := [(0, { CoreState.reset with
      brole := 0x84, cache := [{ pa := 0x10280, bank := 1, owned := true, dirty := true }]
      stash := [(3, { base := 0x10000, hint := .ef, lines := [(5, 0x10280, true, true)] })] })] }

theorem test_hyps_UncorrectableErrors :
    0x288 < devEnd ∧ get? struck.mm.homes (0x288 / 128 * 128) = none ∧
    (get? struck.mm.homes (0x10288 / 8 * 8 / 128 * 128) = some (List.replicate 128 (7, false)) ∧ (List.replicate 128 ((7 : Byte), false)).length = 128) ∧
    struck.role 0 0 = 0 ∧ struck.role 0 1 = 1 ∧ struck.role 0 3 = 2 ∧
    (∀ l ∈ (struck.core 0).cache, l.bank = 1 ∧ l.pa / 128 % 32 = 0x1288 % 0x1000 / 128 ∧ ¬ l.pa / 128 % 32 = 0x1308 % 0x1000 / 128) ∧
    (struck.core 0).cache ≠ [] ∧ get? (struck.core 0).stash 4 = none ∧
    ∃ v, get? (struck.core 0).stash 3 = some v ∧ get? v.lines (0x3288 % 0x1000 / 128) = some (0x10280, true, true) ∧
      get? v.lines (0x3308 % 0x1000 / 128) = none := by
  refine ⟨?_, ?_, ⟨?_, ?_⟩, ?_, ?_, ?_, ?_, ?_, ?_, _, rfl, ?_, ?_⟩ <;> decide +kernel

theorem test_hyps_BiasCommands :
    (asking (one id) 0x07).takes 0x07 ∧ devEnd < 65536 * (0x300000 + 1) ∧ 65536 * (0x2FFFFF + 1) ≤ devEnd ∧
    ((one id).page 0x2FFFFF).flips = [] ∧ ((one id).page 0x2FFFFF).st = .device := by
  refine ⟨asking_takes rfl rfl rfl ?_, ?_, ?_, ?_, ?_⟩ <;> decide

/-- A partition that is to be number `n`, with octet `o`. -/
def spec0 (n o : Nat) : PartSpec :=
  { num := n, octets := [o], ptbase := 0, quota := 1472, store := 0x400000, storeSize := 4096 + 0x1000, pool := 0x1000, cap := 16, save := 0
    period := none, ring := 0, rsz := 3, tickets := 1, sigBase := 0, sigK := 4, sigPidx := 0, sigCidx := 0, vectors := [16, 2047] }

theorem test_hyps_Partitions :
    (asking (one id) 0x01).takes 0x01 ∧ (asking (one id) 0x02).takes 0x02 ∧ (∀ o ∈ (spec0 1 1).octets, o < 1024) ∧
    ({ spec0 1 1 with tickets := 0 }).tickets = 0 ∧ (one id).host.standby = false ∧
    (0 < (spec0 1 1).tickets ∧ (spec0 1 1).tickets ≤ 4096 ∧ 3 ≤ (spec0 1 1).rsz ∧ (spec0 1 1).rsz ≤ 20 ∧ fld (spec0 1 1).ring 5 0 = 0) ∧
    ((one id).part? (spec0 0 1).num ≠ none ∧ ((one id).oct 0).part ≠ none ∧ 1536 < (part0.quota + 1473) ∧
      (one id).parts.map (fun p => p.2.quota) = [64]) ∧
    ((one id).part? (spec0 1 1).num = none ∧ (∀ o ∈ (spec0 1 1).octets, ((one id).oct o).part = none) ∧
      ((one id).parts.map fun p => p.2.quota).sum + (spec0 1 1).quota ≤ 1536 ∧ (∀ v ∈ (spec0 1 1).vectors, 16 ≤ v) ∧
      (spec0 1 1).cap * 256 + (spec0 1 1).pool ≤ (spec0 1 1).storeSize) ∧
    ((spec0 1 1).num < 16 ∧ (spec0 1 1).octets.Nodup ∧ (∀ o ∈ (spec0 1 1).octets, ((one id).die (o / 256)).on = true) ∧
      (spec0 1 1).vectors.length ≤ 16 ∧ (∀ v ∈ (spec0 1 1).vectors, v ≤ 2047) ∧ 4 ≤ (spec0 1 1).sigK ∧ (spec0 1 1).sigK ≤ 16 ∧
      (spec0 1 1).cap ≤ 2 ^ 24) ∧
    ((one id).part? 1 = none ∧ (one id).part? 0 = some part0 ∧ part0.images = [] ∧ (∀ o ∈ part0.octets, o < 1024) ∧
      (0 / 64 ∈ part0.octets ∧ ((one id).oct (0 / 64)).part = some 0 ∧ ((one id).slot 0).st ≠ .idle) ∧
      ∀ i, i / 64 ∈ part0.octets → (({ one id with slots := [] } : State).slot i).st = .idle) := by
  refine ⟨asking_takes rfl rfl rfl ?_, asking_takes rfl rfl rfl ?_, ?_, rfl, rfl, ⟨?_, ?_, ?_, ?_, ?_⟩, ⟨?_, ?_, ?_, ?_⟩,
    ⟨?_, ?_, ?_, ?_, ?_⟩, ⟨?_, ?_, ?_, ?_, ?_, ?_, ?_, ?_⟩, ?_, rfl, rfl, ?_, ⟨?_, ?_, ?_⟩, fun _ _ => rfl⟩ <;> decide +kernel

def qspec0 (p : Nat) (df : Bool) : QueueSpec :=
  { part := p, tenant := 3, tickets := 4096, en := true, sv := true, df := df, tw := true, ring := 0, rsz := 20, heada := 0, taila := 0x20000 }

theorem test_hyps_QueuesRingsAndQuotas :
    let s := withQueue (one id) (queue0 [packet0] [])
    let g : RingSpec := { en := true, home := 3, base := 0, rsz := 4, pidxa := 0, cidxa := 0, statwa := 0 }
    ((asking (one id) 0x03).takes 0x03 ∧ (asking (one id) 0x04).takes 0x04 ∧ (asking (one id) 0x05).takes 0x05) ∧
    ((s.queue 7).depth ≠ 0 ∧ (s.queue 7).part < 16 ∧ (s.queue 7).part ≠ (qspec0 1 false).part) ∧
    ((qspec0 0 false).tw = true ∧ (qspec0 0 false).df = false ∧ tables.tailOk (qspec0 0 false) = false ∧ tables.host = (one id).host ∧
      ({ qspec0 0 false with tickets := 4097 }).tickets = 4097) ∧
    (((one id).queue 7).depth = 0 ∧ tables.tailOk { qspec0 0 false with taila := 0x10000 } = true ∧ (qspec0 0 true).part < 16 ∧
      0 < (qspec0 0 true).tickets ∧ (qspec0 0 true).tickets ≤ 4096 ∧ 3 ≤ (qspec0 0 true).rsz ∧ (qspec0 0 true).rsz ≤ 20 ∧
      fld (qspec0 0 false).ring 5 0 = 0 ∧ fld (qspec0 0 false).heada 2 0 = 0 ∧ fld (qspec0 0 false).taila 2 0 = 0) ∧
    (((one id).part? 0).map (·.newt) = some newt0 ∧ 255 < 256 ∧ g.home < 4 ∧ 4 ≤ g.rsz ∧ g.rsz ≤ 20) ∧
    ((one id).pw.tenants.filter (fun e => e.1 ≠ 3) = [] ∧ 256 < 0 + 257 ∧ 0 + 256 ≤ 256 ∧ 15 ≤ 15) := by
  refine ⟨⟨asking_takes rfl rfl rfl ?_, asking_takes rfl rfl rfl ?_, asking_takes rfl rfl rfl ?_⟩, ⟨?_, ?_, ?_⟩, ⟨rfl, rfl, ?_, rfl, rfl⟩,
    ⟨?_, ?_, ?_, ?_, ?_, ?_, ?_, ?_, ?_, ?_⟩, ⟨rfl, ?_, ?_, ?_, ?_⟩, ?_, ?_, ?_, ?_⟩ <;> decide +kernel

theorem test_hyps_GangWindowAndDomain :
    let v := { part0 with newt := { newt0 with next := 1 } }
    ((asking (one id) 0x06).takes 0x06 ∧ (asking (one id) 0x0E).takes 0x0E ∧ (asking (one id) 0x0C).takes 0x0C ∧
      (asking (one id) 0x0D).takes 0x0D) ∧ (one id).part? 1 = none ∧ (one id).part? 0 = some part0 ∧ (5 ∈ [5] ∧ 5 ∉ part0.octets) ∧
    (part0.gang = .running ∧ part0.armed = none ∧ (3 : Word) ≠ 0 ∧ (3 : Word).toNat < (4 : Word).toNat ∧ ∀ o ∈ [0], o ∈ part0.octets) ∧
    (stopped0 5 false).gang = .stopped 5 ∧ v.newt.next ≠ 0 ∧ part0.newt.next = 0 ∧ [(State.reset.host.module.toNat, 7)].length ≤ 64 ∧
    ({ (one id).host with winLocked := true }).winLocked = true ∧ (one id).host.winLocked = false ∧ (one id).parts ≠ [] ∧
    (∃ n ∈ [16], 16 ≤ n) ∧ State.reset.parts = [] ∧ (asking State.reset 0x0D).takes 0x0D ∧ (∀ n ∈ [15], n < 16) ∧ 63 < 64 := by
  refine ⟨⟨asking_takes rfl rfl rfl ?_, asking_takes rfl rfl rfl ?_, asking_takes rfl rfl rfl ?_, asking_takes rfl rfl rfl ?_⟩, rfl, rfl,
    ⟨?_, ?_⟩, ⟨rfl, rfl, ?_, ?_, ?_⟩, rfl, ?_, rfl, ?_, rfl, rfl, ?_, ?_, rfl, asking_takes rfl rfl rfl ?_, ?_, ?_⟩ <;> decide

/-- What a firmware image holds is not the model's: a module that refuses an image is shown here by its windows, and one that accepts it by
the condition that the image verifies, which some image may meet. -/
theorem test_hyps_Firmware :
    ((asking (one id) 0x09).takes 0x09 ∧ (asking (one id) 0x0A).takes 0x0A) ∧ 2 ^ 20 ≤ ({ (one id).host with sigIndex := 2 ^ 20 }).sigIndex ∧ (one id).host.sigIndex < 2 ^ 20 ∧
    (({ (one id).host with winLocked := true, windows := [(0, 8)] }).winLocked = true ∧ ¬ (0 ≤ 4 ∧ 4 + 8 ≤ 0 + 8)) ∧
    ¬ ((one id).host.winLocked = true ∧ ∀ w ∈ (one id).host.windows, ¬ (w.1 ≤ 4 ∧ 4 + 8 ≤ w.1 + w.2)) ∧ (one id).host.rollback = 0 := by
  refine ⟨⟨asking_takes rfl rfl rfl ?_, asking_takes rfl rfl rfl ?_⟩, ?_, ?_, ⟨rfl, ?_⟩, ?_, rfl⟩ <;> decide

theorem test_hyps_Power :
    (asking (one id) 0x08).takes 0x08 ∧ (one id).host.standby = false ∧ (one id).host.clocksStopped = false ∧
    ((one id).dclk % 8 = 0 ∧ (one id).sched.begun = false) ∧ (one id).host.trip = false ∧
    (({ (one id).host with trip := true }).trip = true ∧ ({ (one id).sched with choices := [1] }).choices.headD 0 ≠ 0) ∧
    ({ (one id).host with clocksStopped := true }).clocksStopped = true ∧
    (∃ o x, get? (one id).octets o = some x ∧ o / 256 = 0 ∧ x.part ≠ none) ∧ (∀ e ∈ State.reset.octets, e.1 / 256 = 0 → e.2.part = none) ∧
    ((one id).die 3).on = true ∧ ((({ one id with dies := [(3, { Stack.reset with on := false })] } : State).die 3).on = false) ∧
    (∃ e ∈ (one id).parts, ∀ r, e.2.gang ≠ .stopped r) ∧ (¬ ∃ e ∈ State.reset.parts, ∀ r, e.2.gang ≠ .stopped r) ∧
    ({ (one id).host with standby := true }).standby = true ∧ (asking State.reset 0x08).takes 0x08 ∧ State.reset.unitsQuiet = true := by
  refine ⟨asking_takes rfl rfl rfl ?_, rfl, rfl, ⟨rfl, rfl⟩, rfl, ⟨rfl, ?_⟩, rfl, ⟨0, _, rfl, rfl, ?_⟩, fun e h => by (cases h), rfl, rfl,
    ⟨_, .head _, fun r h => ?_⟩, fun ⟨e, h, _⟩ => by (cases h), rfl, asking_takes rfl rfl rfl ?_, ?_⟩
  · decide
  · decide
  · decide
  · cases h
  · decide
  · decide

/-- R391, R395: power that is lost and returns leaves the module as after reset. -/
theorem test_power_returns : (match exec .powerLoss State.reset with
    | .next t => decide (t = State.reset)
    | _ => false) = true := by decide +kernel

theorem test_hyps_Resets :
    (asking State.reset 0x0B).takes 0x0B ∧ (State.reset.host.flash.signed = true ∧ State.reset.host.rollback ≤ State.reset.host.flash.version) ∧
    ({ State.reset.host with rollback := State.reset.host.flash.version + 1 }).flash.version < State.reset.host.flash.version + 1 := by
  refine ⟨asking_takes rfl rfl rfl ?_, ?_, ?_⟩ <;> decide

/-! Encodings and the step. -/

theorem test_hyps_Encodings :
    hasEncoding (.bc (.x 3) (.x 4) (-1) 2 .lt) = true ∧ wellFormed (.bc (.x 3) (.x 4) (-1) 2 .lt) = true ∧ hasEncoding .flr = false ∧
    decode ⟨0x8100, 0x0C42, 0xFFE2, 0⟩ = .ok (.bc (.x 3) (.x 4) (-1) 2 .lt) := by decide

/-- Slot 0 is to issue the table word `w`. -/
def fetching (nbits w : Nat) : State := State.reset.withFetchWord nbits w

theorem test_hyps_Step :
    Issues (fetching 16 0x40) 0 ∧ ((fetching 16 0x40).slot 0).line = some (lineOf (tableEnc 16 0x40)) ∧
    lineCheck (lineOf (tableEnc 16 0x40)) = none ∧
    (0 < fld ((fetching 16 0x40).slot 0).pc 5 0 ∧ fld ((fetching 16 0x40).slot 0).pc 5 0 ≤ lineHeads (lineOf (tableEnc 16 0x40))) ∧
    decode (lineEnc (lineOf (tableEnc 16 0x40)) 1) = .ok .nop ∧ (∀ c ∈ (fetching 16 0x40).cores, c.2.rp.mode ≠ .recording) ∧
    decode (lineEnc (lineOf (tableEnc 16 0x3F)) 1) = .error .illegalOp := by
  refine ⟨⟨?_, ?_, .inl ?_, ⟨?_, ?_, ?_, ?_⟩, ?_, ?_⟩, ?_⟩ <;> decide +kernel

/-- Slot 0 holds no line and its PC is in the page at 0x10000; the core's line buffer is `buf`. -/
def entering (buf : List Nat) (poison : List Nat) : State :=
  { one (fun sl => { sl with pc := 0x10001 }) with
    octets := [(0, { Octet.reset with part := some 0, tlb := [leaf1] })]
    cores := [(0, { CoreState.reset with lineBuf := buf })]
    mm := { (one id).mm with poison := poison } }

theorem test_hyps_SlotsEnterTheirLines :
    ((entering [] []).slot 0).line = none ∧ (0x10000 : Word).toNat < 2 ^ 56 ∧ (0x10000 : Word).toNat / 2 ^ 48 ≠ 0xFF ∧
    BitVec.ofNat 64 (((entering [] []).slot 0).pc.toNat / 64 * 64) = (0x10000 : Word) ∧
    (entering [] []).tlb? 0 0 0x10000 = some leaf1 ∧ leaf1.leaf.tgt = 0 ∧ leaf1.leaf.x = true ∧ leaf1.leaf.u = true ∧
    leaf1.leaf.pbase + ((0x10000 : Word).toNat - leaf1.vbase) = 0x2FFFFF0000 ∧ leaf1.leaf.c = true ∧
    (∃ a ∈ [anAccess (.store [0]) 0x2FFFFF0038 8 0 0x10038], a.write = true ∧ ∃ x ∈ a.parts, x.pa < 0x2FFFFF0000 + 64 ∧ 0x2FFFFF0000 < x.pa + x.n) ∧
    ((entering [] []).slot 0).pend = [] ∧
    (0x2FFFFF0000 ∈ ((entering [0x2FFFFF0000] []).core 0).lineBuf ∧ (entering [0x2FFFFF0000] []).poisoned 0x2FFFFF0000 64 = false) ∧
    0x2FFFFF0000 ∉ ((entering [] []).core 0).lineBuf ∧ (entering [0x2FFFFF0000] [0x2FFFFF0038]).poisoned 0x2FFFFF0000 64 = true := by
  decide +kernel

/-- One step of slot 0 takes its turn and leaves the clock. -/
theorem test_hyps_StepsKeepTheTurns :
    (match step (fetching 16 0x40) with
      | .next t => t.dclk = 0 && t.sched.turned = [0]
      | _ => false) = true ∧ (fetching 16 0x40).turnsOk := by
  refine ⟨?_, ?_, ?_⟩ <;> decide +kernel

/-! The clauses that the statements above gained: what each of them asks is met. -/

theorem test_hyps_RegisterLevels :
    MayGetc (atU.slot 0) 0x000 ∧ MaySetc (atU.slot 0) 0x009 ∧ MayGetc (atPure.slot 0) 0x01B ∧ MaySetc (atPure.slot 0) 0x00D ∧
    MaySetc ((oneX 0x10555).slot 0) 0x007 ∧ ((oneX 0x10555).slot 0).live = true ∧ MaySetc ((oneX 0x40).slot 0) 0x04B ∧
    ((oneX 0x40).slot 7).live = false ∧ (atPorts.able [.x 1] [.x 3] ∧ MaySetc (atPorts.slot atPorts.cur) 0x04B) ∧
    (part0.newt.cap < 2 ^ 25 ∧ part0.newt.next < 2 ^ 25 ∧ 0 < part0.newt.pool ∧ part0.newt.used < part0.newt.pool) ∧
    ((one id).core 0).net.cpc.toNat < 2 ^ 63 := by
  refine ⟨⟨?_, ?_⟩, ⟨?_, ?_, ?_⟩, ⟨?_, ?_⟩, ⟨?_, ?_, ?_⟩, ⟨?_, ?_, ?_⟩, ?_, ⟨?_, ?_, ?_⟩, ?_, ⟨⟨?_, ?_⟩, ?_, ?_, ?_⟩, ?_⟩ <;> decide +kernel

theorem test_hyps_EventRegisters :
    (handlingX 0 0).able [] [.x 3] ∧ MayGetc ((handlingX 0 0).slot 0) 0x01A ∧ (handlingX 0 0).openEvent 0 = some event0 ∧
    (handlingX 0 0).agent? 0 ((handlingX 0 0).slot 0).task.agent = some agentOpen := by
  refine ⟨⟨?_, ?_⟩, ⟨?_, ?_⟩, ?_, ?_⟩ <;> decide +kernel

/-- The walks of 0x2000000 and 0x20000 in `tables` end at an entry of level 3 and of level 4 that is not valid. -/
theorem test_hyps_PageWalkEnds :
    (let e2 := tables.rdWord 0x50000
     let a3 := fld e2 55 12 * 4096 + 8 * fld (0x2000000 : Word) 33 25
     a3 < devEnd ∧ tables.poisoned a3 8 = false ∧ (tables.rdWord a3).getLsbD 0 = false) ∧
    (let e3 := tables.rdWord 0x60000
     let a4 := fld e3 55 12 * 4096 + 8 * fld (0x20000 : Word) 24 16
     a4 < devEnd ∧ tables.poisoned a4 8 = false ∧ (tables.rdWord a4).getLsbD 0 = false) := by decide +kernel

/-- A store into the word at offset 8 of core 1, which is EMPTY, is under way. -/
def remoteStf (full : List Nat) : State :=
  { one (fun sl => { sl with st := .stall, pend := [anAccess (.stf 9) (lmAddr 1 8) 8 (lmAddr 1 8) 0x00FF000000020008] }) with
    mm := { (one id).mm with full := full } }

theorem test_hyps_RemoteStf :
    let a := anAccess (.stf 9) (lmAddr 1 8) 8 (lmAddr 1 8) 0x00FF000000020008
    (((remoteStf []).slot (8 * 0 + 0)).pend = [a] ∧ a.id = 4 ∧ a.kind = .stf 9 ∧ a.queued = false ∧ a.left = [0] ∧ a.parts.map (·.pa) = [a.word]) ∧
    (remoteStf []).role (lmCore (lmAddr 1 8)) (lmBank (lmAddr 1 8)) = 0 ∧ (remoteStf []).pageBusy (lmAddr 1 8) = false ∧
    (remoteStf []).mm.feq = [] ∧ ((remoteStf []).slot (8 * 0 + 0)).unstepped = true ∧ lmAddr 1 8 ∉ (remoteStf []).mm.full ∧
    lmAddr 1 8 ∈ (remoteStf [lmAddr 1 8]).mm.full := by decide +kernel

theorem test_hyps_VectorValues :
    (∀ i ∈ [Instr.vadd .w32 1 2 3 none .f32, .sfn .w32 1 2 .rcp (some 0) .f32, .vred .w16 1 2 .add none .bf16, .vins .w8 1 2 15 none 1],
      wellFormed i = true ∧ GivesVector i 0 0 0) ∧
    (wellFormed (.vdec 1 2 3) = true ∧ ∃ f g, ConvFmts (.vdec 1 2 3) 0x00020002 0 0 f g) ∧
    (∃ f g, ConvFmts (.venc 1 2 0) 0 2 2 f g) ∧ (∃ f g, ConvFmts (.vcvt 1 2 3) 0x00020002 0 0 f g) ∧
    wellFormed (.vmovx (.x 3) 2 15 1 true 3) = true := by
  refine ⟨fun i h => ?_, ⟨?_, _, _, ⟨rfl, rfl⟩, .inl ?_, ?_⟩, ⟨_, _, ⟨rfl, rfl⟩, ?_, .inl ?_⟩, ⟨_, _, ⟨rfl, rfl⟩, ?_, ?_⟩, ?_⟩
  · simp only [List.mem_cons, List.not_mem_nil, or_false] at h
    obtain rfl | rfl | rfl | rfl := h <;> exact ⟨by decide, trivial⟩
  all_goals decide +kernel

theorem test_hyps_DrainFlag :
    let r : MatRun := { drainRun with op := matOp (.tdrain (.x 1) (.x 2) (.x 3) 0 false true true) 0x00FFFF0000000040 0 0x1001 }
    let s := matRuns r
    (s.core 0).mat.run = some r ∧ s.drawsLate 0 r.op = false ∧ (∃ p, s.drainPlan r.op true = .ok p ∧ ∀ b, b < 32 → s.role p.target b = 0) ∧
    (∀ x, isLm x = true → s.pageBusy x = false) ∧ s.mm.feq = [] := by
  refine ⟨rfl, ?_, ⟨_, rfl, ?_⟩, fun x _ => rfl, rfl⟩ <;> decide +kernel

/-- A replaying core's record stands for room in the matrix queue. -/
theorem test_hyps_MatrixReplays : (replaying { off := 0, r := { kind := 1, slot := 0, src := 0, data := 0 } } 16).replays 0 = true := by decide

theorem test_hyps_Chain : (agentOpen.events.any fun e => e.st = .opened 0) = true ∧ (handlingX 0 9).able [.x 1, .x 2] [.x 3] ∧
    get? newtOpen.agents ((handlingX 0 9).rv (.x 1)).toNat = some agentOpen := by
  refine ⟨?_, ⟨?_, ?_⟩, ?_⟩ <;> decide +kernel

theorem test_hyps_Gvtreq :
    (virtual { newt0 with pend := true }).part? 0 = some { part0 with newt := { newt0 with pend := true } } ∧
    ({ newt0 with pend := true }).pend = true ∧ ((virtual newt0).slot 0).unstepped = true ∧
    (reported 0).root = (virtual (reported 0)).host.module.toNat := by
  refine ⟨rfl, rfl, ?_, rfl⟩
  decide +kernel

/-- The stopped partition's octet was given to another partition and has been given back. -/
theorem test_hyps_GangGivesBack :
    let v := { stopped0 0 true with away := [0], back := [0] }
    (∀ o ∈ v.octets, o ∈ v.away → o ∈ v.back) ∧ v.gang = .stopped 0 ∧
    (∀ k, k / 8 ∈ part0.octets → ((switching 0 0 { part0 with gang := .stopping 20 }).core k).rp.buf = []) ∧
    (part0.gang = .running ∧ ({ part0 with gang := .stopping 20 }).gang ≠ .running ∧ 0 ∈ ({ part0 with gang := .stopping 20 }).octets) := by
  refine ⟨?_, rfl, fun _ _ => rfl, rfl, ?_, ?_⟩ <;> decide

/-- Core 0 records into its log, with nothing left to write, and x1 names a descriptor of mode 0. -/
def recordingCore : State :=
  { logging 0 with cores := [(0, { CoreState.reset with rp :=
    { mode := .recording, lbase := 0x00FFFF0000002000, lbytes := 64, image := 0x30000, status := 0x00FFFF0000003000, part := 0, count := 3
      base := 0, after := 0, count0 := 0, buf := [] } })] }

theorem test_hyps_RplogEnds :
    let w := wordsAt (memOf (lmAddr 0 0x1000) (logWords 0))
    LogGood recordingCore w ∧ fld (w 0) 1 0 = 0 ∧ fld (w 0) 28 16 = 0 ∧ OwnWord recordingCore 0 (w 4) (lmAddr 0 0x3000) ∧
    (recordingCore.core 0).rp.buf = [] ∧ DescriptorAt recordingCore 0x00FFFF0000001000 64 w ∧
    ((logging 0x10002).modCore 1 fun c => { c with rp := (recordingCore.core 0).rp }).octets = (one id).octets := by
  refine ⟨⟨?_, ?_, ?_, ?_, ?_, ?_, ?_⟩, ?_, ?_, ⟨?_, 0x3000, rfl, ?_, ?_, .inl ?_, .inl ?_⟩, rfl, described_at _ _ (by decide) rfl rfl ?_ rfl ?_,
    rfl⟩ <;> decide +kernel

/-- With no page in the octet's TLB and no table, the address of an image leads nowhere: no image is found (R378). -/
theorem test_hyps_RplogFindsNone :
    (((logging 0x10002).modCore 1 fun c => { c with rp := { (recordingCore.core 0).rp with image := 0x30000 } }).findImage 1).1 = none := by
  rfl

/-- The head meets a page in a flip. -/
theorem test_hyps_StepMeetsAFlip :
    ({ fetching 16 0x40 with sched := { (fetching 16 0x40).sched with flipHit := true } }).sched.flipHit = true ∧
    (match exec .nop { fetching 16 0x40 with sched := { (fetching 16 0x40).sched with flipHit := true } } with
      | .next t => t.sched.flipHit
      | _ => false) = true ∧ (fetching 16 0x40).sched.flipHit = false := by decide +kernel

theorem test_hyps_NoPageInAFlip : ∀ x, (gathered []).pageBusy x = false := fun _ => not_busy rfl

/-- Another core's stream has port 2: a STREAMSET that binds no port takes it for held. -/
theorem test_hyps_StreamsetOfAnother :
    (get? ((streaming [] [(3, { stream0 1 false with port := some 2 })]).die 0).net.streams 3 = some { stream0 1 false with port := some 2 }) ∧
    ((stream0 1 false).core ≠ 0) ∧ ((some { stream0 1 false with port := some 2 }).filter fun e => e.core = 0 && !e.coll).bind (·.port) = none := by
  refine ⟨rfl, ?_, ?_⟩ <;> decide

theorem test_hyps_PowerRests :
    (asking { one id with host := { (one id).host with standby := true } } 0x08).takes 0x08 ∧
    (asking { one id with host := { (one id).host with trip := true } } 0x08).takes 0x08 ∧
    ({ one id with host := { (one id).host with trip := true } } : State).unitsQuiet = true ∧
    ({ State.reset.host.flash with signed := false }).signed = false := by
  refine ⟨asking_takes rfl rfl rfl ?_, asking_takes rfl rfl rfl ?_, ?_, rfl⟩ <;> decide +kernel

/-- Where a stopped partition lists the octet that a new one takes, it is noted as given away. -/
theorem test_hyps_PartitionTakesAnOctet :
    let s : State := { one id with octets := [], parts := [(0, { stopped0 0 false with octets := [0] })] }
    (∀ o ∈ (spec0 1 0).octets, (s.oct o).part = none) ∧ s.part? 0 = some { stopped0 0 false with octets := [0] } ∧
    (stopped0 0 false).gang ≠ .running ∧ 0 ∈ (spec0 1 0).octets := by
  refine ⟨?_, rfl, ?_, ?_⟩ <;> decide

theorem test_hyps_Mailbox_of_the_host : 511 < 512 ∧ (7 < 8 ∧ (31 : Nat) < 32 ∧ ¬ (32 : Nat) < 32) := by decide

end Sys2Proof.Tests
end

section
/-!
PROOFS. The integer instructions of chapter 5 (R93 to R102): what a computing head yields, what each operation's value is in the terms of
the statements, and the three statements themselves.
-/

namespace Sys2Proof.Machine

/-! What a head that computes a value yields. -/

/-- R92: an instruction whose meaning is a computation of its sources yields the computed value. -/
theorem yields_compute {i : Instr} {s : State} {srcs : List Reg} {d : Reg} {f : State → Word} {v : Word}
    (hi : exec i s = .next (s.compute srcs d f)) (h : s.able srcs [d]) (hv : f s = v) : Yields i s srcs d v := by
  obtain ⟨hran, hwrote⟩ := ran_compute s srcs d f h
  exact ⟨_, hi, hran, hv ▸ hwrote⟩

/-- An instruction of one source yields its function of that source. -/
theorem yields_unary {i : Instr} {s : State} {d a : Reg} {f : Word → Word} {v : Word} (h : s.able [a] [d])
    (hi : exec i s = .next (s.unary d a f)) (hv : f (s.rv a) = v) : Yields i s [a] d v :=
  yields_compute hi h hv

/-- An instruction of two sources yields its function of them. -/
theorem yields_binary {i : Instr} {s : State} {d a b : Reg} {f : Word → Word → Word} {v : Word} (h : s.able [a, b] [d])
    (hi : exec i s = .next (s.binary d a b f)) (hv : f (s.rv a) (s.rv b) = v) : Yields i s [a, b] d v :=
  yields_compute hi h hv

/-! Words of truth values and comparisons. -/

theorem boolWord_eq_ite {b : Bool} {p : Prop} [Decidable p] (h : b = true ↔ p) : boolWord b = if p then 1 else 0 := by
  unfold boolWord
  simp only [h]

/-- R93: MIN and MAX choose by `<` where the statement chooses by `≤`: an injective key ties only for equal words, between which there is
no choice. -/
theorem pick_lt_eq_pick_le {α β : Type} [LinearOrder β] {key : α → β} (inj : Function.Injective key) (x y u v : α)
    {c : Prop} [Decidable c] (hc : c ↔ key x < key y) (huv : x = y → u = v) :
    (if c then u else v) = if key x ≤ key y then u else v := by
  by_cases hlt : key x < key y
  · rw [if_pos (hc.2 hlt), if_pos hlt.le]
  · rw [if_neg (mt hc.1 hlt)]
    split
    · next hle => exact (huv (inj (le_antisymm hle (not_lt.1 hlt)))).symm
    · rfl

theorem toInt_injective : Function.Injective fun x : Word => x.toInt := fun _ _ => BitVec.toInt_inj.1

/-- R95: a signed comparison with a sign-extended immediate compares with the immediate's own value. -/
theorem slt_signExtend (x : Word) (imm : BitVec 10) : x.slt (imm.signExtend 64) = true ↔ x.toInt < imm.toInt := by
  rw [BitVec.slt_iff_toInt_lt, BitVec.toInt_signExtend_of_le (by decide)]

/-! Differences, products and quotients (R93, R94). -/

theorem sub_eq_ofInt (x y : Word) : x - y = BitVec.ofInt 64 ((x.toNat : Int) - y.toNat) := by
  apply BitVec.eq_of_toNat_eq
  rw [BitVec.toNat_sub, BitVec.toNat_ofInt]
  omega

/-- Bits 127:64 of an integer's 128-bit two's complement form are its quotient by 2^64, rounded down. -/
theorem extractHigh_ofInt (z : Int) : (BitVec.ofInt 128 z).extractLsb' 64 64 = BitVec.ofInt 64 (z / 2 ^ 64) := by
  apply BitVec.eq_of_toNat_eq
  simp only [BitVec.extractLsb'_toNat, BitVec.toNat_ofInt, Nat.shiftRight_eq_div_pow]
  omega

theorem mulHigh_signed (x y : Word) :
    mulHigh x.toInt y.toInt = (x.signExtend 128 * y.signExtend 128).extractLsb' 64 64 := by
  have hprod : x.signExtend 128 * y.signExtend 128 = BitVec.ofInt 128 (x.toInt * y.toInt) := (BitVec.ofInt_mul ..).symm
  rw [hprod, extractHigh_ofInt, mulHigh]

theorem mulHigh_unsigned (x y : Word) :
    mulHigh x.toNat y.toNat = (x.setWidth 128 * y.setWidth 128).extractLsb' 64 64 := by
  have hext (w : Word) : w.setWidth 128 = BitVec.ofInt 128 w.toNat := by rw [BitVec.ofInt_natCast, BitVec.ofNat_toNat]
  rw [hext, hext, ← BitVec.ofInt_mul, extractHigh_ofInt, mulHigh]

/-- R94: the quotient toward zero, cut to 64 bits: the most negative value by -1 is that value again. -/
theorem ofInt_tdiv (x y : Word) : BitVec.ofInt 64 (x.toInt.tdiv y.toInt) = x.sdiv y := by
  rw [← BitVec.toInt_inj, BitVec.toInt_sdiv, BitVec.toInt_ofInt]

theorem ofInt_tmod (x y : Word) : BitVec.ofInt 64 (x.toInt.tmod y.toInt) = x.srem y := by
  rw [← BitVec.toInt_srem, BitVec.ofInt_toInt]

theorem divSigned_eq (x y : Word) : divSigned x y = if y = 0 then allOnes else x.sdiv y := by
  rw [divSigned, ofInt_tdiv]

theorem remSigned_eq (x y : Word) : remSigned x y = if y = 0 then x else x.srem y := by
  rw [remSigned, ofInt_tmod]

/-! Shifts (R93). -/

/-- The shift count is the number in bits 5:0. -/
theorem shiftBy_eq (y : Word) : shiftBy y = (y.extractLsb' 0 6).toNat := by
  simp [shiftBy]

/-! Counting (R98). -/

theorem leadingZeros_spec (x : Word) (n : Nat) :
    leadingZeros x n ≤ n ∧ (∀ k, n ≤ k + leadingZeros x n → k < n → x.getLsbD k = false) ∧
    (leadingZeros x n < n → x.getLsbD (n - 1 - leadingZeros x n) = true) := by
  induction n with
  | zero => simp [leadingZeros]
  | succ n ih =>
    obtain ⟨hle, hzero, hone⟩ := ih
    cases htop : x.getLsbD n with
    | true =>
      have hcount : leadingZeros x (n + 1) = 0 := by simp [leadingZeros, htop]
      rw [hcount]
      exact ⟨by omega, fun k _ _ => by omega, fun _ => htop⟩
    | false =>
      have hcount : leadingZeros x (n + 1) = leadingZeros x n + 1 := by simp [leadingZeros, htop]
      rw [hcount]
      refine ⟨by omega, fun k hk hlt => ?_, fun hlt => ?_⟩
      · obtain rfl | hne := eq_or_ne k n
        · exact htop
        · exact hzero k (by omega) (by omega)
      · rw [show n + 1 - 1 - (leadingZeros x n + 1) = n - 1 - leadingZeros x n by omega]
        exact hone (by omega)

theorem trailingZeros_spec (x : Word) (n lo : Nat) :
    trailingZeros x n lo ≤ n ∧ (∀ k, k < trailingZeros x n lo → x.getLsbD (lo + k) = false) ∧
    (trailingZeros x n lo < n → x.getLsbD (lo + trailingZeros x n lo) = true) := by
  induction n generalizing lo with
  | zero => simp [trailingZeros]
  | succ n ih =>
    obtain ⟨hle, hzero, hone⟩ := ih (lo + 1)
    cases hlow : x.getLsbD lo with
    | true =>
      have hcount : trailingZeros x (n + 1) lo = 0 := by simp [trailingZeros, hlow]
      rw [hcount]
      exact ⟨by omega, fun k hk => by omega, fun _ => hlow⟩
    | false =>
      have hcount : trailingZeros x (n + 1) lo = trailingZeros x n (lo + 1) + 1 := by simp [trailingZeros, hlow]
      rw [hcount]
      refine ⟨by omega, fun k hk => ?_, fun hlt => ?_⟩
      · cases k with
        | zero => exact hlow
        | succ k => rw [show lo + (k + 1) = lo + 1 + k by omega]; exact hzero k (by omega)
      · rw [show lo + (trailingZeros x n (lo + 1) + 1) = lo + 1 + trailingZeros x n (lo + 1) by omega]
        exact hone (by omega)

theorem leadingZeros_isCount (x : Word) : LeadingZeros x (leadingZeros x 64) := leadingZeros_spec x 64

theorem trailingZeros_isCount (x : Word) : TrailingZeros x (trailingZeros x 64 0) := by
  simpa [TrailingZeros] using trailingZeros_spec x 64 0

theorem popCount_eq (x : Word) : popCount x = (List.range 64).countP fun k => x.getLsbD k :=
  List.countP_eq_length_filter.symm

/-! Extensions and bit fields (R98, R100), bit by bit. -/

/-- The sign-extension of `w` bits repeats bit `w - 1` above them. -/
theorem getLsbD_sextNat (w v k : Nat) (hw : 0 < w) (hk : k < 64) :
    (sextNat w v).getLsbD k = v.testBit (min k (w - 1)) := by
  have hext : sextNat w v = (BitVec.ofNat w v).signExtend 64 := by
    rw [sextNat, if_neg (by omega), BitVec.signExtend, BitVec.toInt_ofNat']
  rw [hext, BitVec.getLsbD_signExtend, BitVec.msb_eq_getLsbD_last, BitVec.getLsbD_ofNat, BitVec.getLsbD_ofNat]
  by_cases h : k < w
  · simp [hk, h, show min k (w - 1) = k by omega]
  · simp [hk, h, hw, show min k (w - 1) = w - 1 by omega]

theorem testBit_fld (x : Word) (hi lo k : Nat) :
    (fld x hi lo).testBit k = (decide (k < hi + 1 - lo) && x.getLsbD (lo + k)) := by
  rw [fld, Nat.testBit_mod_two_pow, Nat.testBit_shiftRight, BitVec.testBit_toNat]

theorem getLsbD_fieldMask (w lo k : Nat) (hk : k < 64) :
    (BitVec.ofNat 64 ((2 ^ w - 1) <<< lo)).getLsbD k = decide (lo ≤ k ∧ k < lo + w) := by
  rw [BitVec.getLsbD_ofNat, Nat.testBit_shiftLeft, Nat.testBit_two_pow_sub_one]
  rw [decide_eq_true hk, Bool.true_and, ← Bool.decide_and]
  exact decide_eq_decide.2 (by omega)

theorem sizeBytes_pos (sz : Size) : 0 < sizeBytes sz := by
  cases sz <;> decide

/-- R98: EXTS repeats the top bit of the low bytes. -/
theorem getLsbD_signExtended (x : Word) (n k : Nat) (hn : 0 < n) (hk : k < 64) :
    (sextNat n (x.toNat % 2 ^ n)).getLsbD k = x.getLsbD (min k (n - 1)) := by
  have hlt : min k (n - 1) < n := by omega
  rw [getLsbD_sextNat _ _ _ hn hk, Nat.testBit_mod_two_pow, BitVec.testBit_toNat, decide_eq_true hlt, Bool.true_and]

/-- R98: EXTZ clears what is above the low bytes. -/
theorem getLsbD_zeroExtended (x : Word) (n k : Nat) (hk : k < 64) :
    (BitVec.ofNat 64 (x.toNat % 2 ^ n)).getLsbD k = (decide (k < n) && x.getLsbD k) := by
  rw [BitVec.getLsbD_ofNat, Nat.testBit_mod_two_pow, BitVec.testBit_toNat, decide_eq_true hk, Bool.true_and]

/-- R100: BFX without sign: the field at the low end, zeros above. -/
theorem getLsbD_bfxZero (x : Word) (w lo k : Nat) (hk : k < 64) :
    (BitVec.ofNat 64 (fld x (lo + w) lo)).getLsbD k = (decide (k ≤ w) && x.getLsbD (lo + k)) := by
  have hwidth : k < lo + w + 1 - lo ↔ k ≤ w := by omega
  rw [BitVec.getLsbD_ofNat, testBit_fld, decide_eq_true hk, Bool.true_and, decide_eq_decide.2 hwidth]

/-- R100: BFX with sign: the field's top bit is repeated. -/
theorem getLsbD_bfxSign (x : Word) (w lo k : Nat) (hk : k < 64) :
    (sextNat (w + 1) (fld x (lo + w) lo)).getLsbD k = x.getLsbD (lo + min k w) := by
  have hlt : min k w < lo + w + 1 - lo := by omega
  rw [getLsbD_sextNat _ _ _ (by omega) hk, testBit_fld, Nat.add_sub_cancel, decide_eq_true hlt, Bool.true_and]

/-- R100: BFI takes the bits of the field from the low end of `x` and every other from `y`. -/
theorem getLsbD_bfi (x y m : Word) (w lo k : Nat) (hm : m = BitVec.ofNat 64 ((2 ^ (w + 1) - 1) <<< lo)) (hk : k < 64) :
    ((y &&& ~~~m) ||| ((x <<< lo) &&& m)).getLsbD k =
      if lo ≤ k ∧ k ≤ lo + w then x.getLsbD (k - lo) else y.getLsbD k := by
  have hmask : m.getLsbD k = decide (lo ≤ k ∧ k ≤ lo + w) := by
    rw [hm, getLsbD_fieldMask _ _ _ hk]
    exact decide_eq_decide.2 (by omega)
  simp only [BitVec.getLsbD_or, BitVec.getLsbD_and, BitVec.getLsbD_not, BitVec.getLsbD_shiftLeft, hmask]
  by_cases hin : lo ≤ k ∧ k ≤ lo + w
  · simp [hin, hk]
  · simp [hin, hk]

/-! Mask registers (R102). -/

/-- Popping the source ports and writing a mask register touch different parts of the state. -/
theorem popPorts_setMreg (s : State) (i j : Nat) (srcs : List Reg) (n : BitVec 3) (v : BitVec 16) :
    (s.popPorts i srcs).setMreg j n v = (s.setMreg j n v).popPorts i srcs := by
  have one (t : State) (p : Nat) (b : Bool) : (popPort t i p b).setMreg j n v = popPort (t.setMreg j n v) i p b := by
    cases b <;> rfl
  simp only [popPorts_eq, one]

/-- R102: a head that writes a mask register and completes: beside that register it leaves what a head of its sources leaves. -/
theorem ran_setMreg (s : State) (srcs : List Reg) (n : BitVec 3) (v : BitVec 16) (h : (s.slot s.cur).unstepped = true) :
    Ran (s.setMreg s.cur n v) (((s.popPorts s.cur srcs).setMreg s.cur n v).complete s.cur) srcs [] (s.slot s.cur).npc := by
  have hslot : (s.setMreg s.cur n v).slot s.cur =
      { s.slot s.cur with regs := { (s.slot s.cur).regs with m := (s.slot s.cur).regs.m.setIfInBounds n.toNat v } } :=
    slot_modSlot_same ..
  have hstep : ((s.setMreg s.cur n v).slot s.cur).unstepped = true := by rw [hslot]; exact h
  have hnpc : (((s.setMreg s.cur n v).popPorts s.cur srcs).slot s.cur).npc = (s.slot s.cur).npc := by
    rw [slot_popPorts, hslot]
  rw [popPorts_setMreg, State.complete, hnpc]
  exact ran_go (s.setMreg s.cur n v) srcs _ hstep

/-! Counts, fields and masks: the two parts of their statement. -/

theorem countsAndFieldsYieldTheirResults : CountsAndFieldsYieldTheirResults := by
  intro s d a b c sz wm1 lo x
  refine ⟨fun h => ⟨?clz, ?ctz, ?popc, ?exts, ?extz, fun _ => ⟨?bfx, ?bfxs⟩⟩, fun h _ => ?bfi, fun h => ?sel⟩
  case clz => exact ⟨_, leadingZeros_isCount x, yields_unary h rfl rfl⟩
  case ctz => exact ⟨_, trailingZeros_isCount x, yields_unary h rfl rfl⟩
  case popc => exact yields_unary h rfl (congrArg _ (popCount_eq x))
  case exts =>
    have hsize : 0 < 8 * sizeBytes sz := by have := sizeBytes_pos sz; omega
    exact ⟨_, yields_unary h rfl rfl, fun k hk => getLsbD_signExtended x _ k hsize hk⟩
  case extz => exact ⟨_, yields_unary h rfl rfl, fun k hk => getLsbD_zeroExtended x _ k hk⟩
  case bfx => exact ⟨_, yields_unary h rfl rfl, fun k hk => getLsbD_bfxZero x _ _ k hk⟩
  case bfxs => exact ⟨_, yields_unary h rfl rfl, fun k hk => getLsbD_bfxSign x _ _ k hk⟩
  case bfi => exact ⟨_, yields_binary h rfl rfl, fun k hk => getLsbD_bfi x (s.rv b) _ _ _ k rfl hk⟩
  case sel => exact yields_compute rfl h rfl

theorem maskInstructions : MaskInstructions := by
  intro s a md ma mb op
  refine ⟨fun h => ?mlog, fun h => ?mset, fun h => ?mget⟩
  case mlog => cases op <;> exact ⟨_, rfl, ran_setMreg s [] md _ h.1⟩
  case mset => exact ⟨_, congrArg Host.Outcome.next (withRegs_ok _ _ _ _ _ h.2), ran_setMreg s [a] md _ h.1⟩
  case mget => exact yields_compute rfl h rfl

end Sys2Proof.Machine

open Sys2Proof Sys2Proof.Machine

/-- Settles O1: each operation's function of its sources is the result that the statement names. -/
theorem integerOperationsYieldTheirResults : Obligations.IntegerOperationsYieldTheirResults := by
  intro s d a b h x y
  refine ⟨?add, ?sub, ?mul, ?mulh, ?mulhn, ?div, ?divn, ?rem, ?remn, ?and, ?or, ?xor, ?andn, ?shl, ?shra, ?shrl, ?rotl,
    ?min, ?max, ?minn, ?maxn, ?slt, ?sltn, ?seq⟩
  case add => exact yields_binary h rfl rfl
  case sub => exact yields_binary h rfl (sub_eq_ofInt x y)
  case mul => exact yields_binary h rfl rfl
  case mulh => exact yields_binary h rfl (mulHigh_signed x y)
  case mulhn => exact yields_binary h rfl (mulHigh_unsigned x y)
  case div => exact yields_binary h rfl (divSigned_eq x y)
  case divn => exact yields_binary h rfl rfl
  case rem => exact yields_binary h rfl (remSigned_eq x y)
  case remn => exact yields_binary h rfl rfl
  case and => exact yields_binary h rfl rfl
  case or => exact yields_binary h rfl rfl
  case xor => exact yields_binary h rfl rfl
  case andn => exact yields_binary h rfl rfl
  case shl => exact yields_binary h rfl (congrArg (x <<< ·) (shiftBy_eq y))
  case shra => exact yields_binary h rfl (congrArg x.sshiftRight (shiftBy_eq y))
  case shrl => exact yields_binary h rfl (congrArg (x >>> ·) (shiftBy_eq y))
  case rotl => exact yields_binary h rfl (congrArg x.rotateLeft (shiftBy_eq y))
  case min => exact yields_binary h rfl (pick_lt_eq_pick_le toInt_injective x y x y BitVec.slt_iff_toInt_lt id)
  case max => exact yields_binary h rfl (pick_lt_eq_pick_le toInt_injective x y y x BitVec.slt_iff_toInt_lt Eq.symm)
  case minn => exact yields_binary h rfl (pick_lt_eq_pick_le BitVec.toNat_injective x y x y BitVec.lt_def id)
  case maxn => exact yields_binary h rfl (pick_lt_eq_pick_le BitVec.toNat_injective x y y x BitVec.lt_def Eq.symm)
  case slt => exact yields_binary h rfl (boolWord_eq_ite BitVec.slt_iff_toInt_lt)
  case sltn => exact yields_binary h rfl (boolWord_eq_ite (decide_eq_true_iff.trans BitVec.lt_def))
  case seq => exact yields_binary h rfl (boolWord_eq_ite beq_iff_eq)

/-- Settles O2: as O1, with the immediate as the second operand, and the two operations that read no register. -/
theorem immediateOperationsYieldTheirResults : Obligations.ImmediateOperationsYieldTheirResults := by
  intro s d a imm sh big off hd x
  refine ⟨fun h => ⟨?addi, ?andi, ?ori, ?xori, ?shli, ?shrai, ?shrli, ?slti, ?lih⟩, fun h => ⟨?li, ?addpc⟩⟩
  case addi => exact yields_unary h rfl rfl
  case andi => exact yields_unary h rfl rfl
  case ori => exact yields_unary h rfl rfl
  case xori => exact yields_unary h rfl rfl
  case shli => exact yields_unary h rfl rfl
  case shrai => exact yields_unary h rfl rfl
  case shrli => exact yields_unary h rfl rfl
  case slti => exact yields_unary h rfl (boolWord_eq_ite (slt_signExtend x imm))
  case lih => exact yields_unary h rfl rfl
  case li => exact yields_compute rfl h rfl
  case addpc => exact yields_compute rfl h rfl

/-- Settles O3: counts by induction on the number of bits looked at, fields bit by bit, masks by the rule of a head that writes one. -/
theorem countsFieldsAndMasks : Obligations.CountsFieldsAndMasks :=
  ⟨countsAndFieldsYieldTheirResults, maskInstructions⟩

end

section
/-!
PROOFS. The reading of a slot's trap record (R384).
-/

namespace Sys2Proof.Machine

/-- R384: bits 63:3 of a word are zero just where the word is an index of one of the eight words of a trap record. -/
theorem fld_63_3_eq_zero_iff (v : Word) : fld v 63 3 = 0 ↔ v.toNat < 8 := by
  have hv : v.toNat < 2 ^ 64 := v.isLt
  rw [fld, Nat.shiftRight_eq_div_pow]
  omega

/-- R384: FAULTGET yields the word of the trap record at the index that its source holds, and all ones where that is no index. -/
theorem yields_faultget {s : State} {d a : Reg} (h : s.able [a] [d]) :
    Yields (.faultget d a) s [a] d
      (if (s.rv a).toNat < 8 then (s.slot s.cur).trap.getD (s.rv a).toNat 0 else BitVec.allOnes 64) := by
  have hvalue : (if fld (s.rv a) 63 3 ≠ 0 then allOnes else (s.slot s.cur).trap.getD (s.rv a).toNat 0) =
      if (s.rv a).toNat < 8 then (s.slot s.cur).trap.getD (s.rv a).toNat 0 else BitVec.allOnes 64 := by
    simp only [ne_eq, ite_not, fld_63_3_eq_zero_iff, allOnes]
  exact yields_compute rfl h hvalue

end Sys2Proof.Machine

open Sys2Proof Sys2Proof.Machine

/-- Settles O44: what FAULTGET yields, by whether its source is an index of the record. -/
theorem faultgetReadsTheTrapRecord : Obligations.FaultgetReadsTheTrapRecord := by
  intro s d a h
  have hyields := yields_faultget h
  refine ⟨fun n hn hindex => ?word, fun hbeyond => ?beyond⟩
  case word =>
    have htoNat : (s.rv a).toNat = n := by
      rw [hindex, BitVec.toNat_ofNat, Nat.mod_eq_of_lt (by omega)]
    rwa [htoNat, if_pos hn] at hyields
  case beyond => rwa [if_neg (by omega)] at hyields

end
